-- ==== Sys2Proof/Word.lean ====
section
/-! DEFINITION. The words of the iAPX 286: bytes, 16-bit words, 24-bit physical addresses and the two
operand widths (spec 00 R6, 30 R189). -/

namespace Sys2Proof

/-- A byte, 8 bits (00 R6). -/
abbrev Byte := BitVec 8

/-- A word, 16 bits (00 R6). -/
abbrev Word := BitVec 16

/-- A 24-bit physical base address (20 R80). -/
abbrev Base24 := BitVec 24

/-- The operand width the w bit chooses (30 R189): w = 0 byte, w = 1 word. -/
inductive Width where
  | byte
  | word
  deriving DecidableEq, Repr

/-- Number of bits of an operand of this width. -/
def Width.bits : Width → Nat
  | .byte => 8
  | .word => 16

/-- Number of bytes of an operand of this width. -/
def Width.bytes : Width → Nat
  | .byte => 1
  | .word => 2

end Sys2Proof
end

