-- ==== Sys2Proof/Syntax.lean ====
section
/-! DEFINITION. The instructions of the iAPX 286: operand forms and one constructor of `Instr` for each row of
spec/opcode_table.json, in the table's order (30_encoding.md rules R184-R192, R201). -/

namespace Sys2Proof

/-- A general register number 0..7, named by the word register it stands for (30 R187). In a byte operand the
same numbers stand for AL CL DL BL AH CH DH BH (10 R21). -/
inductive Reg where
  | ax
  | cx
  | dx
  | bx
  | sp
  | bp
  | si
  | di
  deriving DecidableEq, Repr

/-- A segment register number 0..3 (30 R188). -/
inductive SReg where
  | es
  | cs
  | ss
  | ds
  deriving DecidableEq, Repr

/-- The registers an r/m code 0..7 sums in the offset calculation when mod is not 11 (30 R185). -/
inductive Base where
  | bxSi
  | bxDi
  | bpSi
  | bpDi
  | si
  | di
  | bp
  | bx
  deriving DecidableEq, Repr

/-- A memory operand of the ModRM byte, one constructor for each displacement length (30 R185): mod 00 with
r/m 110 is a 16-bit direct address; mod 00 has no displacement; mod 01 a sign-extended byte; mod 10 a word. -/
inductive Mem where
  | direct (disp : Word)
  | base (b : Base)
  | disp8 (b : Base) (disp : Byte)
  | disp16 (b : Base) (disp : Word)
  deriving DecidableEq, Repr

/-- The r/m operand: mod = 11 names a register, every other mod a memory operand (30 R184). -/
inductive Rm where
  | reg (r : Reg)
  | mem (m : Mem)
  deriving DecidableEq, Repr

/-- The d bit of the two-operand register forms (30 R189): d = 0 the r/m operand is the destination, d = 1 the
reg field is. -/
inductive Dir where
  | toRm
  | toReg
  deriving DecidableEq, Repr

/-- Immediate data whose size the w bit chooses (30 R189): the value carries the width. -/
inductive Imm where
  | byte (v : Byte)
  | word (v : Word)
  deriving DecidableEq, Repr

/-- The width a w-sized immediate stands for. -/
def Imm.width : Imm → Width
  | .byte _ => .byte
  | .word _ => .word

/-- The instructions: one constructor for each row of spec/opcode_table.json. Each docstring gives the row's
format, its encoding and the rule that gives its meaning. -/
inductive Instr where
  /-- ADD eb,rb / ew,rw / rb,eb / rw,ew: 000000dw mmrrrnnn, then disp per mod (R282). -/
  | addRmReg (d : Dir) (w : Width) (rm : Rm) (r : Reg)
  /-- ADD AL,db / AX,dw: 0000010w, then db if w=0, dw if w=1 (R283). -/
  | addAccImm (x : Imm)
  /-- ADD eb,db / ew,dw: 1000000w mm000nnn, then disp per mod; db if w=0, dw if w=1 (R283). -/
  | addRmImm (rm : Rm) (x : Imm)
  /-- ADD ew,db (sign-extended): 10000011 mm000nnn, then disp per mod; db (R283). -/
  | addRmImm8 (rm : Rm) (v : Byte)
  /-- OR eb,rb / ew,rw / rb,eb / rw,ew: 000010dw mmrrrnnn, then disp per mod (R334). -/
  | orRmReg (d : Dir) (w : Width) (rm : Rm) (r : Reg)
  /-- OR AL,db / AX,dw: 0000110w, then db if w=0, dw if w=1 (R335). -/
  | orAccImm (x : Imm)
  /-- OR eb,db / ew,dw: 1000000w mm001nnn, then disp per mod; db if w=0, dw if w=1 (R335). -/
  | orRmImm (rm : Rm) (x : Imm)
  /-- ADC eb,rb / ew,rw / rb,eb / rw,ew: 000100dw mmrrrnnn, then disp per mod (R284). -/
  | adcRmReg (d : Dir) (w : Width) (rm : Rm) (r : Reg)
  /-- ADC AL,db / AX,dw: 0001010w, then db if w=0, dw if w=1 (R285). -/
  | adcAccImm (x : Imm)
  /-- ADC eb,db / ew,dw: 1000000w mm010nnn, then disp per mod; db if w=0, dw if w=1 (R285). -/
  | adcRmImm (rm : Rm) (x : Imm)
  /-- ADC ew,db (sign-extended): 10000011 mm010nnn, then disp per mod; db (R285). -/
  | adcRmImm8 (rm : Rm) (v : Byte)
  /-- SBB eb,rb / ew,rw / rb,eb / rw,ew: 000110dw mmrrrnnn, then disp per mod (R291). -/
  | sbbRmReg (d : Dir) (w : Width) (rm : Rm) (r : Reg)
  /-- SBB AL,db / AX,dw: 0001110w, then db if w=0, dw if w=1 (R292). -/
  | sbbAccImm (x : Imm)
  /-- SBB eb,db / ew,dw: 1000000w mm011nnn, then disp per mod; db if w=0, dw if w=1 (R292). -/
  | sbbRmImm (rm : Rm) (x : Imm)
  /-- SBB ew,db (sign-extended): 10000011 mm011nnn, then disp per mod; db (R292). -/
  | sbbRmImm8 (rm : Rm) (v : Byte)
  /-- AND eb,rb / ew,rw / rb,eb / rw,ew: 001000dw mmrrrnnn, then disp per mod (R332). -/
  | andRmReg (d : Dir) (w : Width) (rm : Rm) (r : Reg)
  /-- AND AL,db / AX,dw: 0010010w, then db if w=0, dw if w=1 (R333). -/
  | andAccImm (x : Imm)
  /-- AND eb,db / ew,dw: 1000000w mm100nnn, then disp per mod; db if w=0, dw if w=1 (R333). -/
  | andRmImm (rm : Rm) (x : Imm)
  /-- SUB eb,rb / ew,rw / rb,eb / rw,ew: 001010dw mmrrrnnn, then disp per mod (R289). -/
  | subRmReg (d : Dir) (w : Width) (rm : Rm) (r : Reg)
  /-- SUB AL,db / AX,dw: 0010110w, then db if w=0, dw if w=1 (R290). -/
  | subAccImm (x : Imm)
  /-- SUB eb,db / ew,dw: 1000000w mm101nnn, then disp per mod; db if w=0, dw if w=1 (R290). -/
  | subRmImm (rm : Rm) (x : Imm)
  /-- SUB ew,db (sign-extended): 10000011 mm101nnn, then disp per mod; db (R290). -/
  | subRmImm8 (rm : Rm) (v : Byte)
  /-- XOR eb,rb / ew,rw / rb,eb / rw,ew: 001100dw mmrrrnnn, then disp per mod (R336). -/
  | xorRmReg (d : Dir) (w : Width) (rm : Rm) (r : Reg)
  /-- XOR AL,db / AX,dw: 0011010w, then db if w=0, dw if w=1 (R337). -/
  | xorAccImm (x : Imm)
  /-- XOR eb,db / ew,dw: 1000000w mm110nnn, then disp per mod; db if w=0, dw if w=1 (R337). -/
  | xorRmImm (rm : Rm) (x : Imm)
  /-- CMP eb,rb / ew,rw / rb,eb / rw,ew: 001110dw mmrrrnnn, then disp per mod (R295). -/
  | cmpRmReg (d : Dir) (w : Width) (rm : Rm) (r : Reg)
  /-- CMP AL,db / AX,dw: 0011110w, then db if w=0, dw if w=1 (R296). -/
  | cmpAccImm (x : Imm)
  /-- CMP eb,db / ew,dw: 1000000w mm111nnn, then disp per mod; db if w=0, dw if w=1 (R296). -/
  | cmpRmImm (rm : Rm) (x : Imm)
  /-- CMP ew,db (sign-extended): 10000011 mm111nnn, then disp per mod; db (R296). -/
  | cmpRmImm8 (rm : Rm) (v : Byte)
  /-- INC rw: 01000ggg (R286). -/
  | incReg (r : Reg)
  /-- INC eb / ew: 1111111w mm000nnn, then disp per mod (R286). -/
  | incRm (w : Width) (rm : Rm)
  /-- DEC rw: 01001ggg (R293). -/
  | decReg (r : Reg)
  /-- DEC eb / ew: 1111111w mm001nnn, then disp per mod (R293). -/
  | decRm (w : Width) (rm : Rm)
  /-- NEG eb / ew: 1111011w mm011nnn, then disp per mod (R294). -/
  | negRm (w : Width) (rm : Rm)
  /-- NOT eb / ew: 1111011w mm010nnn, then disp per mod (R331). -/
  | notRm (w : Width) (rm : Rm)
  /-- MUL eb / ew: 1111011w mm100nnn, then disp per mod (R299). -/
  | mulRm (w : Width) (rm : Rm)
  /-- IMUL eb / ew: 1111011w mm101nnn, then disp per mod (R300). -/
  | imulRm (w : Width) (rm : Rm)
  /-- IMUL rw,ew,dw: 01101001 mmrrrnnn, then disp per mod; dw (R301). -/
  | imulImm (r : Reg) (rm : Rm) (v : Word)
  /-- IMUL rw,ew,db (sign-extended): 01101011 mmrrrnnn, then disp per mod; db (R301). -/
  | imulImm8 (r : Reg) (rm : Rm) (v : Byte)
  /-- DIV eb / ew: 1111011w mm110nnn, then disp per mod (R303). -/
  | divRm (w : Width) (rm : Rm)
  /-- IDIV eb / ew: 1111011w mm111nnn, then disp per mod (R304). -/
  | idivRm (w : Width) (rm : Rm)
  /-- TEST eb,rb / ew,rw: 1000010w mmrrrnnn, then disp per mod (R338). -/
  | testRmReg (w : Width) (rm : Rm) (r : Reg)
  /-- TEST AL,db / AX,dw: 1010100w, then db if w=0, dw if w=1 (R339). -/
  | testAccImm (x : Imm)
  /-- TEST eb,db / ew,dw: 1111011w mm000nnn, then disp per mod; db if w=0, dw if w=1 (R339). -/
  | testRmImm (rm : Rm) (x : Imm)
  /-- AAA: 00110111 (R287). -/
  | aaa
  /-- DAA: 00100111 (R288). -/
  | daa
  /-- AAS: 00111111 (R297). -/
  | aas
  /-- DAS: 00101111 (R298). -/
  | das
  /-- AAM: 11010100 00001010 (R302). -/
  | aam
  /-- AAD: 11010101 00001010 (R305). -/
  | aad
  /-- CBW: 10011000 (R306). -/
  | cbw
  /-- CWD: 10011001 (R307). -/
  | cwd
  /-- ROL eb,1 / ew,1: 1101000w mm000nnn, then disp per mod (R344). -/
  | rolOne (w : Width) (rm : Rm)
  /-- ROL eb,CL / ew,CL: 1101001w mm000nnn, then disp per mod (R344). -/
  | rolCl (w : Width) (rm : Rm)
  /-- ROL eb,db / ew,db: 1100000w mm000nnn, then disp per mod; db (count) (R344). -/
  | rolImm (w : Width) (rm : Rm) (n : Byte)
  /-- ROR eb,1 / ew,1: 1101000w mm001nnn, then disp per mod (R345). -/
  | rorOne (w : Width) (rm : Rm)
  /-- ROR eb,CL / ew,CL: 1101001w mm001nnn, then disp per mod (R345). -/
  | rorCl (w : Width) (rm : Rm)
  /-- ROR eb,db / ew,db: 1100000w mm001nnn, then disp per mod; db (count) (R345). -/
  | rorImm (w : Width) (rm : Rm) (n : Byte)
  /-- RCL eb,1 / ew,1: 1101000w mm010nnn, then disp per mod (R346). -/
  | rclOne (w : Width) (rm : Rm)
  /-- RCL eb,CL / ew,CL: 1101001w mm010nnn, then disp per mod (R346). -/
  | rclCl (w : Width) (rm : Rm)
  /-- RCL eb,db / ew,db: 1100000w mm010nnn, then disp per mod; db (count) (R346). -/
  | rclImm (w : Width) (rm : Rm) (n : Byte)
  /-- RCR eb,1 / ew,1: 1101000w mm011nnn, then disp per mod (R347). -/
  | rcrOne (w : Width) (rm : Rm)
  /-- RCR eb,CL / ew,CL: 1101001w mm011nnn, then disp per mod (R347). -/
  | rcrCl (w : Width) (rm : Rm)
  /-- RCR eb,db / ew,db: 1100000w mm011nnn, then disp per mod; db (count) (R347). -/
  | rcrImm (w : Width) (rm : Rm) (n : Byte)
  /-- SHL/SAL eb,1 / ew,1: 1101000w mm100nnn, then disp per mod (R341). -/
  | shlOne (w : Width) (rm : Rm)
  /-- SHL/SAL eb,CL / ew,CL: 1101001w mm100nnn, then disp per mod (R341). -/
  | shlCl (w : Width) (rm : Rm)
  /-- SHL/SAL eb,db / ew,db: 1100000w mm100nnn, then disp per mod; db (count) (R341). -/
  | shlImm (w : Width) (rm : Rm) (n : Byte)
  /-- SHR eb,1 / ew,1: 1101000w mm101nnn, then disp per mod (R342). -/
  | shrOne (w : Width) (rm : Rm)
  /-- SHR eb,CL / ew,CL: 1101001w mm101nnn, then disp per mod (R342). -/
  | shrCl (w : Width) (rm : Rm)
  /-- SHR eb,db / ew,db: 1100000w mm101nnn, then disp per mod; db (count) (R342). -/
  | shrImm (w : Width) (rm : Rm) (n : Byte)
  /-- SAR eb,1 / ew,1: 1101000w mm111nnn, then disp per mod (R343). -/
  | sarOne (w : Width) (rm : Rm)
  /-- SAR eb,CL / ew,CL: 1101001w mm111nnn, then disp per mod (R343). -/
  | sarCl (w : Width) (rm : Rm)
  /-- SAR eb,db / ew,db: 1100000w mm111nnn, then disp per mod; db (count) (R343). -/
  | sarImm (w : Width) (rm : Rm) (n : Byte)
  /-- MOV eb,rb / ew,rw / rb,eb / rw,ew: 100010dw mmrrrnnn, then disp per mod (R231). -/
  | movRmReg (d : Dir) (w : Width) (rm : Rm) (r : Reg)
  /-- MOV ew,sreg: 10001100 mm0SSnnn, then disp per mod (R233). -/
  | movRmSreg (rm : Rm) (sr : SReg)
  /-- MOV ES,ew: 10001110 mm000nnn, then disp per mod (R234). -/
  | movEsRm (rm : Rm)
  /-- MOV SS,ew: 10001110 mm010nnn, then disp per mod (R234). -/
  | movSsRm (rm : Rm)
  /-- MOV DS,ew: 10001110 mm011nnn, then disp per mod (R234). -/
  | movDsRm (rm : Rm)
  /-- MOV AL,xb / AX,xw: 1010000w, then addr-low addr-high (R235). -/
  | movAccMem (w : Width) (a : Word)
  /-- MOV xb,AL / xw,AX: 1010001w, then addr-low addr-high (R236). -/
  | movMemAcc (w : Width) (a : Word)
  /-- MOV rb,db / rw,dw: 1011wggg, then db if w=0, dw if w=1 (R237). -/
  | movRegImm (r : Reg) (x : Imm)
  /-- MOV eb,db / ew,dw: 1100011w mm000nnn, then disp per mod; db if w=0, dw if w=1 (R238). -/
  | movRmImm (rm : Rm) (x : Imm)
  /-- PUSH rw: 01010ggg (R239). -/
  | pushReg (r : Reg)
  /-- PUSH mw: 11111111 mm110nnn, then disp per mod (R240). -/
  | pushRm (rm : Rm)
  /-- PUSH ES / CS / SS / DS: 000SS110 (R241). -/
  | pushSreg (sr : SReg)
  /-- PUSH dw: 01101000, then dw (R242). -/
  | pushImm (v : Word)
  /-- PUSH db (sign-extended): 01101010, then db (R242). -/
  | pushImm8 (v : Byte)
  /-- PUSHA: 01100000 (R243). -/
  | pusha
  /-- POPA: 01100001 (R244). -/
  | popa
  /-- POP rw: 01011ggg (R245). -/
  | popReg (r : Reg)
  /-- POP mw: 10001111 mm000nnn, then disp per mod (R246). -/
  | popRm (rm : Rm)
  /-- POP ES: 00000111 (R247). -/
  | popEs
  /-- POP SS: 00010111 (R247). -/
  | popSs
  /-- POP DS: 00011111 (R247). -/
  | popDs
  /-- XCHG eb,rb / ew,rw: 1000011w mmrrrnnn, then disp per mod (R248). -/
  | xchgRmReg (w : Width) (rm : Rm) (r : Reg)
  /-- XCHG AX,rw: 10010ggg (R249). -/
  | xchgAx (r : Reg)
  /-- NOP: 10010000 (R496). -/
  | nop
  /-- XLAT: 11010111 (R250). -/
  | xlat
  /-- IN AL,db / AX,db: 1110010w, then port byte (R251). -/
  | inImm (w : Width) (p : Byte)
  /-- IN AL,DX / AX,DX: 1110110w (R251). -/
  | inDx (w : Width)
  /-- OUT db,AL / db,AX: 1110011w, then port byte (R252). -/
  | outImm (w : Width) (p : Byte)
  /-- OUT DX,AL / DX,AX: 1110111w (R252). -/
  | outDx (w : Width)
  /-- LEA rw,m: 10001101 mmrrrnnn, then disp per mod (R253). -/
  | lea (r : Reg) (m : Mem)
  /-- LDS rw,md: 11000101 mmrrrnnn, then disp per mod (R254). -/
  | lds (r : Reg) (m : Mem)
  /-- LES rw,md: 11000100 mmrrrnnn, then disp per mod (R255). -/
  | les (r : Reg) (m : Mem)
  /-- LAHF: 10011111 (R256). -/
  | lahf
  /-- SAHF: 10011110 (R257). -/
  | sahf
  /-- PUSHF: 10011100 (R258). -/
  | pushf
  /-- POPF: 10011101 (R276). -/
  | popf
  /-- MOVSB / MOVSW: 1010010w (R362). -/
  | movs (w : Width)
  /-- CMPSB / CMPSW: 1010011w (R363). -/
  | cmps (w : Width)
  /-- STOSB / STOSW: 1010101w (R366). -/
  | stos (w : Width)
  /-- LODSB / LODSW: 1010110w (R365). -/
  | lods (w : Width)
  /-- SCASB / SCASW: 1010111w (R364). -/
  | scas (w : Width)
  /-- INSB / INSW: 0110110w (R367). -/
  | ins (w : Width)
  /-- OUTSB / OUTSW: 0110111w (R368). -/
  | outs (w : Width)
  /-- REP / REPE / REPZ prefix: 11110011 (R380). -/
  | rep
  /-- REPNE / REPNZ prefix: 11110010 (R380). -/
  | repne
  /-- JO cb: 01110000, then cb (R393). -/
  | jo (cb : Byte)
  /-- JNO cb: 01110001, then cb (R393). -/
  | jno (cb : Byte)
  /-- JB/JNAE/JC cb: 01110010, then cb (R393). -/
  | jb (cb : Byte)
  /-- JNB/JAE/JNC cb: 01110011, then cb (R393). -/
  | jnb (cb : Byte)
  /-- JE/JZ cb: 01110100, then cb (R393). -/
  | je (cb : Byte)
  /-- JNE/JNZ cb: 01110101, then cb (R393). -/
  | jne (cb : Byte)
  /-- JBE/JNA cb: 01110110, then cb (R393). -/
  | jbe (cb : Byte)
  /-- JNBE/JA cb: 01110111, then cb (R393). -/
  | jnbe (cb : Byte)
  /-- JS cb: 01111000, then cb (R393). -/
  | js (cb : Byte)
  /-- JNS cb: 01111001, then cb (R393). -/
  | jns (cb : Byte)
  /-- JP/JPE cb: 01111010, then cb (R393). -/
  | jp (cb : Byte)
  /-- JNP/JPO cb: 01111011, then cb (R393). -/
  | jnp (cb : Byte)
  /-- JL/JNGE cb: 01111100, then cb (R393). -/
  | jl (cb : Byte)
  /-- JNL/JGE cb: 01111101, then cb (R393). -/
  | jnl (cb : Byte)
  /-- JLE/JNG cb: 01111110, then cb (R393). -/
  | jle (cb : Byte)
  /-- JNLE/JG cb: 01111111, then cb (R393). -/
  | jnle (cb : Byte)
  /-- JCXZ cb: 11100011, then cb (R394). -/
  | jcxz (cb : Byte)
  /-- LOOP cb: 11100010, then cb (R395). -/
  | loop (cb : Byte)
  /-- LOOPE / LOOPZ cb: 11100001, then cb (R396). -/
  | loope (cb : Byte)
  /-- LOOPNE / LOOPNZ cb: 11100000, then cb (R397). -/
  | loopne (cb : Byte)
  /-- JMP cb: 11101011, then cb (R398). -/
  | jmpShort (cb : Byte)
  /-- JMP cw: 11101001, then cw (R398). -/
  | jmpNear (cw : Word)
  /-- JMP ew: 11111111 mm100nnn, then disp per mod (R399). -/
  | jmpRm (rm : Rm)
  /-- JMP cd: 11101010, then offset-low offset-high selector-low selector-high (R403). -/
  | jmpFar (off : Word) (sel : Word)
  /-- JMP md: 11111111 mm101nnn, then disp per mod (R403). -/
  | jmpFarMem (m : Mem)
  /-- CALL cw: 11101000, then cw (R400). -/
  | callNear (cw : Word)
  /-- CALL ew: 11111111 mm010nnn, then disp per mod (R401). -/
  | callRm (rm : Rm)
  /-- CALL cd: 10011010, then offset-low offset-high selector-low selector-high (R404). -/
  | callFar (off : Word) (sel : Word)
  /-- CALL md: 11111111 mm011nnn, then disp per mod (R404). -/
  | callFarMem (m : Mem)
  /-- RET (near): 11000011 (R402). -/
  | retNear
  /-- RET dw (near): 11000010, then dw (R402). -/
  | retNearImm (n : Word)
  /-- RET (far): 11001011 (R405). -/
  | retFar
  /-- RET dw (far): 11001010, then dw (R405). -/
  | retFarImm (n : Word)
  /-- INT 3: 11001100 (R452). -/
  | int3
  /-- INT db: 11001101, then db (R451). -/
  | intImm (v : Byte)
  /-- INTO: 11001110 (R453). -/
  | into
  /-- IRET: 11001111 (R454). -/
  | iret
  /-- ENTER dw,db: 11001000, then dw (frame bytes) db (level) (R471). -/
  | enter (size : Word) (level : Byte)
  /-- LEAVE: 11001001 (R472). -/
  | leave
  /-- BOUND rw,md: 01100010 mmrrrnnn, then disp per mod (R473). -/
  | bound (r : Reg) (m : Mem)
  /-- STC: 11111001 (R481). -/
  | stc
  /-- CLC: 11111000 (R482). -/
  | clc
  /-- CMC: 11110101 (R483). -/
  | cmc
  /-- STD: 11111101 (R484). -/
  | std
  /-- CLD: 11111100 (R485). -/
  | cld
  /-- STI: 11111011 (R486). -/
  | sti
  /-- CLI: 11111010 (R487). -/
  | cli
  /-- HLT: 11110100 (R490). -/
  | hlt
  /-- ESC m: 11011TTT mmLLLnnn, then disp per mod (R492). -/
  | esc (ttt : BitVec 3) (lll : BitVec 3) (rm : Rm)
  /-- WAIT: 10011011 (R493). -/
  | wait
  /-- LOCK prefix: 11110000 (R494). -/
  | lock
  /-- SEG prefix ES: / CS: / SS: / DS:: 001SS110 (R495). -/
  | seg (sr : SReg)
  /-- LMSW ew: 00001111 00000001 mm110nnn, then disp per mod (R497). -/
  | lmsw (rm : Rm)
  /-- SMSW ew: 00001111 00000001 mm100nnn, then disp per mod (R498). -/
  | smsw (rm : Rm)
  /-- LGDT m: 00001111 00000001 mm010nnn, then disp per mod (R512). -/
  | lgdt (m : Mem)
  /-- LIDT m: 00001111 00000001 mm011nnn, then disp per mod (R513). -/
  | lidt (m : Mem)
  /-- SGDT m: 00001111 00000001 mm000nnn, then disp per mod (R514). -/
  | sgdt (m : Mem)
  /-- SIDT m: 00001111 00000001 mm001nnn, then disp per mod (R515). -/
  | sidt (m : Mem)
  /-- LLDT ew: 00001111 00000000 mm010nnn, then disp per mod (R516). -/
  | lldt (rm : Rm)
  /-- SLDT ew: 00001111 00000000 mm000nnn, then disp per mod (R517). -/
  | sldt (rm : Rm)
  /-- LTR ew: 00001111 00000000 mm011nnn, then disp per mod (R518). -/
  | ltr (rm : Rm)
  /-- STR ew: 00001111 00000000 mm001nnn, then disp per mod (R519). -/
  | str (rm : Rm)
  /-- LAR rw,ew: 00001111 00000010 mmrrrnnn, then disp per mod (R521). -/
  | lar (r : Reg) (rm : Rm)
  /-- LSL rw,ew: 00001111 00000011 mmrrrnnn, then disp per mod (R522). -/
  | lsl (r : Reg) (rm : Rm)
  /-- VERR ew: 00001111 00000000 mm100nnn, then disp per mod (R523). -/
  | verr (rm : Rm)
  /-- VERW ew: 00001111 00000000 mm101nnn, then disp per mod (R524). -/
  | verw (rm : Rm)
  /-- ARPL ew,rw: 01100011 mmrrrnnn, then disp per mod (R525). -/
  | arpl (rm : Rm) (r : Reg)
  /-- CLTS: 00001111 00000110 (R529). -/
  | clts
  deriving DecidableEq, Repr

end Sys2Proof
end

