-- ==== Sys2Proof/Config.lean ====
section
/-! DEFINITION. What the spec leaves to the implementation or the platform: the parameters of 00 R5 that no program
can read (the others stand in `Platform`) and the free values of 00 R7 ("undefined"). An opaque constant has no body,
so nothing in Lean can know its value. -/

namespace Sys2Proof

/-- The n-th free bit: an undefined flag or a choice the spec leaves open (00 R7, 92 D3; log 5). -/
opaque Config.freeBit : Nat → Bool

/-- The n-th free byte (00 R7; log 5). -/
opaque Config.freeByte : Nat → Byte

/-- The n-th free word (00 R7; log 5). -/
opaque Config.freeWord : Nat → Word

/-- What a byte of memory that nothing has written holds at an address (10 R56: the contents are the platform's;
log 6). -/
opaque Config.powerOnByte : Nat → Byte

/-- REAL_A20_CARRY: whether a real-mode sum above FFFFFH carries into A20 (20 R85, 92 D2; log 10). -/
opaque Config.realA20Carry : Bool

/-- RET_OUTER_SP_ADJUST: whether a far RET dw to an outer level adds dw to the SP it loads (44 R421, 92 D49;
log 12). -/
opaque Config.retOuterSpAdjust : Bool

/-- REAL_ODD_SP_WRAP: `true` when a real-mode stack read at offset FFFFH ends in shutdown, `false` when it raises
interrupt 13 (20 R103, 92 D9; log 11). -/
opaque Config.oddSpWrapShutdown : Bool

/-- Whether the ESC instruction TTT LLL r/m waits while BUSY is active (47 R492, 93 U28; log 15). -/
opaque Config.escTestsBusy : BitVec 3 → BitVec 3 → Rm → Bool

/-- Whether the ESC instruction TTT LLL r/m tests ERROR (47 R492, 93 U28; log 15). -/
opaque Config.escTestsError : BitVec 3 → BitVec 3 → Rm → Bool

/-- Whether the extension writes the memory operand of the ESC instruction TTT LLL r/m: the "read/write status of
the instruction" (20 R124; log 15). -/
opaque Config.escWrites : BitVec 3 → BitVec 3 → Rm → Bool

/-- PREFETCH_WINDOW: how many bytes the instruction queue may hold beyond the current instruction (20 R120,
92 D12; log 20). -/
def Config.prefetchWindow : Nat := 6

/-- The longest instruction, prefixes included (30 R183). -/
def Config.maxLength : Nat := 10

end Sys2Proof
end

