-- ==== Sys2Proof/WellFormed.lean ====
section
/-! DEFINITION. Which instruction terms are instructions of the machine. The types of `Instr` carry most of an
encoding's limits (register numbers, widths, memory-only operands); the two checks left are those of 30 R185 and
30 R203. -/

namespace Sys2Proof

/-- `[BP]` without a displacement has no encoding of its own: mod 00 with r/m 110 is the direct address (30 R185). -/
def Mem.wf : Mem → Bool
  | .base .bp => false
  | _ => true

/-- An r/m operand is well formed when its memory operand is. -/
def Rm.wf : Rm → Bool
  | .reg _ => true
  | .mem m => m.wf

/-- The ModRM operand of an instruction, where it has one (30 R191, column M). -/
def Instr.rm? : Instr → Option Rm
  | .addRmReg _ _ rm _ => some rm
  | .addAccImm _ => none
  | .addRmImm rm _ => some rm
  | .addRmImm8 rm _ => some rm
  | .orRmReg _ _ rm _ => some rm
  | .orAccImm _ => none
  | .orRmImm rm _ => some rm
  | .adcRmReg _ _ rm _ => some rm
  | .adcAccImm _ => none
  | .adcRmImm rm _ => some rm
  | .adcRmImm8 rm _ => some rm
  | .sbbRmReg _ _ rm _ => some rm
  | .sbbAccImm _ => none
  | .sbbRmImm rm _ => some rm
  | .sbbRmImm8 rm _ => some rm
  | .andRmReg _ _ rm _ => some rm
  | .andAccImm _ => none
  | .andRmImm rm _ => some rm
  | .subRmReg _ _ rm _ => some rm
  | .subAccImm _ => none
  | .subRmImm rm _ => some rm
  | .subRmImm8 rm _ => some rm
  | .xorRmReg _ _ rm _ => some rm
  | .xorAccImm _ => none
  | .xorRmImm rm _ => some rm
  | .cmpRmReg _ _ rm _ => some rm
  | .cmpAccImm _ => none
  | .cmpRmImm rm _ => some rm
  | .cmpRmImm8 rm _ => some rm
  | .incReg _ => none
  | .incRm _ rm => some rm
  | .decReg _ => none
  | .decRm _ rm => some rm
  | .negRm _ rm => some rm
  | .notRm _ rm => some rm
  | .mulRm _ rm => some rm
  | .imulRm _ rm => some rm
  | .imulImm _ rm _ => some rm
  | .imulImm8 _ rm _ => some rm
  | .divRm _ rm => some rm
  | .idivRm _ rm => some rm
  | .testRmReg _ rm _ => some rm
  | .testAccImm _ => none
  | .testRmImm rm _ => some rm
  | .aaa => none
  | .daa => none
  | .aas => none
  | .das => none
  | .aam => none
  | .aad => none
  | .cbw => none
  | .cwd => none
  | .rolOne _ rm => some rm
  | .rolCl _ rm => some rm
  | .rolImm _ rm _ => some rm
  | .rorOne _ rm => some rm
  | .rorCl _ rm => some rm
  | .rorImm _ rm _ => some rm
  | .rclOne _ rm => some rm
  | .rclCl _ rm => some rm
  | .rclImm _ rm _ => some rm
  | .rcrOne _ rm => some rm
  | .rcrCl _ rm => some rm
  | .rcrImm _ rm _ => some rm
  | .shlOne _ rm => some rm
  | .shlCl _ rm => some rm
  | .shlImm _ rm _ => some rm
  | .shrOne _ rm => some rm
  | .shrCl _ rm => some rm
  | .shrImm _ rm _ => some rm
  | .sarOne _ rm => some rm
  | .sarCl _ rm => some rm
  | .sarImm _ rm _ => some rm
  | .movRmReg _ _ rm _ => some rm
  | .movRmSreg rm _ => some rm
  | .movEsRm rm => some rm
  | .movSsRm rm => some rm
  | .movDsRm rm => some rm
  | .movAccMem _ _ => none
  | .movMemAcc _ _ => none
  | .movRegImm _ _ => none
  | .movRmImm rm _ => some rm
  | .pushReg _ => none
  | .pushRm rm => some rm
  | .pushSreg _ => none
  | .pushImm _ => none
  | .pushImm8 _ => none
  | .pusha => none
  | .popa => none
  | .popReg _ => none
  | .popRm rm => some rm
  | .popEs => none
  | .popSs => none
  | .popDs => none
  | .xchgRmReg _ rm _ => some rm
  | .xchgAx _ => none
  | .nop => none
  | .xlat => none
  | .inImm _ _ => none
  | .inDx _ => none
  | .outImm _ _ => none
  | .outDx _ => none
  | .lea _ m => some (.mem m)
  | .lds _ m => some (.mem m)
  | .les _ m => some (.mem m)
  | .lahf => none
  | .sahf => none
  | .pushf => none
  | .popf => none
  | .movs _ => none
  | .cmps _ => none
  | .stos _ => none
  | .lods _ => none
  | .scas _ => none
  | .ins _ => none
  | .outs _ => none
  | .rep => none
  | .repne => none
  | .jo _ => none
  | .jno _ => none
  | .jb _ => none
  | .jnb _ => none
  | .je _ => none
  | .jne _ => none
  | .jbe _ => none
  | .jnbe _ => none
  | .js _ => none
  | .jns _ => none
  | .jp _ => none
  | .jnp _ => none
  | .jl _ => none
  | .jnl _ => none
  | .jle _ => none
  | .jnle _ => none
  | .jcxz _ => none
  | .loop _ => none
  | .loope _ => none
  | .loopne _ => none
  | .jmpShort _ => none
  | .jmpNear _ => none
  | .jmpRm rm => some rm
  | .jmpFar _ _ => none
  | .jmpFarMem m => some (.mem m)
  | .callNear _ => none
  | .callRm rm => some rm
  | .callFar _ _ => none
  | .callFarMem m => some (.mem m)
  | .retNear => none
  | .retNearImm _ => none
  | .retFar => none
  | .retFarImm _ => none
  | .int3 => none
  | .intImm _ => none
  | .into => none
  | .iret => none
  | .enter _ _ => none
  | .leave => none
  | .bound _ m => some (.mem m)
  | .stc => none
  | .clc => none
  | .cmc => none
  | .std => none
  | .cld => none
  | .sti => none
  | .cli => none
  | .hlt => none
  | .esc _ _ rm => some rm
  | .wait => none
  | .lock => none
  | .seg _ => none
  | .lmsw rm => some rm
  | .smsw rm => some rm
  | .lgdt m => some (.mem m)
  | .lidt m => some (.mem m)
  | .sgdt m => some (.mem m)
  | .sidt m => some (.mem m)
  | .lldt rm => some rm
  | .sldt rm => some rm
  | .ltr rm => some rm
  | .str rm => some rm
  | .lar _ rm => some rm
  | .lsl _ rm => some rm
  | .verr rm => some rm
  | .verw rm => some rm
  | .arpl rm _ => some rm
  | .clts => none

/-- A well-formed instruction: its memory operand has an encoding, and XCHG AX,AX is the instruction NOP
(30 R203, 47 R496). -/
def Instr.wf (i : Instr) : Bool :=
  (match i.rm? with
    | some rm => rm.wf
    | none => true) &&
  (match i with
    | .xchgAx .ax => false
    | _ => true)

end Sys2Proof
end

