-- ==== Sys2Proof/Decode.lean ====
section
/-! DEFINITION. Decoding, one instruction or prefix at a time, and the encoder (30_encoding.md rules R180-R201).
Both are written from the opcode maps of 30 R191, R192 and R201. -/

namespace Sys2Proof

/-- Why bytes are not an instruction. -/
inductive DecodeError where
  /-- The bytes end inside the instruction: the machine fetches further or meets the code segment's limit. -/
  | needMore
  /-- An encoding to which 30 R191, R192 and R201 assign no instruction (30 R195): #UD. -/
  | undefinedOpcode
  /-- A register operand where only memory is allowed (30 R196): #UD. -/
  | memoryRequired
  /-- An undefined bits 5-3 encoding of POP mem or PUSH mem (30 R199): exception 13. -/
  | undefinedPushPop
  deriving DecidableEq, Repr

/-- What a reader of instruction bytes answers: what it read and the bytes left over. -/
abbrev Reader (α : Type) := List Byte → Except DecodeError (α × List Byte)

/-! ### Register and field codes -/

/-- The general register a 3-bit field names (30 R187). -/
def Reg.ofCode (c : BitVec 3) : Reg :=
  match c.toNat with
  | 0 => .ax
  | 1 => .cx
  | 2 => .dx
  | 3 => .bx
  | 4 => .sp
  | 5 => .bp
  | 6 => .si
  | _ => .di

/-- The 3-bit field that names a general register (30 R187). -/
def Reg.code : Reg → BitVec 3
  | .ax => 0
  | .cx => 1
  | .dx => 2
  | .bx => 3
  | .sp => 4
  | .bp => 5
  | .si => 6
  | .di => 7

/-- The segment register a 2-bit field names (30 R188). -/
def SReg.ofCode (c : BitVec 2) : SReg :=
  match c.toNat with
  | 0 => .es
  | 1 => .cs
  | 2 => .ss
  | _ => .ds

/-- The 2-bit field that names a segment register (30 R188). -/
def SReg.code : SReg → BitVec 2
  | .es => 0
  | .cs => 1
  | .ss => 2
  | .ds => 3

/-- The registers an r/m code sums (30 R185). -/
def Base.ofCode (c : BitVec 3) : Base :=
  match c.toNat with
  | 0 => .bxSi
  | 1 => .bxDi
  | 2 => .bpSi
  | 3 => .bpDi
  | 4 => .si
  | 5 => .di
  | 6 => .bp
  | _ => .bx

/-- The r/m code of a sum of registers (30 R185). -/
def Base.code : Base → BitVec 3
  | .bxSi => 0
  | .bxDi => 1
  | .bpSi => 2
  | .bpDi => 3
  | .si => 4
  | .di => 5
  | .bp => 6
  | .bx => 7

/-- The w bit: 0 byte, 1 word (30 R189). -/
def Width.ofBit (b : Bool) : Width := if b then .word else .byte

/-- The w bit of a width. -/
def Width.bit : Width → BitVec 1
  | .byte => 0
  | .word => 1

/-- The d bit: 0 from the reg field to r/m, 1 to the reg field (30 R189). -/
def Dir.ofBit (b : Bool) : Dir := if b then .toReg else .toRm

/-- The d bit of a direction. -/
def Dir.bit : Dir → BitVec 1
  | .toRm => 0
  | .toReg => 1

/-! ### Readers of fields -/

/-- One byte. -/
def readByte : Reader Byte
  | [] => .error .needMore
  | b :: rest => .ok (b, rest)

/-- A word, low byte first (20 R81). -/
def readWord : Reader Word
  | lo :: hi :: rest => .ok (hi ++ lo, rest)
  | _ => .error .needMore

/-- Immediate data of the width the w bit chooses (30 R186). -/
def readImm (w : Width) : Reader Imm := fun bs =>
  match w with
  | .byte => do
    let (v, rest) ← readByte bs
    .ok (.byte v, rest)
  | .word => do
    let (v, rest) ← readWord bs
    .ok (.word v, rest)

/-- The mod-reg-r/m byte and its displacement: the reg field and the r/m operand (30 R184, R185). -/
def readModRm : Reader (BitVec 3 × Rm)
  | [] => .error .needMore
  | b :: bs =>
    let reg := b.extractLsb' 3 3
    let rm := b.extractLsb' 0 3
    match (b.extractLsb' 6 2).toNat with
    | 0 =>
      if rm = 6 then do
        let (d, rest) ← readWord bs
        .ok ((reg, .mem (.direct d)), rest)
      else .ok ((reg, .mem (.base (Base.ofCode rm))), bs)
    | 1 => do
      let (d, rest) ← readByte bs
      .ok ((reg, .mem (.disp8 (Base.ofCode rm) d)), rest)
    | 2 => do
      let (d, rest) ← readWord bs
      .ok ((reg, .mem (.disp16 (Base.ofCode rm) d)), rest)
    | _ => .ok ((reg, .reg (Reg.ofCode rm)), bs)

/-- The mod-reg-r/m byte of a form whose r/m operand must be memory (30 R196). -/
def readModMem : Reader (BitVec 3 × Mem) := fun bs => do
  let ((reg, rm), rest) ← readModRm bs
  match rm with
  | .mem m => .ok ((reg, m), rest)
  | .reg _ => .error .memoryRequired

/-- An instruction without further bytes. -/
def plain (i : Instr) : Reader Instr := fun bs => .ok (i, bs)

/-- A two-operand form: ModRM, the reg field a register (30 R184). -/
def readRmReg (f : Rm → Reg → Instr) : Reader Instr := fun bs => do
  let ((reg, rm), rest) ← readModRm bs
  .ok (f rm (Reg.ofCode reg), rest)

/-- A two-operand form whose r/m operand must be memory. -/
def readMemReg (f : Reg → Mem → Instr) : Reader Instr := fun bs => do
  let ((reg, m), rest) ← readModMem bs
  .ok (f (Reg.ofCode reg) m, rest)

/-- A form with one immediate of the width w. -/
def readImmForm (w : Width) (f : Imm → Instr) : Reader Instr := fun bs => do
  let (x, rest) ← readImm w bs
  .ok (f x, rest)

/-- A form with one byte after the opcode. -/
def readByteForm (f : Byte → Instr) : Reader Instr := fun bs => do
  let (v, rest) ← readByte bs
  .ok (f v, rest)

/-- A form with one word after the opcode. -/
def readWordForm (f : Word → Instr) : Reader Instr := fun bs => do
  let (v, rest) ← readWord bs
  .ok (f v, rest)

/-- A form with a far pointer: offset word, then selector word (30 R186, cd). -/
def readFarForm (f : Word → Word → Instr) : Reader Instr := fun bs => do
  let (off, bs₁) ← readWord bs
  let (sel, rest) ← readWord bs₁
  .ok (f off sel, rest)

/-- AAM and AAD: the second byte must be 0AH (30 R195, R200). -/
def readTen (i : Instr) : Reader Instr := fun bs => do
  let (v, rest) ← readByte bs
  if v = 0x0A#8 then .ok (i, rest) else .error .undefinedOpcode

/-! ### Groups (30 R192) -/

/-- Group 1, opcodes 80 and 81. -/
def readGroup1 (w : Width) : Reader Instr := fun bs => do
  let ((n, rm), bs₁) ← readModRm bs
  let (x, rest) ← readImm w bs₁
  match n.toNat with
  | 0 => .ok (.addRmImm rm x, rest)
  | 1 => .ok (.orRmImm rm x, rest)
  | 2 => .ok (.adcRmImm rm x, rest)
  | 3 => .ok (.sbbRmImm rm x, rest)
  | 4 => .ok (.andRmImm rm x, rest)
  | 5 => .ok (.subRmImm rm x, rest)
  | 6 => .ok (.xorRmImm rm x, rest)
  | _ => .ok (.cmpRmImm rm x, rest)

/-- Group 1 with a sign-extended byte, opcode 83. -/
def readGroup1s : Reader Instr := fun bs => do
  let ((n, rm), bs₁) ← readModRm bs
  let (v, rest) ← readByte bs₁
  match n.toNat with
  | 0 => .ok (.addRmImm8 rm v, rest)
  | 2 => .ok (.adcRmImm8 rm v, rest)
  | 3 => .ok (.sbbRmImm8 rm v, rest)
  | 5 => .ok (.subRmImm8 rm v, rest)
  | 7 => .ok (.cmpRmImm8 rm v, rest)
  | _ => .error .undefinedOpcode

/-- The shift group by one, opcodes D0 and D1. -/
def readShiftOne (w : Width) : Reader Instr := fun bs => do
  let ((n, rm), rest) ← readModRm bs
  match n.toNat with
  | 0 => .ok (.rolOne w rm, rest)
  | 1 => .ok (.rorOne w rm, rest)
  | 2 => .ok (.rclOne w rm, rest)
  | 3 => .ok (.rcrOne w rm, rest)
  | 4 => .ok (.shlOne w rm, rest)
  | 5 => .ok (.shrOne w rm, rest)
  | 7 => .ok (.sarOne w rm, rest)
  | _ => .error .undefinedOpcode

/-- The shift group by CL, opcodes D2 and D3. -/
def readShiftCl (w : Width) : Reader Instr := fun bs => do
  let ((n, rm), rest) ← readModRm bs
  match n.toNat with
  | 0 => .ok (.rolCl w rm, rest)
  | 1 => .ok (.rorCl w rm, rest)
  | 2 => .ok (.rclCl w rm, rest)
  | 3 => .ok (.rcrCl w rm, rest)
  | 4 => .ok (.shlCl w rm, rest)
  | 5 => .ok (.shrCl w rm, rest)
  | 7 => .ok (.sarCl w rm, rest)
  | _ => .error .undefinedOpcode

/-- The shift group by an immediate count, opcodes C0 and C1. -/
def readShiftImm (w : Width) : Reader Instr := fun bs => do
  let ((n, rm), bs₁) ← readModRm bs
  let (k, rest) ← readByte bs₁
  match n.toNat with
  | 0 => .ok (.rolImm w rm k, rest)
  | 1 => .ok (.rorImm w rm k, rest)
  | 2 => .ok (.rclImm w rm k, rest)
  | 3 => .ok (.rcrImm w rm k, rest)
  | 4 => .ok (.shlImm w rm k, rest)
  | 5 => .ok (.shrImm w rm k, rest)
  | 7 => .ok (.sarImm w rm k, rest)
  | _ => .error .undefinedOpcode

/-- Group 3, opcodes F6 and F7. -/
def readGroup3 (w : Width) : Reader Instr := fun bs => do
  let ((n, rm), rest) ← readModRm bs
  match n.toNat with
  | 0 => do
    let (x, rest₁) ← readImm w rest
    .ok (.testRmImm rm x, rest₁)
  | 2 => .ok (.notRm w rm, rest)
  | 3 => .ok (.negRm w rm, rest)
  | 4 => .ok (.mulRm w rm, rest)
  | 5 => .ok (.imulRm w rm, rest)
  | 6 => .ok (.divRm w rm, rest)
  | 7 => .ok (.idivRm w rm, rest)
  | _ => .error .undefinedOpcode

/-- Group 4, opcode FE. -/
def readGroup4 : Reader Instr := fun bs => do
  let ((n, rm), rest) ← readModRm bs
  match n.toNat with
  | 0 => .ok (.incRm .byte rm, rest)
  | 1 => .ok (.decRm .byte rm, rest)
  | _ => .error .undefinedOpcode

/-- Group 5, opcode FF; the far forms take memory only (30 R196), /7 raises exception 13 (30 R199). -/
def readGroup5 : Reader Instr := fun bs => do
  let ((n, rm), rest) ← readModRm bs
  match n.toNat with
  | 0 => .ok (.incRm .word rm, rest)
  | 1 => .ok (.decRm .word rm, rest)
  | 2 => .ok (.callRm rm, rest)
  | 3 =>
    match rm with
    | .mem m => .ok (.callFarMem m, rest)
    | .reg _ => .error .memoryRequired
  | 4 => .ok (.jmpRm rm, rest)
  | 5 =>
    match rm with
    | .mem m => .ok (.jmpFarMem m, rest)
    | .reg _ => .error .memoryRequired
  | 6 => .ok (.pushRm rm, rest)
  | _ => .error .undefinedPushPop

/-- POP mem, opcode 8F: /1 to /7 raise exception 13 (30 R199). -/
def readPopRm : Reader Instr := fun bs => do
  let ((n, rm), rest) ← readModRm bs
  if n = 0 then .ok (.popRm rm, rest) else .error .undefinedPushPop

/-- MOV immediate to r/m, opcodes C6 and C7: /0 only. -/
def readMovImm (w : Width) : Reader Instr := fun bs => do
  let ((n, rm), bs₁) ← readModRm bs
  let (x, rest) ← readImm w bs₁
  if n = 0 then .ok (.movRmImm rm x, rest) else .error .undefinedOpcode

/-- MOV from a segment register, opcode 8C: ModRM bit 5 must be 0 (30 R200). -/
def readMovFromSreg : Reader Instr := fun bs => do
  let ((n, rm), rest) ← readModRm bs
  if n.toNat < 4 then .ok (.movRmSreg rm (SReg.ofCode (n.extractLsb' 0 2)), rest)
  else .error .undefinedOpcode

/-- MOV into a segment register, opcode 8E: ES, SS and DS only (30 R198). -/
def readMovToSreg : Reader Instr := fun bs => do
  let ((n, rm), rest) ← readModRm bs
  match n.toNat with
  | 0 => .ok (.movEsRm rm, rest)
  | 2 => .ok (.movSsRm rm, rest)
  | 3 => .ok (.movDsRm rm, rest)
  | _ => .error .undefinedOpcode

/-- ESC, opcodes D8 to DF: TTT in the opcode, LLL in the reg field. -/
def readEsc (ttt : BitVec 3) : Reader Instr := fun bs => do
  let ((lll, rm), rest) ← readModRm bs
  .ok (.esc ttt lll rm, rest)

/-- The group 0F 00. -/
def readGroup0F00 : Reader Instr := fun bs => do
  let ((n, rm), rest) ← readModRm bs
  match n.toNat with
  | 0 => .ok (.sldt rm, rest)
  | 1 => .ok (.str rm, rest)
  | 2 => .ok (.lldt rm, rest)
  | 3 => .ok (.ltr rm, rest)
  | 4 => .ok (.verr rm, rest)
  | 5 => .ok (.verw rm, rest)
  | _ => .error .undefinedOpcode

/-- The r/m operand of a form of 0F 01 that must be memory. -/
def needMem (f : Mem → Instr) (rm : Rm) (rest : List Byte) : Except DecodeError (Instr × List Byte) :=
  match rm with
  | .mem m => .ok (f m, rest)
  | .reg _ => .error .memoryRequired

/-- The group 0F 01; the table-register forms take memory only (30 R196). -/
def readGroup0F01 : Reader Instr := fun bs => do
  let ((n, rm), rest) ← readModRm bs
  match n.toNat with
  | 0 => needMem .sgdt rm rest
  | 1 => needMem .sidt rm rest
  | 2 => needMem .lgdt rm rest
  | 3 => needMem .lidt rm rest
  | 4 => .ok (.smsw rm, rest)
  | 6 => .ok (.lmsw rm, rest)
  | _ => .error .undefinedOpcode

/-- The two-byte opcodes (30 R201). -/
def readTwoByte : Reader Instr := fun bs => do
  let (b, rest) ← readByte bs
  match b.toNat with
  | 0 => readGroup0F00 rest
  | 1 => readGroup0F01 rest
  | 2 => readRmReg (fun rm r => .lar r rm) rest
  | 3 => readRmReg (fun rm r => .lsl r rm) rest
  | 6 => .ok (.clts, rest)
  | _ => .error .undefinedOpcode

/-- IMUL with an immediate word, opcode 69. -/
def readImul16 : Reader Instr := fun bs => do
  let ((reg, rm), bs₁) ← readModRm bs
  let (v, rest) ← readWord bs₁
  .ok (.imulImm (Reg.ofCode reg) rm v, rest)

/-- IMUL with a sign-extended byte, opcode 6B. -/
def readImul8 : Reader Instr := fun bs => do
  let ((reg, rm), bs₁) ← readModRm bs
  let (v, rest) ← readByte bs₁
  .ok (.imulImm8 (Reg.ofCode reg) rm v, rest)

/-- ENTER: the frame size word, then the level byte (30 R186). -/
def readEnter : Reader Instr := fun bs => do
  let (size, bs₁) ← readWord bs
  let (level, rest) ← readByte bs₁
  .ok (.enter size level, rest)

/-- An opcode byte to which no instruction is assigned (30 R195). -/
def readUndefined : Reader Instr := fun _ => .error .undefinedOpcode

/-! ### The one-byte opcode map (30 R191), one function for each high hexadecimal digit -/

/-- Opcodes 00 to 0F. -/
def opcodeRow0 (lo : Nat) : Reader Instr :=
  match lo with
  | 0 => readRmReg (.addRmReg .toRm .byte)
  | 1 => readRmReg (.addRmReg .toRm .word)
  | 2 => readRmReg (.addRmReg .toReg .byte)
  | 3 => readRmReg (.addRmReg .toReg .word)
  | 4 => readImmForm .byte .addAccImm
  | 5 => readImmForm .word .addAccImm
  | 6 => plain (.pushSreg .es)
  | 7 => plain .popEs
  | 8 => readRmReg (.orRmReg .toRm .byte)
  | 9 => readRmReg (.orRmReg .toRm .word)
  | 10 => readRmReg (.orRmReg .toReg .byte)
  | 11 => readRmReg (.orRmReg .toReg .word)
  | 12 => readImmForm .byte .orAccImm
  | 13 => readImmForm .word .orAccImm
  | 14 => plain (.pushSreg .cs)
  | _ => readTwoByte

/-- Opcodes 10 to 1F. -/
def opcodeRow1 (lo : Nat) : Reader Instr :=
  match lo with
  | 0 => readRmReg (.adcRmReg .toRm .byte)
  | 1 => readRmReg (.adcRmReg .toRm .word)
  | 2 => readRmReg (.adcRmReg .toReg .byte)
  | 3 => readRmReg (.adcRmReg .toReg .word)
  | 4 => readImmForm .byte .adcAccImm
  | 5 => readImmForm .word .adcAccImm
  | 6 => plain (.pushSreg .ss)
  | 7 => plain .popSs
  | 8 => readRmReg (.sbbRmReg .toRm .byte)
  | 9 => readRmReg (.sbbRmReg .toRm .word)
  | 10 => readRmReg (.sbbRmReg .toReg .byte)
  | 11 => readRmReg (.sbbRmReg .toReg .word)
  | 12 => readImmForm .byte .sbbAccImm
  | 13 => readImmForm .word .sbbAccImm
  | 14 => plain (.pushSreg .ds)
  | _ => plain .popDs

/-- Opcodes 20 to 2F. -/
def opcodeRow2 (lo : Nat) : Reader Instr :=
  match lo with
  | 0 => readRmReg (.andRmReg .toRm .byte)
  | 1 => readRmReg (.andRmReg .toRm .word)
  | 2 => readRmReg (.andRmReg .toReg .byte)
  | 3 => readRmReg (.andRmReg .toReg .word)
  | 4 => readImmForm .byte .andAccImm
  | 5 => readImmForm .word .andAccImm
  | 6 => plain (.seg .es)
  | 7 => plain .daa
  | 8 => readRmReg (.subRmReg .toRm .byte)
  | 9 => readRmReg (.subRmReg .toRm .word)
  | 10 => readRmReg (.subRmReg .toReg .byte)
  | 11 => readRmReg (.subRmReg .toReg .word)
  | 12 => readImmForm .byte .subAccImm
  | 13 => readImmForm .word .subAccImm
  | 14 => plain (.seg .cs)
  | _ => plain .das

/-- Opcodes 30 to 3F. -/
def opcodeRow3 (lo : Nat) : Reader Instr :=
  match lo with
  | 0 => readRmReg (.xorRmReg .toRm .byte)
  | 1 => readRmReg (.xorRmReg .toRm .word)
  | 2 => readRmReg (.xorRmReg .toReg .byte)
  | 3 => readRmReg (.xorRmReg .toReg .word)
  | 4 => readImmForm .byte .xorAccImm
  | 5 => readImmForm .word .xorAccImm
  | 6 => plain (.seg .ss)
  | 7 => plain .aaa
  | 8 => readRmReg (.cmpRmReg .toRm .byte)
  | 9 => readRmReg (.cmpRmReg .toRm .word)
  | 10 => readRmReg (.cmpRmReg .toReg .byte)
  | 11 => readRmReg (.cmpRmReg .toReg .word)
  | 12 => readImmForm .byte .cmpAccImm
  | 13 => readImmForm .word .cmpAccImm
  | 14 => plain (.seg .ds)
  | _ => plain .aas

/-- Opcodes 60 to 6F. -/
def opcodeRow6 (lo : Nat) : Reader Instr :=
  match lo with
  | 0 => plain .pusha
  | 1 => plain .popa
  | 2 => readMemReg .bound
  | 3 => readRmReg .arpl
  | 8 => readWordForm .pushImm
  | 9 => readImul16
  | 10 => readByteForm .pushImm8
  | 11 => readImul8
  | 12 => plain (.ins .byte)
  | 13 => plain (.ins .word)
  | 14 => plain (.outs .byte)
  | 15 => plain (.outs .word)
  | _ => readUndefined

/-- Opcodes 70 to 7F. -/
def opcodeRow7 (lo : Nat) : Reader Instr :=
  match lo with
  | 0 => readByteForm .jo
  | 1 => readByteForm .jno
  | 2 => readByteForm .jb
  | 3 => readByteForm .jnb
  | 4 => readByteForm .je
  | 5 => readByteForm .jne
  | 6 => readByteForm .jbe
  | 7 => readByteForm .jnbe
  | 8 => readByteForm .js
  | 9 => readByteForm .jns
  | 10 => readByteForm .jp
  | 11 => readByteForm .jnp
  | 12 => readByteForm .jl
  | 13 => readByteForm .jnl
  | 14 => readByteForm .jle
  | _ => readByteForm .jnle

/-- Opcodes 80 to 8F. -/
def opcodeRow8 (lo : Nat) : Reader Instr :=
  match lo with
  | 0 => readGroup1 .byte
  | 1 => readGroup1 .word
  | 3 => readGroup1s
  | 4 => readRmReg (.testRmReg .byte)
  | 5 => readRmReg (.testRmReg .word)
  | 6 => readRmReg (.xchgRmReg .byte)
  | 7 => readRmReg (.xchgRmReg .word)
  | 8 => readRmReg (.movRmReg .toRm .byte)
  | 9 => readRmReg (.movRmReg .toRm .word)
  | 10 => readRmReg (.movRmReg .toReg .byte)
  | 11 => readRmReg (.movRmReg .toReg .word)
  | 12 => readMovFromSreg
  | 13 => readMemReg .lea
  | 14 => readMovToSreg
  | 15 => readPopRm
  | _ => readUndefined

/-- Opcodes 90 to 9F. -/
def opcodeRow9 (lo : Nat) : Reader Instr :=
  match lo with
  | 0 => plain .nop
  | 1 => plain (.xchgAx .cx)
  | 2 => plain (.xchgAx .dx)
  | 3 => plain (.xchgAx .bx)
  | 4 => plain (.xchgAx .sp)
  | 5 => plain (.xchgAx .bp)
  | 6 => plain (.xchgAx .si)
  | 7 => plain (.xchgAx .di)
  | 8 => plain .cbw
  | 9 => plain .cwd
  | 10 => readFarForm .callFar
  | 11 => plain .wait
  | 12 => plain .pushf
  | 13 => plain .popf
  | 14 => plain .sahf
  | _ => plain .lahf

/-- Opcodes A0 to AF. -/
def opcodeRowA (lo : Nat) : Reader Instr :=
  match lo with
  | 0 => readWordForm (.movAccMem .byte)
  | 1 => readWordForm (.movAccMem .word)
  | 2 => readWordForm (.movMemAcc .byte)
  | 3 => readWordForm (.movMemAcc .word)
  | 4 => plain (.movs .byte)
  | 5 => plain (.movs .word)
  | 6 => plain (.cmps .byte)
  | 7 => plain (.cmps .word)
  | 8 => readImmForm .byte .testAccImm
  | 9 => readImmForm .word .testAccImm
  | 10 => plain (.stos .byte)
  | 11 => plain (.stos .word)
  | 12 => plain (.lods .byte)
  | 13 => plain (.lods .word)
  | 14 => plain (.scas .byte)
  | _ => plain (.scas .word)

/-- Opcodes C0 to CF. -/
def opcodeRowC (lo : Nat) : Reader Instr :=
  match lo with
  | 0 => readShiftImm .byte
  | 1 => readShiftImm .word
  | 2 => readWordForm .retNearImm
  | 3 => plain .retNear
  | 4 => readMemReg .les
  | 5 => readMemReg .lds
  | 6 => readMovImm .byte
  | 7 => readMovImm .word
  | 8 => readEnter
  | 9 => plain .leave
  | 10 => readWordForm .retFarImm
  | 11 => plain .retFar
  | 12 => plain .int3
  | 13 => readByteForm .intImm
  | 14 => plain .into
  | _ => plain .iret

/-- Opcodes D0 to DF. -/
def opcodeRowD (lo : Nat) : Reader Instr :=
  match lo with
  | 0 => readShiftOne .byte
  | 1 => readShiftOne .word
  | 2 => readShiftCl .byte
  | 3 => readShiftCl .word
  | 4 => readTen .aam
  | 5 => readTen .aad
  | 7 => plain .xlat
  | 8 => readEsc 0
  | 9 => readEsc 1
  | 10 => readEsc 2
  | 11 => readEsc 3
  | 12 => readEsc 4
  | 13 => readEsc 5
  | 14 => readEsc 6
  | 15 => readEsc 7
  | _ => readUndefined

/-- Opcodes E0 to EF. -/
def opcodeRowE (lo : Nat) : Reader Instr :=
  match lo with
  | 0 => readByteForm .loopne
  | 1 => readByteForm .loope
  | 2 => readByteForm .loop
  | 3 => readByteForm .jcxz
  | 4 => readByteForm (.inImm .byte)
  | 5 => readByteForm (.inImm .word)
  | 6 => readByteForm (.outImm .byte)
  | 7 => readByteForm (.outImm .word)
  | 8 => readWordForm .callNear
  | 9 => readWordForm .jmpNear
  | 10 => readFarForm .jmpFar
  | 11 => readByteForm .jmpShort
  | 12 => plain (.inDx .byte)
  | 13 => plain (.inDx .word)
  | 14 => plain (.outDx .byte)
  | _ => plain (.outDx .word)

/-- Opcodes F0 to FF. -/
def opcodeRowF (lo : Nat) : Reader Instr :=
  match lo with
  | 0 => plain .lock
  | 2 => plain .repne
  | 3 => plain .rep
  | 4 => plain .hlt
  | 5 => plain .cmc
  | 6 => readGroup3 .byte
  | 7 => readGroup3 .word
  | 8 => plain .clc
  | 9 => plain .stc
  | 10 => plain .cli
  | 11 => plain .sti
  | 12 => plain .cld
  | 13 => plain .std
  | 14 => readGroup4
  | 15 => readGroup5
  | _ => readUndefined

/-- The reader an opcode byte selects. -/
def opcodeMap (op : Byte) : Reader Instr :=
  let lo := op.toNat % 16
  let rw := op.extractLsb' 0 3
  match op.toNat / 16 with
  | 0 => opcodeRow0 lo
  | 1 => opcodeRow1 lo
  | 2 => opcodeRow2 lo
  | 3 => opcodeRow3 lo
  | 4 => if lo < 8 then plain (.incReg (Reg.ofCode rw)) else plain (.decReg (Reg.ofCode rw))
  | 5 => if lo < 8 then plain (.pushReg (Reg.ofCode rw)) else plain (.popReg (Reg.ofCode rw))
  | 6 => opcodeRow6 lo
  | 7 => opcodeRow7 lo
  | 8 => opcodeRow8 lo
  | 9 => opcodeRow9 lo
  | 10 => opcodeRowA lo
  | 11 => readImmForm (Width.ofBit (8 ≤ lo)) (.movRegImm (Reg.ofCode rw))
  | 12 => opcodeRowC lo
  | 13 => opcodeRowD lo
  | 14 => opcodeRowE lo
  | _ => opcodeRowF lo

/-- The instruction or prefix at the head of the bytes, and the bytes after it (30 R193). A prefix is an item of
its own here: it stands before the instruction it belongs to. -/
def decodeInstr : Reader Instr
  | [] => .error .needMore
  | op :: rest => opcodeMap op rest

/-- The prefixes (30 R181, R182). -/
def Instr.isPrefix : Instr → Bool
  | .rep => true
  | .repne => true
  | .lock => true
  | .seg _ => true
  | _ => false

/-- A whole instruction: its prefixes in order, the instruction, and how many bytes they take. -/
structure Decoded where
  prefixes : List Instr
  instr : Instr
  length : Nat
  deriving DecidableEq, Repr

/-- Decode prefixes and one instruction; `fuel` bounds the number of items, so the bytes' length is enough. -/
def decodeItems : Nat → List Byte → Except DecodeError (List Instr × Instr × List Byte)
  | 0, _ => .error .needMore
  | fuel + 1, bs =>
    match decodeInstr bs with
    | .error e => .error e
    | .ok (i, rest) =>
      if i.isPrefix then
        match decodeItems fuel rest with
        | .error e => .error e
        | .ok (ps, j, rest') => .ok (i :: ps, j, rest')
      else .ok ([], i, rest)

/-- Decode one instruction with its prefixes from bytes, total on any bytes (30 R193). -/
def decode (bs : List Byte) : Except DecodeError Decoded :=
  match decodeItems bs.length bs with
  | .error e => .error e
  | .ok (ps, i, rest) => .ok { prefixes := ps, instr := i, length := bs.length - rest.length }

/-- The bytes of a table word: the table numbers a row's bits with the FIRST byte the most significant (row
`0F 06` is 0F06H), so the first byte is the high byte of `w` (log 30). -/
def tableBytes : Nat → Nat → List Byte
  | 0, _ => []
  | n + 1, w => BitVec.ofNat 8 (w / 256 ^ n) :: tableBytes n w

/-- The bytes of a table word laid out as they lie in memory, zeros after it up to the longest instruction. -/
def tableImage (nbits w : Nat) : List Byte :=
  let bs := tableBytes (nbits / 8) w
  bs ++ List.replicate (11 - bs.length) 0#8

/-- The instruction this decoder reads from a word of spec/opcode_table.json. -/
def decodeTableWord (nbits w : Nat) : Option Instr :=
  match decodeInstr (tableImage nbits w) with
  | .ok (i, _) => some i
  | .error _ => none

/-! ### The encoder -/

/-- A word's bytes, low byte first (20 R81). -/
def wordBytes (v : Word) : List Byte := [v.extractLsb' 0 8, v.extractLsb' 8 8]

/-- The bytes of an immediate. -/
def immBytes : Imm → List Byte
  | .byte v => [v]
  | .word v => wordBytes v

/-- The w bit an immediate stands for. -/
def Imm.bit (x : Imm) : BitVec 1 := x.width.bit

/-- The mod-reg-r/m byte and displacement of a memory operand (30 R184, R185). -/
def memBytes (reg : BitVec 3) : Mem → List Byte
  | .direct d => (0#2 ++ reg ++ 6#3) :: wordBytes d
  | .base b => [0#2 ++ reg ++ b.code]
  | .disp8 b d => [1#2 ++ reg ++ b.code, d]
  | .disp16 b d => (2#2 ++ reg ++ b.code) :: wordBytes d

/-- The mod-reg-r/m byte and displacement of an r/m operand. -/
def rmBytes (reg : BitVec 3) : Rm → List Byte
  | .reg r => [3#2 ++ reg ++ r.code]
  | .mem m => memBytes reg m

/-- The bytes of an instruction, written row by row from the encodings of spec/opcode_table.json. -/
def encode : Instr → List Byte
  | .addRmReg d w rm r => (0b000000#6 ++ d.bit ++ w.bit) :: rmBytes r.code rm
  | .addAccImm x => (0b0000010#7 ++ x.bit) :: immBytes x
  | .addRmImm rm x => (0b1000000#7 ++ x.bit) :: (rmBytes 0 rm ++ immBytes x)
  | .addRmImm8 rm v => 0x83#8 :: (rmBytes 0 rm ++ [v])
  | .orRmReg d w rm r => (0b000010#6 ++ d.bit ++ w.bit) :: rmBytes r.code rm
  | .orAccImm x => (0b0000110#7 ++ x.bit) :: immBytes x
  | .orRmImm rm x => (0b1000000#7 ++ x.bit) :: (rmBytes 1 rm ++ immBytes x)
  | .adcRmReg d w rm r => (0b000100#6 ++ d.bit ++ w.bit) :: rmBytes r.code rm
  | .adcAccImm x => (0b0001010#7 ++ x.bit) :: immBytes x
  | .adcRmImm rm x => (0b1000000#7 ++ x.bit) :: (rmBytes 2 rm ++ immBytes x)
  | .adcRmImm8 rm v => 0x83#8 :: (rmBytes 2 rm ++ [v])
  | .sbbRmReg d w rm r => (0b000110#6 ++ d.bit ++ w.bit) :: rmBytes r.code rm
  | .sbbAccImm x => (0b0001110#7 ++ x.bit) :: immBytes x
  | .sbbRmImm rm x => (0b1000000#7 ++ x.bit) :: (rmBytes 3 rm ++ immBytes x)
  | .sbbRmImm8 rm v => 0x83#8 :: (rmBytes 3 rm ++ [v])
  | .andRmReg d w rm r => (0b001000#6 ++ d.bit ++ w.bit) :: rmBytes r.code rm
  | .andAccImm x => (0b0010010#7 ++ x.bit) :: immBytes x
  | .andRmImm rm x => (0b1000000#7 ++ x.bit) :: (rmBytes 4 rm ++ immBytes x)
  | .subRmReg d w rm r => (0b001010#6 ++ d.bit ++ w.bit) :: rmBytes r.code rm
  | .subAccImm x => (0b0010110#7 ++ x.bit) :: immBytes x
  | .subRmImm rm x => (0b1000000#7 ++ x.bit) :: (rmBytes 5 rm ++ immBytes x)
  | .subRmImm8 rm v => 0x83#8 :: (rmBytes 5 rm ++ [v])
  | .xorRmReg d w rm r => (0b001100#6 ++ d.bit ++ w.bit) :: rmBytes r.code rm
  | .xorAccImm x => (0b0011010#7 ++ x.bit) :: immBytes x
  | .xorRmImm rm x => (0b1000000#7 ++ x.bit) :: (rmBytes 6 rm ++ immBytes x)
  | .cmpRmReg d w rm r => (0b001110#6 ++ d.bit ++ w.bit) :: rmBytes r.code rm
  | .cmpAccImm x => (0b0011110#7 ++ x.bit) :: immBytes x
  | .cmpRmImm rm x => (0b1000000#7 ++ x.bit) :: (rmBytes 7 rm ++ immBytes x)
  | .cmpRmImm8 rm v => 0x83#8 :: (rmBytes 7 rm ++ [v])
  | .incReg r => [0b01000#5 ++ r.code]
  | .incRm w rm => (0b1111111#7 ++ w.bit) :: rmBytes 0 rm
  | .decReg r => [0b01001#5 ++ r.code]
  | .decRm w rm => (0b1111111#7 ++ w.bit) :: rmBytes 1 rm
  | .negRm w rm => (0b1111011#7 ++ w.bit) :: rmBytes 3 rm
  | .notRm w rm => (0b1111011#7 ++ w.bit) :: rmBytes 2 rm
  | .mulRm w rm => (0b1111011#7 ++ w.bit) :: rmBytes 4 rm
  | .imulRm w rm => (0b1111011#7 ++ w.bit) :: rmBytes 5 rm
  | .imulImm r rm v => 0x69#8 :: (rmBytes r.code rm ++ wordBytes v)
  | .imulImm8 r rm v => 0x6B#8 :: (rmBytes r.code rm ++ [v])
  | .divRm w rm => (0b1111011#7 ++ w.bit) :: rmBytes 6 rm
  | .idivRm w rm => (0b1111011#7 ++ w.bit) :: rmBytes 7 rm
  | .testRmReg w rm r => (0b1000010#7 ++ w.bit) :: rmBytes r.code rm
  | .testAccImm x => (0b1010100#7 ++ x.bit) :: immBytes x
  | .testRmImm rm x => (0b1111011#7 ++ x.bit) :: (rmBytes 0 rm ++ immBytes x)
  | .aaa => [0x37#8]
  | .daa => [0x27#8]
  | .aas => [0x3F#8]
  | .das => [0x2F#8]
  | .aam => [0xD4#8, 0x0A#8]
  | .aad => [0xD5#8, 0x0A#8]
  | .cbw => [0x98#8]
  | .cwd => [0x99#8]
  | .rolOne w rm => (0b1101000#7 ++ w.bit) :: rmBytes 0 rm
  | .rolCl w rm => (0b1101001#7 ++ w.bit) :: rmBytes 0 rm
  | .rolImm w rm n => (0b1100000#7 ++ w.bit) :: (rmBytes 0 rm ++ [n])
  | .rorOne w rm => (0b1101000#7 ++ w.bit) :: rmBytes 1 rm
  | .rorCl w rm => (0b1101001#7 ++ w.bit) :: rmBytes 1 rm
  | .rorImm w rm n => (0b1100000#7 ++ w.bit) :: (rmBytes 1 rm ++ [n])
  | .rclOne w rm => (0b1101000#7 ++ w.bit) :: rmBytes 2 rm
  | .rclCl w rm => (0b1101001#7 ++ w.bit) :: rmBytes 2 rm
  | .rclImm w rm n => (0b1100000#7 ++ w.bit) :: (rmBytes 2 rm ++ [n])
  | .rcrOne w rm => (0b1101000#7 ++ w.bit) :: rmBytes 3 rm
  | .rcrCl w rm => (0b1101001#7 ++ w.bit) :: rmBytes 3 rm
  | .rcrImm w rm n => (0b1100000#7 ++ w.bit) :: (rmBytes 3 rm ++ [n])
  | .shlOne w rm => (0b1101000#7 ++ w.bit) :: rmBytes 4 rm
  | .shlCl w rm => (0b1101001#7 ++ w.bit) :: rmBytes 4 rm
  | .shlImm w rm n => (0b1100000#7 ++ w.bit) :: (rmBytes 4 rm ++ [n])
  | .shrOne w rm => (0b1101000#7 ++ w.bit) :: rmBytes 5 rm
  | .shrCl w rm => (0b1101001#7 ++ w.bit) :: rmBytes 5 rm
  | .shrImm w rm n => (0b1100000#7 ++ w.bit) :: (rmBytes 5 rm ++ [n])
  | .sarOne w rm => (0b1101000#7 ++ w.bit) :: rmBytes 7 rm
  | .sarCl w rm => (0b1101001#7 ++ w.bit) :: rmBytes 7 rm
  | .sarImm w rm n => (0b1100000#7 ++ w.bit) :: (rmBytes 7 rm ++ [n])
  | .movRmReg d w rm r => (0b100010#6 ++ d.bit ++ w.bit) :: rmBytes r.code rm
  | .movRmSreg rm sr => 0x8C#8 :: rmBytes (0#1 ++ sr.code) rm
  | .movEsRm rm => 0x8E#8 :: rmBytes 0 rm
  | .movSsRm rm => 0x8E#8 :: rmBytes 2 rm
  | .movDsRm rm => 0x8E#8 :: rmBytes 3 rm
  | .movAccMem w a => (0b1010000#7 ++ w.bit) :: wordBytes a
  | .movMemAcc w a => (0b1010001#7 ++ w.bit) :: wordBytes a
  | .movRegImm r x => (0b1011#4 ++ x.bit ++ r.code) :: immBytes x
  | .movRmImm rm x => (0b1100011#7 ++ x.bit) :: (rmBytes 0 rm ++ immBytes x)
  | .pushReg r => [0b01010#5 ++ r.code]
  | .pushRm rm => 0xFF#8 :: rmBytes 6 rm
  | .pushSreg sr => [0b000#3 ++ sr.code ++ 0b110#3]
  | .pushImm v => 0x68#8 :: wordBytes v
  | .pushImm8 v => 0x6A#8 :: [v]
  | .pusha => [0x60#8]
  | .popa => [0x61#8]
  | .popReg r => [0b01011#5 ++ r.code]
  | .popRm rm => 0x8F#8 :: rmBytes 0 rm
  | .popEs => [0x07#8]
  | .popSs => [0x17#8]
  | .popDs => [0x1F#8]
  | .xchgRmReg w rm r => (0b1000011#7 ++ w.bit) :: rmBytes r.code rm
  | .xchgAx r => [0b10010#5 ++ r.code]
  | .nop => [0x90#8]
  | .xlat => [0xD7#8]
  | .inImm w p => (0b1110010#7 ++ w.bit) :: [p]
  | .inDx w => [0b1110110#7 ++ w.bit]
  | .outImm w p => (0b1110011#7 ++ w.bit) :: [p]
  | .outDx w => [0b1110111#7 ++ w.bit]
  | .lea r m => 0x8D#8 :: memBytes r.code m
  | .lds r m => 0xC5#8 :: memBytes r.code m
  | .les r m => 0xC4#8 :: memBytes r.code m
  | .lahf => [0x9F#8]
  | .sahf => [0x9E#8]
  | .pushf => [0x9C#8]
  | .popf => [0x9D#8]
  | .movs w => [0b1010010#7 ++ w.bit]
  | .cmps w => [0b1010011#7 ++ w.bit]
  | .stos w => [0b1010101#7 ++ w.bit]
  | .lods w => [0b1010110#7 ++ w.bit]
  | .scas w => [0b1010111#7 ++ w.bit]
  | .ins w => [0b0110110#7 ++ w.bit]
  | .outs w => [0b0110111#7 ++ w.bit]
  | .rep => [0xF3#8]
  | .repne => [0xF2#8]
  | .jo cb => 0x70#8 :: [cb]
  | .jno cb => 0x71#8 :: [cb]
  | .jb cb => 0x72#8 :: [cb]
  | .jnb cb => 0x73#8 :: [cb]
  | .je cb => 0x74#8 :: [cb]
  | .jne cb => 0x75#8 :: [cb]
  | .jbe cb => 0x76#8 :: [cb]
  | .jnbe cb => 0x77#8 :: [cb]
  | .js cb => 0x78#8 :: [cb]
  | .jns cb => 0x79#8 :: [cb]
  | .jp cb => 0x7A#8 :: [cb]
  | .jnp cb => 0x7B#8 :: [cb]
  | .jl cb => 0x7C#8 :: [cb]
  | .jnl cb => 0x7D#8 :: [cb]
  | .jle cb => 0x7E#8 :: [cb]
  | .jnle cb => 0x7F#8 :: [cb]
  | .jcxz cb => 0xE3#8 :: [cb]
  | .loop cb => 0xE2#8 :: [cb]
  | .loope cb => 0xE1#8 :: [cb]
  | .loopne cb => 0xE0#8 :: [cb]
  | .jmpShort cb => 0xEB#8 :: [cb]
  | .jmpNear cw => 0xE9#8 :: wordBytes cw
  | .jmpRm rm => 0xFF#8 :: rmBytes 4 rm
  | .jmpFar off sel => 0xEA#8 :: (wordBytes off ++ wordBytes sel)
  | .jmpFarMem m => 0xFF#8 :: memBytes 5 m
  | .callNear cw => 0xE8#8 :: wordBytes cw
  | .callRm rm => 0xFF#8 :: rmBytes 2 rm
  | .callFar off sel => 0x9A#8 :: (wordBytes off ++ wordBytes sel)
  | .callFarMem m => 0xFF#8 :: memBytes 3 m
  | .retNear => [0xC3#8]
  | .retNearImm n => 0xC2#8 :: wordBytes n
  | .retFar => [0xCB#8]
  | .retFarImm n => 0xCA#8 :: wordBytes n
  | .int3 => [0xCC#8]
  | .intImm v => 0xCD#8 :: [v]
  | .into => [0xCE#8]
  | .iret => [0xCF#8]
  | .enter size level => 0xC8#8 :: (wordBytes size ++ [level])
  | .leave => [0xC9#8]
  | .bound r m => 0x62#8 :: memBytes r.code m
  | .stc => [0xF9#8]
  | .clc => [0xF8#8]
  | .cmc => [0xF5#8]
  | .std => [0xFD#8]
  | .cld => [0xFC#8]
  | .sti => [0xFB#8]
  | .cli => [0xFA#8]
  | .hlt => [0xF4#8]
  | .esc ttt lll rm => (0b11011#5 ++ ttt) :: rmBytes lll rm
  | .wait => [0x9B#8]
  | .lock => [0xF0#8]
  | .seg sr => [0b001#3 ++ sr.code ++ 0b110#3]
  | .lmsw rm => [0x0F#8, 0x01#8] ++ rmBytes 6 rm
  | .smsw rm => [0x0F#8, 0x01#8] ++ rmBytes 4 rm
  | .lgdt m => [0x0F#8, 0x01#8] ++ memBytes 2 m
  | .lidt m => [0x0F#8, 0x01#8] ++ memBytes 3 m
  | .sgdt m => [0x0F#8, 0x01#8] ++ memBytes 0 m
  | .sidt m => [0x0F#8, 0x01#8] ++ memBytes 1 m
  | .lldt rm => [0x0F#8, 0x00#8] ++ rmBytes 2 rm
  | .sldt rm => [0x0F#8, 0x00#8] ++ rmBytes 0 rm
  | .ltr rm => [0x0F#8, 0x00#8] ++ rmBytes 3 rm
  | .str rm => [0x0F#8, 0x00#8] ++ rmBytes 1 rm
  | .lar r rm => [0x0F#8, 0x02#8] ++ rmBytes r.code rm
  | .lsl r rm => [0x0F#8, 0x03#8] ++ rmBytes r.code rm
  | .verr rm => [0x0F#8, 0x00#8] ++ rmBytes 4 rm
  | .verw rm => [0x0F#8, 0x00#8] ++ rmBytes 5 rm
  | .arpl rm r => 0x63#8 :: rmBytes r.code rm
  | .clts => [0x0F#8, 0x06#8]

end Sys2Proof
end

