-- ==== Sys2Proof/Machine/State.lean ====
section
/-! DEFINITION. The state of the machine as plain data (10_state.md), the state after reset, and the two closed
types of reasons a step can stop. -/

namespace Sys2Proof.Machine

/-- The eight general registers (10 R20). -/
structure Regs where
  ax : Word
  cx : Word
  dx : Word
  bx : Word
  sp : Word
  bp : Word
  si : Word
  di : Word
  deriving DecidableEq, Repr

/-- The named flags (10 R26-R37). Bits 15, 5, 3 and 1 of the word are not state (10 R38). -/
structure Flags where
  cf : Bool
  pf : Bool
  af : Bool
  zf : Bool
  sf : Bool
  tf : Bool
  ifl : Bool
  df : Bool
  of : Bool
  iopl : BitVec 2
  nt : Bool
  deriving DecidableEq, Repr

/-- A segment register: its selector and its hidden descriptor cache (10 R23, R24). -/
structure Segment where
  sel : Word
  /-- The access rights byte of the descriptor (20 R88); 93H for a cache a real-mode load wrote (log 29). -/
  rights : Byte
  base : Base24
  limit : Word
  valid : Bool
  /-- The cache was written by reset or by a real-mode load (20 R106; log 29). -/
  real : Bool
  deriving DecidableEq, Repr

/-- GDTR or IDTR (10 R43, R44). -/
structure TableReg where
  base : Base24
  limit : Word
  deriving DecidableEq, Repr

/-- LDTR: the selector and the hidden part (10 R45). -/
structure LdtReg where
  sel : Word
  base : Base24
  limit : Word
  valid : Bool
  deriving DecidableEq, Repr

/-- TR: the selector and the hidden part (10 R46). -/
structure TaskReg where
  sel : Word
  base : Base24
  limit : Word
  deriving DecidableEq, Repr

/-- The run state (10 R52). -/
inductive RunState where
  | running
  | halted
  | shutdown
  deriving DecidableEq, Repr

/-- The interrupt-inhibit shadow (10 R50): nothing, INTR alone (after STI), or all interrupts (after a load of
SS). -/
inductive Inhibit where
  | none
  | intr
  | all
  deriving DecidableEq, Repr

/-- The repeat prefix in force (30 R182). -/
inductive Repeat where
  | repe
  | repne
  deriving DecidableEq, Repr

/-- How far the instruction of this step has come: complete, one iteration of a repeated string instruction
done (43 R380), or waiting for BUSY (47 R493). -/
inductive Progress where
  | complete
  | iterate
  | stall
  deriving DecidableEq, Repr

/-- The instruction in progress: the locals of the decode procedure (30 R193) and the model's own marks
(log 18). -/
structure InstState where
  /-- IP_inst: the offset of the first prefix byte. -/
  ipInst : Word
  seg : Option SReg
  /-- The instruction carries the LOCK prefix (47 R494). -/
  lock : Bool
  rep : Option Repeat
  /-- The decoded instruction that goes on in the next step without a new fetch (log 18). -/
  code : Option Decoded
  /-- False once an exception has been taken: the remaining items of the instruction do not run (log 18). -/
  active : Bool
  progress : Progress
  /-- The instruction runs under real-mode rules although PE is set (70 R610; log 21). -/
  realRules : Bool
  deriving DecidableEq, Repr

/-- What of the instruction queue a program can observe (10 R49). -/
structure FetchState where
  /-- Old values the queue may still hold of bytes stored since they were fetched (20 R120; log 20). -/
  stale : List Host.Cell
  /-- IP after an LMSW that set PE, with no transfer taken since (70 R610; log 21). -/
  lmswAt : Option Word
  /-- Sequential flow has just run past offset FFFFH under real-mode rules (93 U34, 70 R610; log 22). -/
  wrapped : Bool
  deriving DecidableEq, Repr

/-- An operand transfer the processor extension may request (20 R124; log 15): the segment cache it goes
through, the offset of the next word, and its direction. -/
structure NpxTransfer where
  seg : Segment
  offset : Nat
  toMemory : Bool
  deriving DecidableEq, Repr

/-- What the processor writes outside memory (20 R110: "IoWrite is an output"; 47 R492). -/
inductive Output where
  | byte (port : Nat) (v : Byte)
  | word (port : Nat) (v : Word)
  /-- An ESC opcode handed to the processor extension, with the operand's selector and offset. -/
  | esc (ttt lll : BitVec 3) (rm : Rm) (addr : Option (Word × Word))
  deriving DecidableEq, Repr

/-- An exception an instruction raises: its vector and, for vectors 8 and 10 to 13, its error code (60 R541,
R548). Real mode pushes no code. -/
structure Exc where
  vector : Byte
  code : Option Word
  deriving DecidableEq, Repr

/-- The platform's parameters, arguments of the model (00 R5): nothing writes them. -/
structure Platform where
  /-- ADDR_MASK, applied to physical addresses: FFFFFFH for full decode (20 R80; 92 D2; log 9). -/
  addrMask : Base24
  /-- FLAG_RESERVED_IMAGE: what bits 15, 5, 3, 1 of a stored flag image read as (10 R38, 92 D4; log 7). -/
  flagReserved : Word
  /-- REP_NONSTRING: `true` when F2 or F3 before a non-string instruction is ignored, `false` when the model
  declines it (92 D23; log 13). -/
  repIgnored : Bool
  deriving DecidableEq, Repr

/-- The recommended values of 00 R5, the latter of the two choices for REP_NONSTRING (logs 7, 9, 13). -/
def Platform.standard : Platform := { addrMask := 0xFFFFFF#24, flagReserved := 0x0002#16, repIgnored := true }

/-- What other users of the bus do at one place between two bus operations of the processor (20 R117 (c), R126;
log 42). -/
structure BusSlot where
  /-- Bytes another bus master writes, oldest first. -/
  writes : List Host.Cell
  /-- PEREQ: the extension asks for an operand transfer here; the word is what it gives if the transfer is to memory
  (20 R124; log 15). -/
  pereq : Option Word
  deriving DecidableEq, Repr

/-- One sample of the processor's inputs (10 R53; log 17). -/
structure Pins where
  /-- RESET goes active in this step, after the given number of its own bytes and port writes have reached the bus
  (70 R600, 92 D5; log 39). -/
  reset : Option Nat
  /-- HOLD: another master has the local bus for this step (20 R126). -/
  hold : Bool
  /-- INTR active, with the vector the interrupt controller supplies (60 R553). -/
  intr : Option Byte
  /-- An NMI edge since the last sample (60 R554). -/
  nmi : Bool
  /-- BUSY active (47 R493). -/
  busy : Bool
  /-- ERROR active (60 R558). -/
  error : Bool
  /-- PEREQ active (20 R124). -/
  pereq : Bool
  /-- What a port read of this step returns; `none` leaves it free (20 R110; log 43). -/
  portData : Option Word
  /-- Bytes another bus master wrote before this step, oldest first (20 R117; log 42). -/
  busWrites : List Host.Cell
  /-- What other users of the bus do between bus operations inside this step, one entry for each place where the step
  lets them in (20 R117 (c), R126; log 42). -/
  between : List BusSlot
  deriving DecidableEq, Repr

/-- Memory: the bytes written since power-on, addresses strictly rising (20 R80; log 6). -/
abbrev Memory := List Host.Cell

/-- The strictly rising form from a lower bound on. -/
def Memory.risesFrom : Nat → Memory → Bool
  | _, [] => true
  | lo, (a, _) :: m => lo ≤ a && a < 2 ^ 24 && Memory.risesFrom (a + 1) m

/-- The canonical form: addresses of the 24-bit space, strictly rising. An unlisted address reads as no value,
so no entry can equal what an unlisted address reads as (log 6). -/
def Memory.wf (m : Memory) : Bool := m.risesFrom 0

/-- The state of the machine. -/
structure State where
  regs : Regs
  /-- IP: during an instruction the offset after its last byte, IP_next (10 R25). -/
  ip : Word
  flags : Flags
  /-- MSW: PE, MP, EM, TS in bits 0-3 (10 R39). -/
  msw : Word
  es : Segment
  cs : Segment
  ss : Segment
  ds : Segment
  gdtr : TableReg
  idtr : TableReg
  ldtr : LdtReg
  tr : TaskReg
  run : RunState
  inhibit : Inhibit
  nmiInService : Bool
  nmiPending : Bool
  /-- A single-step trap is pending at the next boundary (60 R555). -/
  stepTrap : Bool
  /-- A processor extension segment overrun is pending (60 R544). -/
  overrunPending : Bool
  /-- NPX_PRESENT: whether an 80287 is attached (00 R5; log 14). Nothing writes it. -/
  npxPresent : Bool
  npx : Option NpxTransfer
  /-- An exception of a new task met while another event was delivered through its task gate: the next boundary
  delivers it first (44 R444; log 26). -/
  pendingExc : Option Exc
  fetch : FetchState
  inst : InstState
  mem : Memory
  /-- The bytes stored since the step's inputs were sampled, newest first (70 R600; log 39). -/
  writes : List Host.Cell
  /-- What other users of the bus are still to do in this step (20 R117 (c); log 42). -/
  bus : List BusSlot
  platform : Platform
  pins : Pins
  /-- The input samples of later steps (log 17). -/
  env : List Pins
  /-- What the processor has written outside memory, newest first (log 43). -/
  out : List Output
  /-- How many free values have been drawn: the index of the next one (log 5). -/
  draws : Nat
  deriving DecidableEq, Repr

/-- A stop with a fault: none exists. Every exception of this processor is taken, and what cannot be delivered ends
in shutdown, which is a next state (60 R574). -/
inductive Fault where
  deriving DecidableEq, Repr

/-- An instruction the model declines to run. -/
inductive Refusal where
  /-- An instruction whose meaning is not written yet. Safe. -/
  | notModelled (mnemonic : String)
  /-- IN, OUT, INS or OUTS of a word at port FFFFH: outside what the spec defines (20 R110, 92 D21, 93 U20;
  log 16). Safe. -/
  | wordPortWrap
  /-- ESC with EM = TS = 0 and no processor extension attached: no agent answers (47 R492, 92 D19, 93 U28;
  log 14). Safe. -/
  | noExtension
  /-- F2 or F3 before an instruction that is not a string instruction, on a platform that declines it: REP_NONSTRING
  = refuse (00 R5, 92 D23; log 13). Safe. -/
  | repNonString
  deriving DecidableEq, Repr

/-- No input asserted. -/
def Pins.idle : Pins :=
  { reset := none, hold := false, intr := none, nmi := false, busy := false, error := false, pereq := false,
    portData := none, busWrites := [], between := [] }

/-- The instruction queue is empty. -/
def FetchState.empty : FetchState := { stale := [], lmswAt := none, wrapped := false }

/-- No instruction in progress. -/
def InstState.idle : InstState :=
  { ipInst := 0, seg := none, lock := false, rep := none, code := none, active := false,
    progress := .complete, realRules := false }

/-- The named flags all 0 (10 R26: reset value 0002H). -/
def Flags.zero : Flags :=
  { cf := false, pf := false, af := false, zf := false, sf := false, tf := false, ifl := false, df := false,
    of := false, iopl := 0, nt := false }

/-- A segment register as reset leaves it: 64K, every access allowed (10 R56, log 29). -/
def Segment.atReset (sel : Word) (base : Base24) : Segment :=
  { sel := sel, rights := 0x93#8, base := base, limit := 0xFFFF#16, valid := true, real := true }

/-- The machine right after reset (10 R56, 70 R601). The general registers, GDTR, LDTR and TR have no reset value
in the spec: logs 1 to 4 name the zeros here. Memory lists nothing (log 6). -/
def State.reset : State :=
  { regs := { ax := 0, cx := 0, dx := 0, bx := 0, sp := 0, bp := 0, si := 0, di := 0 }
    ip := 0xFFF0#16
    flags := Flags.zero
    msw := 0xFFF0#16
    es := Segment.atReset 0 0
    cs := Segment.atReset 0xF000#16 0xFF0000#24
    ss := Segment.atReset 0 0
    ds := Segment.atReset 0 0
    gdtr := { base := 0, limit := 0 }
    idtr := { base := 0, limit := 0x03FF#16 }
    ldtr := { sel := 0, base := 0, limit := 0, valid := false }
    tr := { sel := 0, base := 0, limit := 0 }
    run := .running
    inhibit := .none
    nmiInService := false
    nmiPending := false
    stepTrap := false
    overrunPending := false
    npxPresent := true
    npx := none
    pendingExc := none
    fetch := FetchState.empty
    inst := InstState.idle
    mem := []
    writes := []
    bus := []
    platform := Platform.standard
    pins := Pins.idle
    env := []
    out := []
    draws := 0 }

end Sys2Proof.Machine
end

