-- ==== Sys2Proof/Machine/Flags.lean ====
section
/-! DEFINITION. Free values, the flags word and every flag computation of the spec (10 R26-R38, 00 R9, 41 R281,
42 R330, R340-R348). An operand is carried as a word; a byte operand is that word with a zero high byte. -/

namespace Sys2Proof

/-! ### Values of a width -/

/-- The low bits of a word that an operand of this width has. -/
def Width.trunc (w : Width) (v : Word) : Word :=
  match w with
  | .byte => v &&& 0x00FF#16
  | .word => v

/-- The most significant bit of an operand of this width. -/
def Width.msb (w : Width) (v : Word) : Bool := v.getLsbD (w.bits - 1)

/-- An operand's two's complement value at its width (00 R7, `signed`). -/
def Width.toInt (w : Width) (v : Word) : Int :=
  match w with
  | .byte => (v.extractLsb' 0 8).toInt
  | .word => v.toInt

/-- `sext_16` of a byte (00 R7). -/
def signExtend (v : Byte) : Word := v.signExtend 16

/-- `zext_16` of a byte (00 R7). -/
def zeroExtend (v : Byte) : Word := v.setWidth 16

/-- An integer reduced modulo 2^n to an operand of this width. -/
def Width.ofInt (w : Width) (n : Int) : Word := w.trunc (BitVec.ofInt 16 n)

/-- The top bit of a width, as a value. -/
def Width.topBit (w : Width) : Word :=
  match w with
  | .byte => 0x0080#16
  | .word => 0x8000#16

namespace Machine

/-! ### Free values (00 R7, 92 D3; log 5) -/

/-- The k-th free bit from the state's counter on. -/
def State.freeBit (s : State) (k : Nat) : Bool := Config.freeBit (s.draws + k)

/-- The k-th free byte from the state's counter on. -/
def State.freeByte (s : State) (k : Nat) : Byte := Config.freeByte (s.draws + k)

/-- The k-th free word from the state's counter on. -/
def State.freeWord (s : State) (k : Nat) : Word := Config.freeWord (s.draws + k)

/-- Use up n draws. -/
def State.tick (s : State) (n : Nat) : State := { s with draws := s.draws + n }

/-- Write the flags. -/
def State.setFlags (s : State) (f : Flags) : State := { s with flags := f }

/-! ### Status flags -/

/-- `EvenParity` of the low 8 bits (00 R9). -/
def evenParity (v : Word) : Bool :=
  !(v.getLsbD 0 ^^ v.getLsbD 1 ^^ v.getLsbD 2 ^^ v.getLsbD 3 ^^ v.getLsbD 4 ^^ v.getLsbD 5 ^^ v.getLsbD 6 ^^
    v.getLsbD 7)

/-- `SetSZP` (00 R9). -/
def Flags.setSZP (f : Flags) (w : Width) (r : Word) : Flags :=
  { f with sf := w.msb r, zf := decide (r = 0), pf := evenParity r }

/-- The result of `AddFlags(a, b, c, n)` (41 R281). -/
def addResult (w : Width) (c : Bool) (a b : Word) : Word :=
  BitVec.ofNat 16 ((a.toNat + b.toNat + c.toNat) % 2 ^ w.bits)

/-- The flags of `AddFlags(a, b, c, n)` (41 R281). -/
def Flags.add (f : Flags) (w : Width) (c : Bool) (a b : Word) : Flags :=
  let r := addResult w c a b
  Flags.setSZP
    { f with
      cf := decide (2 ^ w.bits ≤ a.toNat + b.toNat + c.toNat)
      af := decide (16 ≤ a.toNat % 16 + b.toNat % 16 + c.toNat)
      of := w.msb a == w.msb b && w.msb r != w.msb a } w r

/-- The result of `SubFlags(a, b, c, n)` (41 R281). -/
def subResult (w : Width) (c : Bool) (a b : Word) : Word :=
  BitVec.ofNat 16 ((2 ^ (w.bits + 1) + a.toNat - b.toNat - c.toNat) % 2 ^ w.bits)

/-- The flags of `SubFlags(a, b, c, n)` (41 R281). -/
def Flags.sub (f : Flags) (w : Width) (c : Bool) (a b : Word) : Flags :=
  let r := subResult w c a b
  Flags.setSZP
    { f with
      cf := decide (a.toNat < b.toNat + c.toNat)
      af := decide (a.toNat % 16 < b.toNat % 16 + c.toNat)
      of := w.msb a != w.msb b && w.msb r != w.msb a } w r

/-- `LogicFlags(r, n)`: OF and CF cleared, SF, ZF, PF from the result, AF undefined (42 R330). -/
def Flags.logic (f : Flags) (w : Width) (r : Word) (af : Bool) : Flags :=
  Flags.setSZP { f with of := false, cf := false, af := af } w r

/-! ### The two-operand operations of opcodes 00-3F and group 1 (30 R191, R192) -/

/-- The operation bits 5-3 of the opcode or of ModRM choose. -/
inductive AluOp where
  | add
  | or
  | adc
  | sbb
  | and
  | sub
  | xor
  | cmp
  deriving DecidableEq, Repr

/-- The value the operation computes from destination and source (41 R282-R296, 42 R332-R337); for CMP the
difference, which nothing stores. -/
def AluOp.result (op : AluOp) (w : Width) (cf : Bool) (a b : Word) : Word :=
  match op with
  | .add => addResult w false a b
  | .or => a ||| b
  | .adc => addResult w cf a b
  | .sbb => subResult w cf a b
  | .and => a &&& b
  | .sub => subResult w false a b
  | .xor => a ^^^ b
  | .cmp => subResult w false a b

/-- Whether AF is undefined after the operation (42 R330). -/
def AluOp.isLogic : AluOp → Bool
  | .or => true
  | .and => true
  | .xor => true
  | _ => false

/-- The flags after the operation; `free` is AF's value where it is undefined. -/
def AluOp.flags (op : AluOp) (f : Flags) (w : Width) (a b : Word) (free : Bool) : Flags :=
  match op with
  | .add => f.add w false a b
  | .or => f.logic w (a ||| b) free
  | .adc => f.add w f.cf a b
  | .sbb => f.sub w f.cf a b
  | .and => f.logic w (a &&& b) free
  | .sub => f.sub w false a b
  | .xor => f.logic w (a ^^^ b) free
  | .cmp => f.sub w false a b

/-- The state after the operation's flags; a logic operation uses up one draw for AF. -/
def State.aluFlags (s : State) (op : AluOp) (w : Width) (a b : Word) : State :=
  (s.setFlags (op.flags s.flags w a b (s.freeBit 0))).tick (if op.isLogic then 1 else 0)

/-! ### INC, DEC, NEG (41 R286, R293, R294) -/

/-- The flags of INC: those of an addition of 1, CF unchanged (41 R286). -/
def Flags.inc (f : Flags) (w : Width) (a : Word) : Flags := { f.add w false a 1 with cf := f.cf }

/-- The flags of DEC: those of a subtraction of 1, CF unchanged (41 R293). -/
def Flags.dec (f : Flags) (w : Width) (a : Word) : Flags := { f.sub w false a 1 with cf := f.cf }

/-! ### Multiplication and division (41 R299-R304) -/

/-- CF and OF tell whether the upper half is significant; SF, ZF, AF, PF are undefined (41 R299-R301). -/
def State.mulFlags (s : State) (significant : Bool) : State :=
  (s.setFlags
    { s.flags with
      cf := significant, of := significant, sf := s.freeBit 0, zf := s.freeBit 1, af := s.freeBit 2,
      pf := s.freeBit 3 }).tick 4

/-- All six status flags are undefined (41 R303, R304). -/
def State.divFlags (s : State) : State :=
  (s.setFlags
    { s.flags with
      cf := s.freeBit 0, of := s.freeBit 1, sf := s.freeBit 2, zf := s.freeBit 3, af := s.freeBit 4,
      pf := s.freeBit 5 }).tick 6

/-! ### Shifts and rotates (42 R340-R348) -/

/-- The operation bits 5-3 of ModRM choose in the shift group (30 R192). -/
inductive ShiftOp where
  | rol
  | ror
  | rcl
  | rcr
  | shl
  | shr
  | sar
  deriving DecidableEq, Repr

/-- One single-bit step on operand and CF (42 R341-R347). -/
def ShiftOp.once (op : ShiftOp) (w : Width) (x : Word × Bool) : Word × Bool :=
  let up := w.trunc (x.1 <<< 1)
  let down := x.1 >>> 1
  let top := w.msb x.1
  let low := x.1.getLsbD 0
  match op with
  | .rol => (up ||| (if top then 1 else 0), top)
  | .ror => (down ||| (if low then w.topBit else 0), low)
  | .rcl => (up ||| (if x.2 then 1 else 0), top)
  | .rcr => (down ||| (if x.2 then w.topBit else 0), low)
  | .shl => (up, top)
  | .shr => (down, low)
  | .sar => (down ||| (if top then w.topBit else 0), low)

/-- k single-bit steps (42 R340). -/
def ShiftOp.times (op : ShiftOp) (w : Width) : Nat → Word × Bool → Word × Bool
  | 0, x => x
  | k + 1, x => op.times w k (op.once w x)

/-- OF after the forms that shift once (42 R341-R347): `x` and `cf` before, `y` and `cy` after. ROR's is free
(92 D45). -/
def ShiftOp.overflow (op : ShiftOp) (w : Width) (x : Word) (cf : Bool) (y : Word) (cy free : Bool) : Bool :=
  match op with
  | .rol => cy != w.msb y
  | .ror => free
  | .rcl => cy != w.msb y
  | .rcr => cf != w.msb x
  | .shl => w.msb y != cy
  | .shr => w.msb x
  | .sar => false

/-- Whether the operation is a shift: SF, ZF, PF follow the result and AF is undefined (42 R341-R343). -/
def ShiftOp.isShift : ShiftOp → Bool
  | .shl => true
  | .shr => true
  | .sar => true
  | _ => false

/-- The flags after at least one step, CF and OF given; rotates leave SF, ZF, AF, PF alone (42 R344-R348). -/
def ShiftOp.flags (op : ShiftOp) (f : Flags) (w : Width) (y : Word) (cf of af : Bool) : Flags :=
  if op.isShift then Flags.setSZP { f with cf := cf, of := of, af := af } w y
  else { f with cf := cf, of := of }

/-! ### Decimal and ASCII adjusts (41 R287, R288, R297, R298, R302, R305) -/

/-- Whether the low digit needs adjusting: AL mod 16 > 9 or AF (41 R287). -/
def adjustLow (f : Flags) (al : Byte) : Bool := decide (9 < al.toNat % 16) || f.af

/-- Whether the high digit needs adjusting: AL > 99H or CF (41 R288). -/
def adjustHigh (f : Flags) (al : Byte) : Bool := decide (0x99 < al.toNat) || f.cf

/-- Flags of AAA and AAS: AF and CF tell whether an adjust was made, OF, SF, ZF, PF are undefined. -/
def State.asciiFlags (s : State) (adjusted : Bool) : State :=
  (s.setFlags
    { s.flags with
      af := adjusted, cf := adjusted, of := s.freeBit 0, sf := s.freeBit 1, zf := s.freeBit 2,
      pf := s.freeBit 3 }).tick 4

/-- Flags of DAA and DAS: SF, ZF, PF from AL, AF and CF as computed, OF undefined. -/
def State.decimalFlags (s : State) (al : Byte) (af cf : Bool) : State :=
  (s.setFlags (Flags.setSZP { s.flags with af := af, cf := cf, of := s.freeBit 0 } .byte (zeroExtend al))).tick 1

/-- Flags of AAM and AAD: SF, ZF, PF from AL, OF, AF, CF undefined. -/
def State.asciiMulFlags (s : State) (al : Byte) : State :=
  (s.setFlags
    (Flags.setSZP { s.flags with of := s.freeBit 0, af := s.freeBit 1, cf := s.freeBit 2 } .byte
      (zeroExtend al))).tick 3

/-! ### The flags word -/

/-- The flags as a word whose bits 15, 5, 3, 1 are those of `r` (10 R26, R38). -/
def Flags.image (f : Flags) (r : Word) : Word :=
  BitVec.ofBool (r.getLsbD 15) ++ BitVec.ofBool f.nt ++ f.iopl ++ BitVec.ofBool f.of ++ BitVec.ofBool f.df ++
    BitVec.ofBool f.ifl ++ BitVec.ofBool f.tf ++ BitVec.ofBool f.sf ++ BitVec.ofBool f.zf ++
    BitVec.ofBool (r.getLsbD 5) ++ BitVec.ofBool f.af ++ BitVec.ofBool (r.getLsbD 3) ++ BitVec.ofBool f.pf ++
    BitVec.ofBool (r.getLsbD 1) ++ BitVec.ofBool f.cf

/-- A whole flags word loaded by a task switch (44 R440); the reserved bits are ignored (10 R38). -/
def Flags.ofImage (v : Word) : Flags :=
  { cf := v.getLsbD 0, pf := v.getLsbD 2, af := v.getLsbD 4, zf := v.getLsbD 6, sf := v.getLsbD 7,
    tf := v.getLsbD 8, ifl := v.getLsbD 9, df := v.getLsbD 10, of := v.getLsbD 11,
    iopl := v.extractLsb' 12 2, nt := v.getLsbD 14 }

/-- The flags a POPF or IRET leaves (40 R276, 45 R459): in real mode IOPL and NT stay; in protected mode IF needs
CPL <= IOPL and IOPL needs CPL = 0. -/
def Flags.pop (f : Flags) (prot : Bool) (cpl : Nat) (v : Word) : Flags :=
  let g := Flags.ofImage v
  if prot then
    { g with
      ifl := if cpl ≤ f.iopl.toNat then g.ifl else f.ifl
      iopl := if cpl = 0 then g.iopl else f.iopl }
  else { g with iopl := f.iopl, nt := f.nt }

/-- `FlagsImage()` (40 R258): bits 15, 5, 3, 1 are those of FLAG_RESERVED_IMAGE (10 R38). -/
def State.flagImage (s : State) : Word := s.flags.image s.platform.flagReserved

/-- The low byte of the flags word, as LAHF reads it (40 R256). -/
def State.flagByte (s : State) : Byte := s.flagImage.extractLsb' 0 8

/-- The flags SAHF stores from a byte (40 R257). -/
def Flags.ofLowByte (f : Flags) (v : Byte) : Flags :=
  { f with sf := v.getLsbD 7, zf := v.getLsbD 6, af := v.getLsbD 4, pf := v.getLsbD 2, cf := v.getLsbD 0 }

/-! ### Conditions of the conditional jumps (44 R393) -/

/-- Below or equal: CF = 1 or ZF = 1. -/
def Flags.belowEq (f : Flags) : Bool := f.cf || f.zf

/-- Less: SF and OF differ. -/
def Flags.less (f : Flags) : Bool := f.sf != f.of

/-- Less or equal: ZF = 1 or SF and OF differ. -/
def Flags.lessEq (f : Flags) : Bool := f.zf || f.less

end Machine

end Sys2Proof
end

