-- ==== Sys2Proof/Machine/Ops.lean ====
section
/-! DEFINITION. The named operations over registers, memory, segments, the stack, ports and descriptor tables
(10_state.md, 20_memory.md), task switching (44 R440), TAKING AN EXCEPTION (60 R560-R575) and the return from one
(45 R454-R459). -/

namespace Sys2Proof.Machine

/-! ### Outcomes of an operation -/

/-- Why an operation did not complete. -/
inductive Abort where
  /-- An exception before any effect: the state is the one before the instruction (60 R546, R559). -/
  | exc (e : Exc)
  /-- The same where other masters have written meanwhile: the state is the one before the instruction but for their
  writes (20 R117). -/
  | after (e : Exc) (s : State)
  /-- An exception that leaves the partial state given (60 R559), or one raised after the commit point of a task
  switch, in the new task (44 R444). -/
  | excAt (e : Exc) (s : State)
  /-- An exception of the delivery itself after the commit point of its task switch, with the state of the new task:
  the error code does not fit the new stack (60 R563, R570). -/
  | doubleAt (e : Exc) (s : State)
  /-- The processor shuts down (60 R574). -/
  | shutdown (s : State)
  /-- The model declines (92 D19, D21). -/
  | refuse (r : Refusal)
  deriving DecidableEq, Repr

/-- An operation that answers a value or stops. -/
abbrev Exe (α : Type) := Except Abort α

/-- Stop with an exception where there is one. -/
def check : Option Exc → Exe Unit
  | none => .ok ()
  | some e => .error (.exc e)

/-- Stop with an exception unless a condition holds. -/
def ensure (c : Bool) (e : Exc) : Exe Unit := if c then .ok () else .error (.exc e)

/-- #DE, vector 0 (41 R323). -/
def Exc.de : Exc := { vector := 0, code := none }

/-- BOUND range exceeded, vector 5 (46 R473). -/
def Exc.br : Exc := { vector := 5, code := none }

/-- #UD, vector 6 (60 R545). -/
def Exc.ud : Exc := { vector := 6, code := none }

/-- #NM, vector 7 (60 R545). -/
def Exc.nm : Exc := { vector := 7, code := none }

/-- Real mode: interrupt table limit too small, vector 8 (60 R547). -/
def Exc.tableLimit : Exc := { vector := 8, code := some 0 }

/-- #TS with an error code, vector 10 (60 R549). -/
def Exc.ts (c : Word) : Exc := { vector := 10, code := some c }

/-- #NP with an error code, vector 11 (60 R550). -/
def Exc.np (c : Word) : Exc := { vector := 11, code := some c }

/-- #SS with an error code, vector 12 (60 R551). -/
def Exc.ss (c : Word) : Exc := { vector := 12, code := some c }

/-- #GP with an error code, vector 13; in real mode interrupt 13 without one (60 R552). -/
def Exc.gp (c : Word) : Exc := { vector := 13, code := some c }

/-- #MF, vector 16 (60 R558). -/
def Exc.mf : Exc := { vector := 16, code := none }

/-! ### General registers (10 R20, R21) -/

/-- Replace the low byte of a word register. -/
def setLow (x : Word) (b : Byte) : Word := x.extractLsb' 8 8 ++ b

/-- Replace the high byte of a word register. -/
def setHigh (x : Word) (b : Byte) : Word := b ++ x.extractLsb' 0 8

/-- Read a word register. -/
def Regs.get (g : Regs) : Reg → Word
  | .ax => g.ax
  | .cx => g.cx
  | .dx => g.dx
  | .bx => g.bx
  | .sp => g.sp
  | .bp => g.bp
  | .si => g.si
  | .di => g.di

/-- Write a word register. -/
def Regs.set (g : Regs) (r : Reg) (v : Word) : Regs :=
  match r with
  | .ax => { g with ax := v }
  | .cx => { g with cx := v }
  | .dx => { g with dx := v }
  | .bx => { g with bx := v }
  | .sp => { g with sp := v }
  | .bp => { g with bp := v }
  | .si => { g with si := v }
  | .di => { g with di := v }

/-- Read a byte register: AL CL DL BL AH CH DH BH (10 R21). -/
def Regs.getByte (g : Regs) : Reg → Byte
  | .ax => g.ax.extractLsb' 0 8
  | .cx => g.cx.extractLsb' 0 8
  | .dx => g.dx.extractLsb' 0 8
  | .bx => g.bx.extractLsb' 0 8
  | .sp => g.ax.extractLsb' 8 8
  | .bp => g.cx.extractLsb' 8 8
  | .si => g.dx.extractLsb' 8 8
  | .di => g.bx.extractLsb' 8 8

/-- Write a byte register: only those 8 bits of the word register change (10 R21). -/
def Regs.setByte (g : Regs) (r : Reg) (v : Byte) : Regs :=
  match r with
  | .ax => { g with ax := setLow g.ax v }
  | .cx => { g with cx := setLow g.cx v }
  | .dx => { g with dx := setLow g.dx v }
  | .bx => { g with bx := setLow g.bx v }
  | .sp => { g with ax := setHigh g.ax v }
  | .bp => { g with cx := setHigh g.cx v }
  | .si => { g with dx := setHigh g.dx v }
  | .di => { g with bx := setHigh g.bx v }

/-- Read the register a field names at a width (40 R230, `ReadReg`). -/
def State.reg (s : State) (w : Width) (r : Reg) : Word :=
  match w with
  | .byte => zeroExtend (s.regs.getByte r)
  | .word => s.regs.get r

/-- Write the register a field names at a width (40 R230, `WriteReg`). -/
def State.setReg (s : State) (w : Width) (r : Reg) (v : Word) : State :=
  match w with
  | .byte => { s with regs := s.regs.setByte r (v.extractLsb' 0 8) }
  | .word => { s with regs := s.regs.set r v }

/-- Read a word register. -/
def State.reg16 (s : State) (r : Reg) : Word := s.regs.get r

/-- Write a word register. -/
def State.setReg16 (s : State) (r : Reg) (v : Word) : State := { s with regs := s.regs.set r v }

/-- Write IP. -/
def State.setIp (s : State) (v : Word) : State := { s with ip := v }

/-! ### Modes and privilege -/

/-- PE (10 R40). -/
def State.pe (s : State) : Bool := s.msw.getLsbD 0

/-- MP (10 R41). -/
def State.mp (s : State) : Bool := s.msw.getLsbD 1

/-- EM (10 R41). -/
def State.em (s : State) : Bool := s.msw.getLsbD 2

/-- TS (10 R41). -/
def State.taskSwitched (s : State) : Bool := s.msw.getLsbD 3

/-- Whether this instruction runs under protected-mode rules (10 R40; 70 R610 for the window after LMSW). -/
def State.prot (s : State) : Bool := s.pe && !s.inst.realRules

/-- CPL (10 R47): the low two bits of CS, 0 in real mode and while CS still holds its real-mode cache (20 R106,
70 R606; log 28). -/
def State.cpl (s : State) : Nat := if s.prot && !s.cs.real then s.cs.sel.toNat % 4 else 0

/-- The I/O privilege test (20 R111). -/
def State.ioAllowed (s : State) : Bool := !s.prot || decide (s.cpl ≤ s.flags.iopl.toNat)

/-- The test of the privileged instructions (60 R581). -/
def State.supervisor (s : State) : Bool := !s.prot || decide (s.cpl = 0)

/-! ### Physical memory (20 R80-R82) -/

/-- The byte an address holds, if anything has written it. -/
def Memory.get? : Memory → Nat → Option Byte
  | [], _ => none
  | (a, v) :: m, x => if a = x then some v else if x < a then none else Memory.get? m x

/-- Store a byte, keeping the canonical form. -/
def Memory.set : Memory → Nat → Byte → Memory
  | [], x, v => [(x, v)]
  | (a, u) :: m, x, v =>
    if x < a then (x, v) :: (a, u) :: m else if a = x then (x, v) :: m else (a, u) :: Memory.set m x v

/-- The physical address: 24 bits, then the platform's mask ADDR_MASK (20 R80). -/
def State.physAddr (s : State) (a : Nat) : Nat := (a % 2 ^ 24) &&& s.platform.addrMask.toNat

/-- The byte at a physical address; a byte nothing has written is a free value of its address (log 6). -/
def State.byteAt (s : State) (a : Nat) : Byte :=
  (s.mem.get? (s.physAddr a)).getD (Config.powerOnByte (s.physAddr a))

/-- The word at a physical address, low byte first (20 R81). -/
def State.wordAt (s : State) (a : Nat) : Word := s.byteAt (a + 1) ++ s.byteAt a

/-- The physical address of an offset in a segment under protected-mode or real-mode rules (20 R83, R85, R86). In real
mode a sum above FFFFFH carries into A20 or not, REAL_A20_CARRY; a base of 24 bits (CS after reset) never wraps at 1
megabyte. -/
def Segment.translate (g : Segment) (prot : Bool) (off : Word) : Nat :=
  let sum := g.base.toNat + off.toNat
  if !prot && decide (g.base.toNat < 2 ^ 20) && decide (2 ^ 20 ≤ sum) && !Config.realA20Carry then
    sum % 2 ^ 20
  else sum

/-- The physical address of an offset in a segment under the rules in force. -/
def State.translate (s : State) (g : Segment) (off : Word) : Nat := g.translate s.prot off

/-- Where the bytes after the current instruction begin: IP while it executes; between the steps of an instruction
that goes on, where IP is IP_inst, its length further on (20 R120; log 20). -/
def State.queueStart (s : State) : Word :=
  match s.inst.code with
  | some d => if s.inst.active then s.ip else s.ip + BitVec.ofNat 16 d.length
  | none => s.ip

/-- Whether the instruction queue may hold the byte at physical address `p`: it lies within PREFETCH_WINDOW bytes
after the current instruction (20 R120), behind an LMSW that set PE at the address under either mode's rules (70 R610;
log 21). -/
def State.mayBeQueued (s : State) (p : Nat) : Bool :=
  (List.range Config.prefetchWindow).any fun k =>
    let off := s.queueStart + BitVec.ofNat 16 k
    s.physAddr (s.translate s.cs off) == p ||
      (s.fetch.lmswAt.isSome && s.physAddr (s.cs.translate (!s.prot) off) == p)

/-- The queue after a store at physical address `p`: it may still hold the old byte (20 R120). -/
def State.staleAfter (s : State) (p : Nat) (old : Byte) : FetchState :=
  if s.mayBeQueued p then { s.fetch with stale := s.fetch.stale ++ [(p, old)] } else s.fetch

/-- `MemWrite(addr, 1, v)` (20 R80). -/
def State.putByte (s : State) (a : Nat) (v : Byte) : State :=
  { s with
    mem := s.mem.set (s.physAddr a) v
    writes := (s.physAddr a, v) :: s.writes
    fetch := s.staleAfter (s.physAddr a) (s.byteAt a) }

/-- `MemWrite(addr, 2, v)`: the low byte at the lower address (20 R81). -/
def State.putWord (s : State) (a : Nat) (v : Word) : State :=
  (s.putByte a (v.extractLsb' 0 8)).putByte (a + 1) (v.extractLsb' 8 8)

/-! ### Segments and operand checks (20 R88, R92, R97-R101) -/

/-- Read a segment register (10 R23). -/
def State.seg (s : State) : SReg → Segment
  | .es => s.es
  | .cs => s.cs
  | .ss => s.ss
  | .ds => s.ds

/-- Write a segment register, selector and cache. -/
def State.setSeg (s : State) (r : SReg) (g : Segment) : State :=
  match r with
  | .es => { s with es := g }
  | .cs => { s with cs := g }
  | .ss => { s with ss := g }
  | .ds => { s with ds := g }

/-- E, the executable bit of a rights byte (20 R88). -/
def rightsCode (ar : Byte) : Bool := ar.getLsbD 3

/-- A data segment, or a code segment with R = 1 (20 R88). -/
def rightsReadable (ar : Byte) : Bool := !rightsCode ar || ar.getLsbD 1

/-- A data segment with W = 1 (20 R88). -/
def rightsWritable (ar : Byte) : Bool := !rightsCode ar && ar.getLsbD 1

/-- A conforming code segment (20 R88). -/
def rightsConforming (ar : Byte) : Bool := rightsCode ar && ar.getLsbD 2

/-- An expand-down data segment (20 R88). -/
def rightsExpandDown (ar : Byte) : Bool := !rightsCode ar && ar.getLsbD 2

/-- DPL, bits 6-5 (20 R88). -/
def rightsDpl (ar : Byte) : Nat := (ar.extractLsb' 5 2).toNat

/-- P, bit 7 (20 R88). -/
def rightsPresent (ar : Byte) : Bool := ar.getLsbD 7

/-- S, bit 4: a code or data segment (20 R88). -/
def rightsSegment (ar : Byte) : Bool := ar.getLsbD 4

/-- TYPE, bits 3-0, of a descriptor with S = 0 (20 R89, R90). -/
def rightsType (ar : Byte) : Nat := (ar.extractLsb' 0 4).toNat

/-- Whether n bytes at an offset lie within the limit, the sum taken without wrapping (20 R97, R98). -/
def Segment.inLimit (g : Segment) (off : Word) (n : Nat) : Bool :=
  if rightsExpandDown g.rights then
    decide (g.limit.toNat < off.toNat) && decide (off.toNat + n ≤ 2 ^ 16)
  else decide (off.toNat + n ≤ g.limit.toNat + 1)

/-- The exception of a limit violation through a segment register (20 R97). -/
def limitExc (r : SReg) : Exc :=
  match r with
  | .ss => Exc.ss 0
  | _ => Exc.gp 0

/-- The checks of an access of n bytes, `allowed` being what the rights permit; none when it may go ahead. Real
mode: 20 R84; protected mode: 20 R92, then R99 or R101, then R97 and R98. -/
def State.accessFault (s : State) (r : SReg) (allowed : Bool) (off : Word) (n : Nat) : Option Exc :=
  if s.prot then
    if (s.seg r).valid && allowed then
      if (s.seg r).inLimit off n then none else some (limitExc r)
    else some (Exc.gp 0)
  else if off.toNat + n ≤ 2 ^ 16 then none
  else some (Exc.gp 0)

/-- std-read (00 R13). -/
def State.readFault (s : State) (r : SReg) (off : Word) (n : Nat) : Option Exc :=
  s.accessFault r (rightsReadable (s.seg r).rights) off n

/-- std-write (00 R13). -/
def State.writeFault (s : State) (r : SReg) (off : Word) (n : Nat) : Option Exc :=
  s.accessFault r (rightsWritable (s.seg r).rights) off n

/-- The check of the word k bytes into an operand of several words at `off`: in protected mode the operand does not wrap
at the end of the offsets (30 R185, 92 D8), in real mode each of its words is checked by itself (20 R84). -/
def State.partFault (s : State) (r : SReg) (allowed : Bool) (off : Word) (k : Nat) : Option Exc :=
  if s.prot then s.accessFault r allowed off (k + 2) else s.accessFault r allowed (off + BitVec.ofNat 16 k) 2

/-- std-read of such a word. -/
def State.readPart (s : State) (r : SReg) (off : Word) (k : Nat) : Option Exc :=
  s.partFault r (rightsReadable (s.seg r).rights) off k

/-- std-write of such a word. -/
def State.writePart (s : State) (r : SReg) (off : Word) (k : Nat) : Option Exc :=
  s.partFault r (rightsWritable (s.seg r).rights) off k

/-- The operand at an offset of a segment, no checks: `MemRead(Translate(seg, off), n)` (00 R7; log 10). -/
def State.load (s : State) (w : Width) (g : Segment) (off : Word) : Word :=
  match w with
  | .byte => zeroExtend (s.byteAt (s.translate g off))
  | .word => s.wordAt (s.translate g off)

/-- Store an operand at an offset of a segment, no checks: `MemWrite(Translate(seg, off), n, v)` (00 R7). -/
def State.store (s : State) (w : Width) (g : Segment) (off v : Word) : State :=
  match w with
  | .byte => s.putByte (s.translate g off) (v.extractLsb' 0 8)
  | .word => s.putWord (s.translate g off) v

/-- `ReadMem(seg, off, n)` (00 R7). -/
def State.readMem (s : State) (w : Width) (r : SReg) (off : Word) : Exe Word := do
  check (s.readFault r off w.bytes)
  .ok (s.load w (s.seg r) off)

/-- `WriteMem(seg, off, n, v)` (00 R7). -/
def State.writeMem (s : State) (w : Width) (r : SReg) (off v : Word) : Exe State := do
  check (s.writeFault r off w.bytes)
  .ok (s.store w (s.seg r) off v)

/-! ### Other users of the bus (20 R115, R117, R124, R126) -/

/-- Writes of another bus master, oldest first. -/
def State.applyCells (s : State) (cs : List Host.Cell) : State := cs.foldl (fun t c => t.putByte c.1 c.2) s

/-- Whether LOCK stays active through all memory cycles of an instruction: not for those 47 R494 lists. -/
def keepsLock : Instr → Bool
  | .pushReg _ => false
  | .pushRm _ => false
  | .pushSreg _ => false
  | .pushImm _ => false
  | .pushImm8 _ => false
  | .pusha => false
  | .popa => false
  | .popReg _ => false
  | .popRm _ => false
  | .popEs => false
  | .popSs => false
  | .popDs => false
  | .bound _ _ => false
  | .cmps _ => false
  | .scas _ => false
  | .stos _ => false
  | .lods _ => false
  | .callNear _ => false
  | .callRm _ => false
  | .callFar _ _ => false
  | .callFarMem _ => false
  | .retNear => false
  | .retNearImm _ => false
  | .retFar => false
  | .retFarImm _ => false
  | .iret => false
  | .enter _ _ => false
  | .esc _ _ _ => false
  | _ => true

/-- The bus is locked against other masters by the LOCK prefix of the instruction in progress (10 R55, 20 R115). -/
def State.lockHeld (s : State) : Bool :=
  s.inst.lock &&
    match s.inst.code with
    | some d => keepsLock d.instr
    | none => true

/-- Whether an operand transfer of the extension is within its segment (60 R544). -/
def State.transferFits (s : State) (t : NpxTransfer) : Bool :=
  if s.prot then
    t.seg.valid && decide (t.offset < 2 ^ 16) && t.seg.inLimit (BitVec.ofNat 16 t.offset) 2 &&
      (if t.toMemory then rightsWritable t.seg.rights else rightsReadable t.seg.rights)
  else decide (t.offset + 2 ≤ 2 ^ 16)

/-- The word transfer itself, one word through port 00FAH and one word of memory; `v` is what the extension gives
(20 R124). -/
def State.moveOperand (s : State) (t : NpxTransfer) (v : Word) : State :=
  let off := BitVec.ofNat 16 t.offset
  if t.toMemory then s.store .word t.seg off v else { s with out := .word 0xFA (s.load .word t.seg off) :: s.out }

/-- PEREQ: one operand transfer for the extension; beyond the segment it is not performed and interrupt 9 becomes
pending (20 R124, 60 R544). No further transfer of that ESC is then served: DESIGN CHOICE, the spec says so only of an
overrun during shutdown (log 15). -/
def State.serveExtension (s : State) (v : Word) : State :=
  match s.npx with
  | none => s
  | some t =>
    if s.transferFits t then { s.moveOperand t v with npx := some { t with offset := t.offset + 2 } }
    else { s with npx := none, overrunPending := true }

/-- What other users of the bus do at one place: another master's writes, then an operand transfer (20 R116, R117). -/
def State.grant (s : State) (w : BusSlot) : State :=
  let t := s.applyCells w.writes
  match w.pereq with
  | some v => if t.npxPresent then t.serveExtension v else t
  | none => t

/-- The same at several places. -/
def State.grants (s : State) (ws : List BusSlot) : State := ws.foldl State.grant s

/-- A place between two bus operations of the processor where another master's next writes and an operand transfer of
the extension may fall; it does nothing under LOCK. One stands between any two accesses of an instruction to memory, but
for the automatically locked sequences and the bytes of one word (20 R115, R116, R117 (c), R126; log 42). -/
def State.yieldBus (s : State) : State :=
  if s.lockHeld then s
  else match s.bus with
    | [] => s
    | w :: ws => ({ s with bus := ws } : State).grant w

/-- n such places, one after the other. -/
def State.yields (s : State) : Nat → State
  | 0 => s
  | n + 1 => s.yieldBus.yields n

/-- What an operation comes to where other masters have written before it: an exception leaves their writes in
memory. -/
def keepBus {α : Type} (s : State) (m : Exe α) : Exe α :=
  match m with
  | .error (.exc e) => .error (.after e s)
  | m => m

/-- Go on after n places where other masters' writes may fall. -/
def State.afterReads {α : Type} (s : State) (n : Nat) (f : State → Exe α) : Exe α :=
  keepBus (s.yields n) (f (s.yields n))

/-- Go on after one such place. -/
def State.afterBus {α : Type} (s : State) (f : State → Exe α) : Exe α := s.afterReads 1 f

/-! ### Stack primitives (20 R103) -/

/-- The word at an offset of the stack segment, no checks. -/
def State.stackWord (s : State) (off : Word) : Word := s.load .word s.ss off

/-- Store a word at an offset of the stack segment, no checks. -/
def State.putStack (s : State) (off v : Word) : State := s.store .word s.ss off v

/-- Write SP. -/
def State.setSp (s : State) (v : Word) : State := s.setReg16 .sp v

/-- `Push16(v)` (20 R103). -/
def State.push (s : State) (v : Word) : Exe State := do
  let new := s.regs.sp - 2
  check (s.writeFault .ss new 2)
  .ok ((s.putStack new v).setSp new)

/-- Store words below SP, the first one pushed first, no checks; other masters may write after each (20 R117). -/
def State.pushList (s : State) : List Word → State
  | [] => s
  | v :: vs => ((s.putStack (s.regs.sp - 2) v).setSp (s.regs.sp - 2)).yieldBus.pushList vs

/-- Room for n more words on the stack, checked word by word (20 R103; log 32). -/
def State.pushFault (s : State) : Nat → Word → Option Exc
  | 0, _ => none
  | n + 1, sp =>
    match s.writeFault .ss (sp - 2) 2 with
    | some e => some e
    | none => s.pushFault n (sp - 2)

/-- A stack read of the POP class at offset `off`: in protected mode #SS(0) outside the limit; in real mode at
offset FFFFH the parameter REAL_ODD_SP_WRAP decides between shutdown and interrupt 13 (20 R103, 92 D9; log 11). SP
stays FFFFH where this ends in interrupt 13: DESIGN CHOICE, the spec gives it no value (40 R245, 60 R559; log 11). -/
def State.popCheck (s : State) (off : Word) : Exe Unit :=
  if !s.prot && off == 0xFFFF#16 then
    if Config.oddSpWrapShutdown then .error (.shutdown s) else .error (.exc (Exc.gp 0))
  else check (s.readFault .ss off 2)

/-- The word at the top of the stack, checked; SP is not changed. -/
def State.top (s : State) : Exe Word := do
  s.popCheck s.regs.sp
  .ok (s.stackWord s.regs.sp)

/-- The state after removing n bytes from the stack. -/
def State.dropStack (s : State) (n : Word) : State := s.setSp (s.regs.sp + n)

/-! ### Ports (20 R110) -/

/-- Whether a port access is outside what the spec defines: a word at port FFFFH (92 D21; log 16). -/
def portRefused (w : Width) (port : Word) : Bool := decide (w = .word) && port == 0xFFFF#16

/-- The value `IoRead(port, n)` returns: the environment's, or a free value (20 R110; log 43). -/
def State.portValue (s : State) (w : Width) : Word :=
  w.trunc (match s.pins.portData with
    | some v => v
    | none => s.freeWord 0)

/-- `IoRead(port, n)`: the value, and the state with one draw used up. -/
def State.portIn (s : State) (w : Width) (port : Word) : Exe (Word × State) :=
  if portRefused w port then .error (.refuse .wordPortWrap) else .ok (s.portValue w, s.tick 1)

/-- The port writes one OUT makes, newest first: a word at an odd port is two byte operations, low byte first
(92 D21). -/
def portWrites (w : Width) (port v : Word) : List Output :=
  match w with
  | .byte => [.byte port.toNat (v.extractLsb' 0 8)]
  | .word =>
    if port.getLsbD 0 then
      [.byte (port.toNat + 1) (v.extractLsb' 8 8), .byte port.toNat (v.extractLsb' 0 8)]
    else [.word port.toNat v]

/-- `IoWrite(port, n, v)`: the write is an output of the machine (20 R110). -/
def State.portOut (s : State) (w : Width) (port v : Word) : Exe State :=
  if portRefused w port then .error (.refuse .wordPortWrap)
  else .ok { s with out := portWrites w port v ++ s.out }

/-! ### Selectors and descriptors (20 R87-R96) -/

/-- A descriptor as read from its table (20 R95). -/
structure Desc where
  /-- LIMIT of a segment, DESTINATION OFFSET of a gate. -/
  word0 : Word
  /-- BASE 15-0 of a segment, DESTINATION SELECTOR of a gate. -/
  word1 : Word
  /-- BASE 23-16 of a segment, WORD COUNT of a gate. -/
  high : Byte
  ar : Byte
  /-- Where the descriptor lies. -/
  addr : Nat
  deriving DecidableEq, Repr

/-- The 24-bit base of a segment descriptor (20 R87). -/
def Desc.base (d : Desc) : Base24 := d.high ++ d.word1

/-- A null selector, 0000H to 0003H (20 R92). -/
def selNull (sel : Word) : Bool := sel &&& 0xFFFC#16 == 0

/-- TI: the selector names the LDT (20 R91). -/
def selLocal (sel : Word) : Bool := sel.getLsbD 2

/-- RPL (20 R91). -/
def selRpl (sel : Word) : Nat := sel.toNat % 4

/-- The byte offset of the descriptor in its table (20 R91). -/
def selOffset (sel : Word) : Nat := sel.toNat / 8 * 8

/-- The selector with its RPL replaced (44 R410). -/
def selWithRpl (sel : Word) (level : Nat) : Word := (sel &&& 0xFFFC#16) ||| BitVec.ofNat 16 (level % 4)

/-- The error code of a selector: RPL bits replaced by EXT (60 R548). -/
def selCode (sel : Word) (ext : Bool) : Word := (sel &&& 0xFFFC#16) ||| (if ext then 1 else 0)

/-- The error code 0 with EXT (60 R548). -/
def extCode (ext : Bool) : Word := if ext then 1 else 0

/-- The table a selector names: base and limit, none for the LDT while LDTR is invalid (20 R95). -/
def State.tableOf (s : State) (sel : Word) : Option TableReg :=
  if selLocal sel then
    if s.ldtr.valid then some { base := s.ldtr.base, limit := s.ldtr.limit } else none
  else some s.gdtr

/-- The address of the descriptor a selector names, none outside its table's limit (20 R93, R95). -/
def State.descAddr (s : State) (sel : Word) : Option Nat :=
  match s.tableOf sel with
  | none => none
  | some t => if selOffset sel + 7 ≤ t.limit.toNat then some (t.base.toNat + selOffset sel) else none

/-- The descriptor at an address. -/
def State.descAt (s : State) (a : Nat) : Desc :=
  { word0 := s.wordAt a, word1 := s.wordAt (a + 2), high := s.byteAt (a + 4), ar := s.byteAt (a + 5), addr := a }

/-- `FetchDescriptor(sel)`; none is OutOfLimits (20 R95). -/
def State.fetchDesc (s : State) (sel : Word) : Option Desc := (s.descAddr sel).map s.descAt

/-- The segment register that loading a descriptor gives: the cache with A set (20 R96). -/
def Desc.toSegment (d : Desc) (sel : Word) : Segment :=
  { sel := sel, rights := d.ar ||| 1, base := d.base, limit := d.word0, valid := true, real := false }

/-- Set the accessed bit of a descriptor in memory: a locked read-modify-write, which reads the byte anew and so keeps
what another master has written there since the descriptor was read (20 R96, R115 (d); 93 U33; log 42). -/
def State.markAccessed (s : State) (d : Desc) : State := s.putByte (d.addr + 5) (s.byteAt (d.addr + 5) ||| 1)

/-- Load a segment register from a checked descriptor (20 R96). Where nothing stands between the read of the descriptor
and this (DS, ES, SS, far JMP, entry to a task), the two are one locked sequence: DESIGN CHOICE, 20 R115 (d) can be read
as two (log 42). -/
def State.loadSeg (s : State) (r : SReg) (d : Desc) (sel : Word) : State :=
  (s.setSeg r (d.toSegment sel)).markAccessed d

/-- A segment register holding a selector without a valid cache (20 R92, 44 R444). -/
def Segment.invalid (sel : Word) : Segment :=
  { sel := sel, rights := 0, base := 0, limit := 0, valid := false, real := false }

/-- A segment register after a real-mode load (20 R106): base `v * 16`, limit FFFFH, every access allowed. -/
def Segment.ofReal (v : Word) : Segment :=
  { sel := v, rights := 0x93#8, base := 0#4 ++ v ++ 0#4, limit := 0xFFFF#16, valid := true, real := true }

/-- Why a selector may not be loaded: its descriptor is wrong, or right but not present. -/
inductive SelError where
  | bad
  | absent
  deriving DecidableEq, Repr

/-- The descriptor of a selector if it passes a test, presence tested last (the order of every listing). -/
def State.testSel (s : State) (sel : Word) (test : Desc → Bool) : Except SelError Desc :=
  if selNull sel then .error .bad
  else match s.fetchDesc sel with
    | none => .error .bad
    | some d =>
      if test d then if rightsPresent d.ar then .ok d else .error .absent
      else .error .bad

/-- A data or readable code segment, at a level that may read it (20 R104). -/
def dataTest (cpl : Nat) (sel : Word) (d : Desc) : Bool :=
  rightsSegment d.ar && rightsReadable d.ar &&
    (rightsConforming d.ar || (decide (selRpl sel ≤ rightsDpl d.ar) && decide (cpl ≤ rightsDpl d.ar)))

/-- A writable data segment of a level, RPL equal to it (20 R105, 44 R421, 60 R560). -/
def stackTest (level : Nat) (sel : Word) (d : Desc) : Bool :=
  decide (selRpl sel = level) && rightsSegment d.ar && rightsWritable d.ar && decide (rightsDpl d.ar = level)

/-- A code segment that runs at a level: non-conforming with DPL equal, conforming with DPL at most (44 R420,
R421, R440, 45 R456, R457). -/
def codeTest (level : Nat) (d : Desc) : Bool :=
  rightsSegment d.ar && rightsCode d.ar &&
    (if rightsConforming d.ar then decide (rightsDpl d.ar ≤ level) else decide (rightsDpl d.ar = level))

/-- Turn the two ways a selector can fail into the exceptions of a listing. -/
def orExc {α : Type} (m : Except SelError α) (bad absent : Exc) : Exe α :=
  match m with
  | .ok a => .ok a
  | .error .bad => .error (.exc bad)
  | .error .absent => .error (.exc absent)

/-! ### Loading DS, ES and SS (20 R104-R106) -/

/-- `LoadDataSeg(r, sel)` (20 R104): a null selector loads without exception and marks the cache invalid. -/
def State.loadDataSeg (s : State) (r : SReg) (sel : Word) : Exe State :=
  if selNull sel then .ok (s.setSeg r { s.seg r with sel := sel, valid := false, real := false })
  else do
    let d ← orExc (s.testSel sel (dataTest s.cpl sel)) (Exc.gp (selCode sel false)) (Exc.np (selCode sel false))
    .ok (s.loadSeg r d sel)

/-- `LoadSS(sel)` (20 R105). -/
def State.loadSS (s : State) (sel : Word) : Exe State :=
  if selNull sel then .error (.exc (Exc.gp 0))
  else do
    let d ← orExc (s.testSel sel (stackTest s.cpl sel)) (Exc.gp (selCode sel false)) (Exc.ss (selCode sel false))
    .ok (s.loadSeg .ss d sel)

/-- A segment register load by MOV, POP, LDS or LES in either mode (40 R234, 20 R106); another master may write
between the read of the selector and that of the descriptor (20 R117). -/
def State.loadSReg (s : State) (r : SReg) (sel : Word) : Exe State :=
  if s.prot then s.afterBus fun s =>
    match r with
    | .ss => s.loadSS sel
    | r => s.loadDataSeg r sel
  else .ok (s.setSeg r (Segment.ofReal sel))

/-! ### Loading CS -/

/-- Whether an offset lies within a code segment's limit (44 R392). -/
def Desc.hasOffset (d : Desc) (off : Word) : Bool := decide (off.toNat ≤ d.word0.toNat)

/-- A taken transfer empties the instruction queue (20 R120). -/
def State.jumpTo (s : State) (off : Word) : State := { s with ip := off, fetch := FetchState.empty }

/-- Load CS from a checked descriptor, its RPL replaced by the level it runs at, and jump (20 R107). -/
def State.enterCode (s : State) (d : Desc) (sel : Word) (level : Nat) (off : Word) : State :=
  (s.loadSeg .cs d (selWithRpl sel level)).jumpTo off

/-- A real-mode far transfer (44 R403). -/
def State.enterReal (s : State) (sel off : Word) : State := (s.setSeg .cs (Segment.ofReal sel)).jumpTo off

/-- The near-transfer target check: IP within the limit of the current code segment; it cannot fail in real mode
(44 R392). -/
def State.nearFault (s : State) (off : Word) : Option Exc :=
  if s.prot && !decide (off.toNat ≤ s.cs.limit.toNat) then some (Exc.gp 0) else none

/-! ### Task switching (44 R440-R444) -/

/-- Which kind of transfer switches tasks (44 R441). -/
inductive SwitchKind where
  | jump
  | nest
  | iret
  deriving DecidableEq, Repr

/-- Set MSW.TS (10 R41). -/
def State.setTaskSwitched (s : State) (b : Bool) : State :=
  { s with msw := (s.msw &&& 0xFFF7#16) ||| (if b then 8 else 0) }

/-- Store the outgoing task's state into the current TSS: step 2 (44 R440, 20 R114); other masters may write after each
word (20 R117). -/
def State.saveTask (s : State) (ret flags : Word) : State :=
  let b := s.tr.base.toNat
  ([(14, ret), (16, flags), (18, s.regs.ax), (20, s.regs.cx), (22, s.regs.dx), (24, s.regs.bx), (26, s.regs.sp),
    (28, s.regs.bp), (30, s.regs.si), (32, s.regs.di), (34, s.es.sel), (36, s.cs.sel), (38, s.ss.sel),
    (40, s.ds.sel)] : List (Nat × Word)).foldl (fun t x => (t.putWord (b + x.1) x.2).yieldBus) s

/-- Change the busy bit of the TSS descriptor a selector names in the GDT: steps 3 and 4 (44 R441). -/
def State.setBusy (s : State) (sel : Word) (busy : Bool) : State :=
  let a := s.gdtr.base.toNat + selOffset sel + 5
  s.putByte a (if busy then s.byteAt a ||| 0x02#8 else s.byteAt a &&& 0xFD#8)

/-- Load registers, IP, FLAGS and raw selectors from the TSS of TR: step 6 (44 R440). Other masters may write between
its words (20 R117). -/
def State.loadTask (s : State) (nest : Bool) : State :=
  let f := fun k => (s.yields (k / 2 - 7)).wordAt (s.tr.base.toNat + k)
  { s.yields 14 with
    ip := f 14
    flags := { Flags.ofImage (f 16) with nt := (Flags.ofImage (f 16)).nt || nest }
    regs :=
      { ax := f 18, cx := f 20, dx := f 22, bx := f 24, sp := f 26, bp := f 28, si := f 30, di := f 32 }
    es := Segment.invalid (f 34)
    cs := Segment.invalid (f 36)
    ss := Segment.invalid (f 38)
    ds := Segment.invalid (f 40)
    ldtr := { sel := f 42, base := 0, limit := 0, valid := false }
    fetch := FetchState.empty
    inst := { s.inst with ipInst := f 14 } }

/-- Turn a failure of the incoming task's selectors into an exception of the new task (44 R444). -/
def orExcAt {α : Type} (s : State) (m : Except SelError α) (bad absent : Exc) : Exe α :=
  match m with
  | .ok a => .ok a
  | .error .bad => .error (.excAt bad s)
  | .error .absent => .error (.excAt absent s)

/-- An LDT descriptor of the GDT (48 R516). -/
def ldtTest (sel : Word) (d : Desc) : Bool := !selLocal sel && !rightsSegment d.ar && decide (rightsType d.ar = 2)

/-- The incoming task's LDT: step 7 (44 R440). -/
def State.enterLdt (s : State) (ext : Bool) : Exe State :=
  let sel := s.ldtr.sel
  if selNull sel then .ok s
  else do
    let d ← orExcAt s (s.testSel sel (ldtTest sel)) (Exc.ts (selCode sel ext)) (Exc.ts (selCode sel ext))
    .ok { s with ldtr := { sel := sel, base := d.base, limit := d.word0, valid := true } }

/-- The incoming task's CS: step 7; the new CPL is the selector's RPL (44 R443). -/
def State.enterTaskCs (s : State) (ext : Bool) : Exe State := do
  let sel := s.cs.sel
  let d ← orExcAt s (s.testSel sel (codeTest (selRpl sel))) (Exc.ts (selCode sel ext)) (Exc.np (selCode sel ext))
  .ok (s.loadSeg .cs d sel)

/-- The incoming task's SS: step 7. -/
def State.enterTaskSs (s : State) (ext : Bool) : Exe State := do
  let sel := s.ss.sel
  let d ← orExcAt s (s.testSel sel (stackTest s.cpl sel)) (Exc.ts (selCode sel ext)) (Exc.ss (selCode sel ext))
  .ok (s.loadSeg .ss d sel)

/-- The incoming task's DS or ES: step 7; null is allowed. -/
def State.enterTaskData (s : State) (r : SReg) (ext : Bool) : Exe State :=
  let sel := (s.seg r).sel
  if selNull sel then .ok s
  else do
    let d ← orExcAt s (s.testSel sel (dataTest s.cpl sel)) (Exc.ts (selCode sel ext)) (Exc.np (selCode sel ext))
    .ok (s.loadSeg r d sel)

/-- The limit test of step 8, in the new task (44 R440, R444); the queue is discarded (44 R442). -/
def State.taskIpCheck (s : State) (ext : Bool) : Exe State :=
  if s.ip.toNat ≤ s.cs.limit.toNat then .ok (s.jumpTo s.ip) else .error (.excAt (Exc.gp (extCode ext)) s)

/-- The commit of a switch: steps 2 to 6 (44 R440). Other masters may write between the updates (20 R117). -/
def State.commitSwitch (s : State) (kind : SwitchKind) (sel : Word) (d : Desc) (ret : Word) : State :=
  let image := ({ s.flags with nt := s.flags.nt && decide (kind ≠ .iret) } : Flags).image s.platform.flagReserved
  let old := s.tr.sel
  let s₁ := s.yieldBus.saveTask ret image
  let s₂ := if kind = .nest then s₁ else (s₁.setBusy old false).yieldBus
  let s₃ := if kind = .iret then s₂ else (s₂.setBusy sel true).yieldBus
  let s₄ := { s₃ with tr := { sel := sel, base := d.base, limit := d.word0 } }.setTaskSwitched true
  let s₅ := if kind = .nest then s₄.putWord d.base.toNat old else s₄
  s₅.yieldBus.loadTask (decide (kind = .nest))

/-- The checks of step 7, in their order (44 R440). -/
def State.enterTask (s : State) (ext : Bool) : Exe State := do
  let s ← s.yieldBus.enterLdt ext
  let s ← s.yieldBus.enterTaskCs ext
  let s ← s.yieldBus.enterTaskSs ext
  let s ← s.yieldBus.enterTaskData .ds ext
  s.yieldBus.enterTaskData .es ext

/-- SWITCH_TASKS (44 R440), steps 1 to 7. The old TSS must hold the fields that are saved (20 R114; log 25). -/
def State.switchTasks (s : State) (kind : SwitchKind) (sel : Word) (d : Desc) (ret : Word) (ext : Bool) :
    Exe State := do
  ensure (decide (0x2B ≤ d.word0.toNat)) (Exc.ts (selCode sel ext))
  ensure (decide (41 ≤ s.tr.limit.toNat)) (Exc.ts (selCode s.tr.sel ext))
  (s.commitSwitch kind sel d ret).enterTask ext

/-- A TSS descriptor of the GDT: available (type 1) or busy (type 3) (20 R89). -/
def tssTest (busy : Bool) (sel : Word) (d : Desc) : Bool :=
  !selLocal sel && !rightsSegment d.ar && decide (rightsType d.ar = if busy then 3 else 1)

/-! ### Delivery of interrupts and exceptions (60 R560-R563) -/

/-- What is delivered: the vector, the error code pushed in protected mode, EXT, whether an INT instruction is the
source, and whether it is the NMI (60 R560, R554). -/
structure Event where
  vector : Byte
  code : Option Word
  ext : Bool
  soft : Bool
  nmi : Bool
  deriving DecidableEq, Repr

/-- An exception as an event: EXT is 1 for vector 16 only (60 R548, R558). -/
def Exc.event (e : Exc) : Event :=
  { vector := e.vector, code := e.code, ext := e.vector == 16, soft := false, nmi := false }

/-- INT n, INT 3 and INTO as events (45 R451). -/
def Event.software (v : Byte) : Event := { vector := v, code := none, ext := false, soft := true, nmi := false }

/-- The error code of a failing IDT entry: vector * 8 + 2 + EXT (60 R548). -/
def Event.idtCode (ev : Event) : Word := zeroExtend ev.vector * 8 + 2 + extCode ev.ext

/-- Enter shutdown (60 R574): no single-step trap is pending, for the instruction was neither completed nor its
exception delivered (60 R555). -/
def State.shutDown (s : State) : State := { s with run := .shutdown, stepTrap := false }

/-- The flags of entry without a task switch (60 R562). -/
def Flags.enter (f : Flags) (clearIf clearNt : Bool) : Flags :=
  { f with tf := false, ifl := f.ifl && !clearIf, nt := f.nt && !clearNt }

/-- Whether three pushes meet offset FFFFH: an odd SP of at most 5 (20 R103). -/
def State.realPushWraps (s : State) : Bool :=
  s.regs.sp - 2 == 0xFFFF#16 || s.regs.sp - 4 == 0xFFFF#16 || s.regs.sp - 6 == 0xFFFF#16

/-- Real-mode delivery (60 R561): beyond the table's limit vectors 8 and 13 shut down and others raise interrupt
8; a push that meets offset FFFFH ends in shutdown (60 R571). -/
def State.deliverReal (s : State) (ev : Event) (ra : Word) : Exe State :=
  let v := ev.vector.toNat
  if s.idtr.limit.toNat < 4 * v + 3 then
    if v = 8 ∨ v = 13 then .error (.shutdown s) else .error (.exc Exc.tableLimit)
  else if s.realPushWraps then .error (.shutdown s)
  else
    let t := (s.pushList [s.flagImage, s.cs.sel, ra]).setFlags (s.flags.enter true false)
    let u := t.yieldBus
    .ok (u.enterReal (u.wordAt (u.idtr.base.toNat + 4 * v + 2)) (t.wordAt (t.idtr.base.toNat + 4 * v)))

/-- The error code as the words pushed last. -/
def Event.codeWords (ev : Event) : List Word :=
  match ev.code with
  | some c => [c]
  | none => []

/-- Room for n words below an offset of a stack segment that SS does not hold yet, word by word (60 R560). -/
def Segment.roomFor (g : Segment) : Nat → Word → Bool
  | 0, _ => true
  | n + 1, sp => g.inLimit (sp - 2) 2 && g.roomFor n (sp - 2)

/-- The SS and SP a TSS holds for an inner level, with the limit test of the TSS (20 R114; log 25), for what follows;
other masters may write between the descriptor read before, the two words and what follows (20 R117). -/
def State.innerStack {α : Type} (s : State) (level : Nat) (ext : Bool) (f : Word → Word → State → Exe α) : Exe α := do
  ensure (decide (4 * level + 5 ≤ s.tr.limit.toNat)) (Exc.ts (selCode s.tr.sel ext))
  let sp := (s.yields 1).wordAt (s.tr.base.toNat + 4 * level + 2)
  let ss := (s.yields 2).wordAt (s.tr.base.toNat + 4 * level + 4)
  s.afterReads 3 (f ss sp)

/-- The checks of the new stack of a transfer to an inner level (60 R560, 44 R418). -/
def State.innerStackDesc (s : State) (level : Nat) (sel : Word) (ext : Bool) : Exe Desc := do
  ensure (!selNull sel) (Exc.gp (extCode ext))
  orExc (s.testSel sel (stackTest level sel)) (Exc.ts (selCode sel ext)) (Exc.ss (selCode sel ext))

/-- Interrupt to inner privilege (60 R560). -/
def State.deliverInner (s : State) (ev : Event) (ra : Word) (gate code : Desc) (sel : Word) (clearIf : Bool) :
    Exe State :=
  let level := rightsDpl code.ar
  s.innerStack level ev.ext fun ssSel sp s => do
  let d ← s.innerStackDesc level ssSel ev.ext
  ensure ((d.toSegment ssSel).roomFor (5 + ev.codeWords.length) sp) (Exc.ss (extCode ev.ext))
  ensure (code.hasOffset gate.word0) (Exc.gp (extCode ev.ext))
  let t := (((s.yieldBus.loadSeg .cs code (selWithRpl sel level)).yieldBus.loadSeg .ss d ssSel).setSp sp).yieldBus
  let t := t.pushList ([s.ss.sel, s.regs.sp, s.flagImage, s.cs.sel, ra] ++ ev.codeWords)
  .ok ((t.setFlags (s.flags.enter clearIf true)).jumpTo gate.word0)

/-- Interrupt to the same privilege level: flags, CS and return address are pushed, then CS is loaded, which sets the
accessed bit, then the error code is pushed (60 R560, 20 R117 (d)). -/
def State.deliverSame (s : State) (ev : Event) (ra : Word) (gate code : Desc) (sel : Word) (clearIf : Bool) :
    Exe State := do
  check ((s.pushFault (3 + ev.codeWords.length) s.regs.sp).map fun _ => Exc.ss (extCode ev.ext))
  ensure (code.hasOffset gate.word0) (Exc.gp (extCode ev.ext))
  let t := s.yieldBus.pushList [s.flagImage, s.cs.sel, ra]
  let t := (t.loadSeg .cs code (selWithRpl sel s.cpl)).yieldBus.pushList ev.codeWords
  .ok ((t.setFlags (s.flags.enter clearIf true)).jumpTo gate.word0)

/-- Delivery through an interrupt or trap gate (60 R560). -/
def State.deliverGate (s : State) (ev : Event) (ra : Word) (gate : Desc) (clearIf : Bool) : Exe State :=
  s.afterBus fun s => do
  let sel := gate.word1
  ensure (!selNull sel) (Exc.gp (extCode ev.ext))
  let code ← orExc (s.testSel sel fun d => rightsSegment d.ar && rightsCode d.ar)
    (Exc.gp (selCode sel ev.ext)) (Exc.np (selCode sel ev.ext))
  if !rightsConforming code.ar && decide (rightsDpl code.ar < s.cpl) then
    s.deliverInner ev ra gate code sel clearIf
  else if rightsConforming code.ar || decide (rightsDpl code.ar = s.cpl) then
    s.deliverSame ev ra gate code sel clearIf
  else .error (.exc (Exc.gp (selCode sel ev.ext)))

/-- The error code pushed in the new task after a task switch; no room for it is an exception of the delivery, met in
the new task (60 R563, R570; log 26). -/
def State.pushTaskCode (s : State) (ev : Event) : Exe State :=
  match ev.code with
  | none => .ok s
  | some c =>
    match s.writeFault .ss (s.regs.sp - 2) 2 with
    | some _ => .error (.doubleAt (Exc.ss (extCode ev.ext)) s)
    | none => .ok (s.yieldBus.pushList [c])

/-- Delivery through a task gate (60 R563). -/
def State.deliverTask (s : State) (ev : Event) (ra : Word) (gate : Desc) : Exe State :=
  s.afterBus fun s => do
  let sel := gate.word1
  let d ← orExc (s.testSel sel (tssTest false sel)) (Exc.gp (selCode sel ev.ext)) (Exc.np (selCode sel ev.ext))
  let t ← s.switchTasks .nest sel d ra ev.ext
  let t ← t.pushTaskCode ev
  t.taskIpCheck ev.ext

/-- Protected-mode delivery (60 R560). -/
def State.deliverProt (s : State) (ev : Event) (ra : Word) : Exe State := do
  let v := ev.vector.toNat
  ensure (decide (8 * v + 7 ≤ s.idtr.limit.toNat)) (Exc.gp ev.idtCode)
  let gate := s.descAt (s.idtr.base.toNat + 8 * v)
  let ty := rightsType gate.ar
  ensure (!rightsSegment gate.ar && (ty == 5 || ty == 6 || ty == 7)) (Exc.gp ev.idtCode)
  ensure (!ev.soft || decide (s.cpl ≤ rightsDpl gate.ar)) (Exc.gp ev.idtCode)
  ensure (rightsPresent gate.ar) (Exc.np ev.idtCode)
  if ty == 5 then s.deliverTask ev ra gate
  else s.deliverGate ev ra gate (ty == 6 || ev.nmi)

/-- `Deliver` in either mode (60 R560, R561). -/
def State.deliver (s : State) (ev : Event) (ra : Word) : Exe State :=
  if s.prot then s.deliverProt ev ra else s.deliverReal ev ra

/-- The event that follows a failed delivery: the double exception, vector 8 with code 0 (60 R570); in real mode
interrupt 8 (60 R547). It is no NMI: that a trap gate of vector 8 leaves IF as it is after a failed NMI delivery is a
DESIGN CHOICE, the spec is silent (60 R554, R570; log 46). -/
def Event.double (ev : Event) : Event :=
  { vector := 8, code := some 0, ext := ev.ext, soft := false, nmi := false }

/-- The answer of every step. -/
abbrev Answer := Host.Outcome State Fault Refusal

/-- The remaining items of the instruction do not run once an exception has been taken (log 18). -/
def State.taken (s : State) : State := { s with inst := { s.inst with active := false } }

/-- An exception of the new task met while another event is delivered through its task gate: the event has been
delivered, and the exception waits for the next boundary, which delivers it first, in the new task (44 R444;
log 26). -/
def State.leavePending (s : State) (e : Exc) : State := { s with pendingExc := some e }

/-- The double exception: deliver vector 8; whatever keeps that from completing shuts the processor down (60 R570,
R574). -/
def raiseDouble (ev : Event) (ra : Word) (s : State) : Answer :=
  let s := s.yieldBus
  match s.deliver ev.double ra with
  | .ok t => .next t.taken
  | .error (.refuse r) => .refused r
  | .error (.exc _) => .next s.shutDown.taken
  | .error (.after _ t) => .next t.shutDown.taken
  | .error (.excAt _ t) => .next t.shutDown.taken
  | .error (.doubleAt _ t) => .next t.shutDown.taken
  | .error (.shutdown t) => .next t.shutDown.taken

/-- TAKING AN EXCEPTION: deliver it with return address `ra`; an exception of the delivery brings vector 8 instead
(60 R570), one of a new task is left to that task (44 R444). The vector 8 that an error code without room on a new
task's stack brings saves the new task's CS:IP: DESIGN CHOICE, the old task and the CS:IP of its failing instruction
stand in its task state segment by then (60 R563, R570; log 26). -/
def raise (ev : Event) (ra : Word) (s : State) : Answer :=
  let s := s.yieldBus
  match s.deliver ev ra with
  | .ok t => .next t.taken
  | .error (.refuse r) => .refused r
  | .error (.exc _) => raiseDouble ev ra s
  | .error (.after _ t) => raiseDouble ev ra t
  | .error (.doubleAt _ t) => raiseDouble ev t.ip t
  | .error (.excAt e t) => .next (t.leavePending e).taken
  | .error (.shutdown t) => .next t.shutDown.taken

/-- The LOCK prefix of an instruction that an exception ends locks no more bus cycles (47 R494). -/
def State.unlocked (s : State) : State := { s with inst := { s.inst with lock := false } }

/-- The answer of an instruction: its state, or the exception taken with the saved IP at the instruction, its
prefixes included (60 R546). -/
def complete (s : State) (m : Exe State) : Answer :=
  match m with
  | .ok t => .next t
  | .error (.exc e) => raise e.event s.inst.ipInst s.unlocked
  | .error (.after e t) => raise e.event t.inst.ipInst t.unlocked
  | .error (.excAt e t) => raise e.event t.inst.ipInst t.unlocked
  | .error (.doubleAt e t) => raise e.event t.inst.ipInst t.unlocked
  | .error (.shutdown t) => .next t.shutDown.taken
  | .error (.refuse r) => .refused r

/-! ### Returning: IRET (45 R454-R459) -/

/-- n bytes from SP on lie within the stack segment, without wrapping (45 R456, R457; log 32). -/
def State.stackHolds (s : State) (n : Nat) : Bool := (s.readFault .ss s.regs.sp n).isNone

/-- The IRET ends the masking that an NMI began (60 R554). -/
def State.endNmi (s : State) : State := { s with nmiInService := false }

/-- IRET in real mode (45 R454): the three words are checked before anything is loaded. -/
def State.iretReal (s : State) : Exe State := do
  let sp := s.regs.sp
  s.popCheck sp
  s.popCheck (sp + 2)
  s.popCheck (sp + 4)
  let f := s.flags.pop s.prot s.cpl ((s.yields 2).stackWord (sp + 4))
  let t := ((s.yields 2).dropStack 6).setFlags f
  .ok ((t.enterReal ((s.yields 1).stackWord (sp + 2)) (s.stackWord sp)).endNmi)

/-- Whether DS or ES may stay loaded on a return to an outer level (44 R422, 92 D48): the cached descriptor is a
data or readable code segment the outer level may read. -/
def State.keepsData (s : State) (g : Segment) (level : Nat) : Bool :=
  g.valid && (s.descAddr g.sel).isSome && rightsSegment g.rights && rightsReadable g.rights &&
    (rightsConforming g.rights ||
      (decide (level ≤ rightsDpl g.rights) && decide (selRpl g.sel ≤ rightsDpl g.rights)))

/-- Null DS or ES unless the outer level may use it (44 R422). -/
def State.trimData (s : State) (r : SReg) (level : Nat) : State :=
  if s.keepsData (s.seg r) level then s else s.setSeg r (Segment.invalid 0)

/-- The end of a return to an outer level: CS:IP, SS:SP, then ES and DS (44 R421, 45 R457). -/
def State.returnOuter (s : State) (code : Desc) (csSel ip : Word) (stack : Desc) (ssSel sp : Word) : State :=
  let level := selRpl csSel
  let t := ((s.yieldBus.loadSeg .cs code (selWithRpl csSel level)).yieldBus.loadSeg .ss stack ssSel).setSp sp
  ((t.trimData .es level).trimData .ds level).jumpTo ip

/-- The code segment a RET or IRET returns to, at the level of its selector's RPL (44 R420, R421). -/
def State.returnCode (s : State) (sel : Word) : Exe Desc := do
  ensure (!selNull sel) (Exc.gp 0)
  orExc (s.testSel sel (codeTest (selRpl sel))) (Exc.gp (selCode sel false)) (Exc.np (selCode sel false))

/-- The stack segment of a return to an outer level; not present is #NP here (44 R421, 45 R457, 60 R550). -/
def State.returnStack (s : State) (level : Nat) (sel : Word) : Exe Desc := do
  ensure (!selNull sel) (Exc.gp 0)
  orExc (s.testSel sel (stackTest level sel)) (Exc.gp (selCode sel false)) (Exc.np (selCode sel false))

/-- The stack segment a return to an outer level names at an offset of the old stack, for what follows; other masters
may write before and after its descriptor is read (20 R117). -/
def State.outerStack {α : Type} (s : State) (csSel off : Word) (f : Desc → Word → State → Exe α) : Exe α :=
  let ssSel := s.stackWord off
  s.afterBus fun s => do
    let stack ← s.returnStack (selRpl csSel) ssSel
    s.afterBus (f stack ssSel)

/-- IRET to the same level (45 R456); the selector has been read. -/
def State.iretSame (s : State) (sel : Word) : Exe State := do
  ensure (s.stackHolds 6) (Exc.ss 0)
  let sp := s.regs.sp
  let d ← s.returnCode sel
  s.afterBus fun s => do
    let ip := s.stackWord sp
    ensure (d.hasOffset ip) (Exc.gp 0)
    let s := s.yieldBus
    let t := (s.dropStack 6).setFlags (s.flags.pop s.prot s.cpl (s.stackWord (sp + 4)))
    .ok ((t.yieldBus.enterCode d sel s.cpl ip).endNmi)

/-- IRET to an outer level (45 R457); the selector has been read. -/
def State.iretOuter (s : State) (csSel : Word) : Exe State := do
  ensure (s.stackHolds 10) (Exc.ss 0)
  let code ← s.returnCode csSel
  s.afterBus fun s => do
    let sp := s.regs.sp
    s.outerStack csSel (sp + 8) fun stack ssSel s => do
      let ip := s.stackWord sp
      ensure (code.hasOffset ip) (Exc.gp 0)
      let f := s.flags.pop s.prot s.cpl ((s.yields 1).stackWord (sp + 4))
      let s := s.yields 2
      .ok (((s.setFlags f).returnOuter code csSel ip stack ssSel (s.stackWord (sp + 6))).endNmi)

/-- IRET with NT = 1: back to the task of the back link (45 R458). -/
def State.iretTask (s : State) : Exe State := do
  ensure (decide (1 ≤ s.tr.limit.toNat)) (Exc.ts (selCode s.tr.sel false))
  let sel := s.wordAt s.tr.base.toNat
  s.afterBus fun s => do
    let d ← orExc (s.testSel sel (tssTest true sel)) (Exc.ts (selCode sel false)) (Exc.np (selCode sel false))
    let t ← s.endNmi.switchTasks .iret sel d s.ip false
    t.taskIpCheck false

/-- IRET in protected mode (45 R455). -/
def State.iretProt (s : State) : Exe State :=
  if s.flags.nt then s.iretTask
  else do
    check (s.readFault .ss (s.regs.sp + 2) 2)
    let sel := s.stackWord (s.regs.sp + 2)
    ensure (decide (s.cpl ≤ selRpl sel)) (Exc.gp (selCode sel false))
    s.afterBus fun s => if selRpl sel = s.cpl then s.iretSame sel else s.iretOuter sel

end Sys2Proof.Machine
end

