-- ==== Sys2Proof/Machine/Operands.lean ====
section
/-! DEFINITION. The operand forms: effective addresses, the r/m operand, immediates, far pointers (30 R184-R189,
40 R230). -/

namespace Sys2Proof.Machine

/-- The sum of the registers an r/m code names (30 R185). -/
def State.baseSum (s : State) : Base → Word
  | .bxSi => s.regs.bx + s.regs.si
  | .bxDi => s.regs.bx + s.regs.di
  | .bpSi => s.regs.bp + s.regs.si
  | .bpDi => s.regs.bp + s.regs.di
  | .si => s.regs.si
  | .di => s.regs.di
  | .bp => s.regs.bp
  | .bx => s.regs.bx

/-- The default segment of an r/m code: SS where BP is a base register, else DS (30 R185, 20 R102). -/
def Base.defaultSeg : Base → SReg
  | .bpSi => .ss
  | .bpDi => .ss
  | .bp => .ss
  | _ => .ds

/-- EA, the 16-bit offset of a memory operand, carry out ignored (30 R185). -/
def State.ea (s : State) : Mem → Word
  | .direct d => d
  | .base b => s.baseSum b
  | .disp8 b d => s.baseSum b + signExtend d
  | .disp16 b d => s.baseSum b + d

/-- The default segment of a memory operand (30 R185). -/
def Mem.defaultSeg : Mem → SReg
  | .direct _ => .ds
  | .base b => Base.defaultSeg b
  | .disp8 b _ => Base.defaultSeg b
  | .disp16 b _ => Base.defaultSeg b

/-- A segment register replaced by the override prefix, where there is one (20 R102). -/
def State.overridden (s : State) (r : SReg) : SReg := s.inst.seg.getD r

/-- The segment register a memory operand uses (40 R230). -/
def State.eaSeg (s : State) (m : Mem) : SReg := s.overridden (Mem.defaultSeg m)

/-- std-read on a memory operand of n bytes (00 R13). -/
def State.memReadFault (s : State) (m : Mem) (n : Nat) : Option Exc := s.readFault (s.eaSeg m) (s.ea m) n

/-- std-write on a memory operand of n bytes (00 R13). -/
def State.memWriteFault (s : State) (m : Mem) (n : Nat) : Option Exc := s.writeFault (s.eaSeg m) (s.ea m) n

/-- std-read on an r/m operand; a register operand has none (40 R230). -/
def State.rmReadFault (s : State) (w : Width) : Rm → Option Exc
  | .reg _ => none
  | .mem m => s.memReadFault m w.bytes

/-- std-write on an r/m operand; a register operand has none (40 R230). -/
def State.rmWriteFault (s : State) (w : Width) : Rm → Option Exc
  | .reg _ => none
  | .mem m => s.memWriteFault m w.bytes

/-- The value of an r/m operand, no checks. -/
def State.rmValue (s : State) (w : Width) : Rm → Word
  | .reg r => s.reg w r
  | .mem m => s.load w (s.seg (s.eaSeg m)) (s.ea m)

/-- Write an r/m operand, no checks. -/
def State.setRm (s : State) (w : Width) (rm : Rm) (v : Word) : State :=
  match rm with
  | .reg r => s.setReg w r v
  | .mem m => s.store w (s.seg (s.eaSeg m)) (s.ea m) v

/-- Write an r/m operand that the instruction has read: another master may write memory in between (20 R117, R119). -/
def State.putBack (s : State) (w : Width) (rm : Rm) (v : Word) : State :=
  match rm with
  | .reg r => s.setReg w r v
  | .mem m => s.yieldBus.setRm w (.mem m) v

/-- `ReadEA(n)` (40 R230). -/
def State.readRm (s : State) (w : Width) (rm : Rm) : Exe Word := do
  check (s.rmReadFault w rm)
  .ok (s.rmValue w rm)

/-- `WriteEA(n, v)` (40 R230). -/
def State.writeRm (s : State) (w : Width) (rm : Rm) (v : Word) : Exe State := do
  check (s.rmWriteFault w rm)
  .ok (s.setRm w rm v)

/-- The r/m operand of a read-modify-write instruction: the std-write checks come before the read (20 R101), and
a segment that may be written may be read (20 R88, R99). -/
def State.modifyRm (s : State) (w : Width) (rm : Rm) : Exe Word := do
  check (s.rmWriteFault w rm)
  .ok (s.rmValue w rm)

end Sys2Proof.Machine

namespace Sys2Proof

/-- The value of immediate data, a byte zero-extended. -/
def Imm.value : Imm → Word
  | .byte v => zeroExtend v
  | .word v => v

end Sys2Proof

namespace Sys2Proof.Machine

/-- A doubleword memory operand is checked as its two words (20 R84, 30 R185, 40 R254) and read for what follows; other
masters may write after each word (20 R117). -/
def State.readPair {α : Type} (s : State) (m : Mem) (f : Word → Word → State → Exe α) : Exe α := do
  let r := s.eaSeg m
  check (s.readFault r (s.ea m) 2)
  check (s.readPart r (s.ea m) 2)
  s.afterReads 2 (f (s.load .word (s.seg r) (s.ea m)) ((s.yields 1).load .word (s.seg r) (s.ea m + 2)))

/-- The 6-byte operand of LGDT and LIDT, checked and read as three words (48 R512, 92 D47). -/
def State.readTriple (s : State) (m : Mem) : Exe (Word × Word × Word) := do
  let r := s.eaSeg m
  check (s.readFault r (s.ea m) 2)
  check (s.readPart r (s.ea m) 2)
  check (s.readPart r (s.ea m) 4)
  .ok
    (s.load .word (s.seg r) (s.ea m), (s.yields 1).load .word (s.seg r) (s.ea m + 2),
      (s.yields 2).load .word (s.seg r) (s.ea m + 4))

/-- The 6-byte operand of SGDT and SIDT, checked and written as three words (48 R514, 92 D47); other masters may write
between them (20 R117). -/
def State.writeTriple (s : State) (m : Mem) (a b c : Word) : Exe State := do
  let r := s.eaSeg m
  let g := s.seg r
  check (s.writeFault r (s.ea m) 2)
  check (s.writePart r (s.ea m) 2)
  check (s.writePart r (s.ea m) 4)
  .ok (((s.store .word g (s.ea m) a).yieldBus.store .word g (s.ea m + 2) b).yieldBus.store .word g (s.ea m + 4) c)

end Sys2Proof.Machine
end

