-- ==== Sys2Proof/Machine/Boundary.lean ====
section
/-! DEFINITION. What happens at an instruction boundary: the inputs, reset, and the recognition of interrupts
(10 R50-R53, 60 R553-R557, R575, 70 R600). -/

namespace Sys2Proof.Machine

/-- Take the next sample of the inputs; with no sample left no input is asserted (10 R53; log 17). -/
def State.nextSample (s : State) : State :=
  match s.env with
  | [] => { s with pins := Pins.idle }
  | p :: ps => { s with pins := p, env := ps }

/-- What other users of the bus do (20 R117, R126; log 42): what is left of the step before and what comes before this
step takes place, what falls inside this step is laid ready. While LOCK is held between the iterations of an instruction
all of it waits (20 R115). -/
def State.shareBus (s : State) : State :=
  let before : BusSlot := { writes := s.pins.busWrites, pereq := none }
  if s.lockHeld then { s with bus := s.bus ++ before :: s.pins.between }
  else { s.grants (s.bus ++ [before]) with bus := s.pins.between }

/-- An NMI edge is latched (60 R554). -/
def State.latchNmi (s : State) : State := { s with nmiPending := s.nmiPending || s.pins.nmi }

/-- Whether the processor gives the bus to another master for this step: never while LOCK is held (20 R116, R126). -/
def State.onHold (s : State) : Bool := s.pins.hold && !s.lockHeld

/-- Whether an operand transfer of the extension is served in this step: not under RESET, HOLD or LOCK, which come
first (20 R116, 70 R600). -/
def State.servesPereq (s : State) : Bool :=
  s.npxPresent && s.pins.pereq && s.pins.reset.isNone && !s.onHold && !s.lockHeld

/-- The inputs of one step: other masters' writes, the NMI edge, an operand transfer of the extension. The record of
the step's own writes begins after them (log 39). -/
def State.sample (s : State) : State :=
  let t := s.nextSample.shareBus.latchNmi
  let t := if t.servesPereq then (t.serveExtension (t.portValue .word)).tick 1 else t
  { t with writes := [] }

/-- RESET (70 R600): the reset state, with what reset does not touch: memory, the environment, the platform and the
extension's presence (10 R56). -/
def State.cpuReset (s : State) : State :=
  { State.reset with
    mem := s.mem, bus := s.bus, platform := s.platform, pins := s.pins, env := s.env, out := s.out, draws := s.draws,
    npxPresent := s.npxPresent }

/-- RESET in the middle of what the processor was doing in state `s`, had it gone on as `a`: of the bytes it would have
written to memory and ports only the first k have reached the bus (70 R600, 92 D5, 93 U31; log 39). Where the model
declines to go on, none of the step's bytes has reached memory, whatever k: DESIGN CHOICE (log 39). -/
def State.resetAfter (s : State) (k : Nat) (a : Answer) : State :=
  match a with
  | .next t =>
    let ports := t.out.take (t.out.length - s.out.length)
    ({ s with
      mem := (t.writes.reverse.take k).foldl (fun m c => m.set c.1 c.2) s.mem
      out := (ports.reverse.take (k - t.writes.length)).reverse ++ s.out
      bus := t.bus, draws := t.draws } : State).cpuReset
  | .fault _ => s.cpuReset
  | .refused _ => s.cpuReset

/-- An event that is not an INT instruction or an exception: EXT = 1 (60 R548). -/
def Event.external (v : Byte) (nmi : Bool) : Event :=
  { vector := v, code := none, ext := true, soft := false, nmi := nmi }

/-- What may be delivered at an instruction boundary, in the order of Table 5 (60 R556): an exception left to a new
task, single step, NMI, extension overrun, INTR. -/
inductive Source where
  | exc
  | step
  | nmi
  | overrun
  | intr
  deriving DecidableEq, Repr

/-- The event of a source and the state without its request, if it is pending and nothing masks it (10 R50, R51;
60 R544, R553-R555). -/
def State.request (s : State) : Source → Option (Event × State)
  | .exc => s.pendingExc.map fun e => (e.event, { s with pendingExc := none })
  | .step =>
    if s.stepTrap && s.inhibit != .all then some (Event.external 1 false, { s with stepTrap := false }) else none
  | .nmi =>
    if s.nmiPending && !s.nmiInService && s.inhibit != .all then
      some (Event.external 2 true, { s with nmiPending := false, nmiInService := true })
    else none
  | .overrun =>
    if s.overrunPending && !s.nmiInService && s.inhibit != .all then
      some (Event.external 9 false, { s with overrunPending := false })
    else none
  | .intr =>
    match s.pins.intr with
    | some v => if s.flags.ifl && s.inhibit == .none then some (Event.external v false, s) else none
    | none => none

/-- Every source, in the order of 60 R556. -/
def Source.all : List Source := [.exc, .step, .nmi, .overrun, .intr]

/-- Deliver an event at a boundary: the saved CS:IP is what would execute next; a halted processor runs again
(60 R546 (c), 47 R490). -/
def State.interrupt (s : State) (ev : Event) : Answer :=
  raise ev s.ip { s with run := .running, inst := InstState.idle }

/-- A delivery has left the processor at the first instruction of a handler: neither shut down nor with an exception of
a new task to take first. -/
def State.atHandler (s : State) : Bool := decide (s.run = .running) && s.pendingExc.isNone

/-- Deliver the pending events of a boundary one after another, each later one tested against the state the earlier
deliveries left (60 R556); `k` is what follows them. Another master may write between a delivery and what follows it
(20 R117). -/
def deliverEach (k : State → Answer) : List Source → State → Answer
  | [], s => k s
  | q :: qs, s =>
    match s.request q with
    | none => deliverEach k qs s
    | some (ev, u) =>
      match u.interrupt ev with
      | .next t => if t.atHandler then deliverEach k qs t.yieldBus else .next t
      | .fault f => .fault f
      | .refused r => .refused r

/-- A free value for a segment register and its cache, from the k-th draw on. -/
def State.freeSegment (s : State) (k : Nat) : Segment :=
  { sel := s.freeWord k, rights := s.freeByte (k + 1), base := s.freeByte (k + 2) ++ s.freeWord (k + 3)
    limit := s.freeWord (k + 4), valid := s.freeBit (k + 5), real := s.freeBit (k + 6) }

/-- The registers an NMI out of shutdown finds, which the source does not define: all of them are free values. PE stays,
for the processor keeps its mode, and so do IOPL and NT, which are 0, in real mode and bits 15-4 of MSW, which nothing
writes (60 R574, R575, 93 U11; 10 R36, R37, R42; log 27). -/
def State.afterShutdown (s : State) : State :=
  let f := Flags.ofImage (s.freeWord 9)
  { s with
    regs :=
      { ax := s.freeWord 0, cx := s.freeWord 1, dx := s.freeWord 2, bx := s.freeWord 3, sp := s.freeWord 4,
        bp := s.freeWord 5, si := s.freeWord 6, di := s.freeWord 7 }
    ip := s.freeWord 8
    flags := if s.pe then f else { f with iopl := s.flags.iopl, nt := s.flags.nt }
    es := s.freeSegment 10
    cs := s.freeSegment 17
    ss := s.freeSegment 24
    ds := s.freeSegment 31
    ldtr :=
      { sel := s.freeWord 38, base := s.freeByte 39 ++ s.freeWord 40, limit := s.freeWord 41, valid := s.freeBit 42 }
    tr := { sel := s.freeWord 43, base := s.freeByte 44 ++ s.freeWord 45, limit := s.freeWord 46 }
    gdtr := { base := s.freeByte 47 ++ s.freeWord 48, limit := s.freeWord 49 }
    idtr := { base := s.freeByte 50 ++ s.freeWord 51, limit := s.freeWord 52 }
    msw := (s.msw &&& 0xFFF1#16) ||| (s.freeWord 53 &&& 0x000E#16)
    fetch := FetchState.empty
    draws := s.draws + 54 }

/-- Whether an NMI can bring the processor out of shutdown: in real mode only if the interrupt table and the stack allow
its delivery (60 R575). -/
def State.nmiLeavesShutdown (s : State) : Bool :=
  s.prot || (decide (0x0F ≤ s.idtr.limit.toNat) && decide (5 < s.regs.sp.toNat))

/-- A step in shutdown: only an NMI leaves it, with what the registers hold then; an NMI that cannot is ignored
(60 R575). -/
def State.shutdownStep (k : State → Answer) (s : State) : Answer :=
  if s.nmiPending && !s.nmiInService then
    let t := s.afterShutdown
    if t.nmiLeavesShutdown then deliverEach k [.nmi, .overrun, .intr] { t with inhibit := .none }
    else .next { s with nmiPending := false, draws := t.draws }
  else .next s

end Sys2Proof.Machine
end

