-- ==== Sys2Proof/Machine/Transfer.lean ====
section
/-! DEFINITION. The meanings of the data transfer instructions (40_data_transfer.md). -/

namespace Sys2Proof.Machine

/-! ### MOV -/

/-- MOV between r/m and a register (40 R231, R232). -/
def execMovRmReg (d : Dir) (w : Width) (rm : Rm) (r : Reg) (s : State) : Answer :=
  complete s
    (match d with
    | .toRm => s.writeRm w rm (s.reg w r)
    | .toReg => do
      let v ← s.readRm w rm
      .ok (s.setReg w r v))

/-- MOV ew,sreg: the selector alone is stored (40 R233). -/
def execMovRmSreg (rm : Rm) (sr : SReg) (s : State) : Answer := complete s (s.writeRm .word rm (s.seg sr).sel)

/-- Load a segment register from an r/m word (40 R234). -/
def State.movSReg (s : State) (r : SReg) (rm : Rm) : Exe State := do
  let v ← s.readRm .word rm
  s.loadSReg r v

/-- Every interrupt waits until the next instruction has executed (10 R50). -/
def State.inhibitAll (s : State) : State := { s with inhibit := .all }

/-- MOV ES,ew (40 R234). -/
def execMovEsRm (rm : Rm) (s : State) : Answer := complete s (s.movSReg .es rm)

/-- MOV SS,ew: all interrupts are inhibited for one instruction (40 R234). -/
def execMovSsRm (rm : Rm) (s : State) : Answer :=
  complete s do
    let t ← s.movSReg .ss rm
    .ok t.inhibitAll

/-- MOV DS,ew (40 R234). -/
def execMovDsRm (rm : Rm) (s : State) : Answer := complete s (s.movSReg .ds rm)

/-- MOV AL or AX from a direct address (40 R235). -/
def execMovAccMem (w : Width) (a : Word) (s : State) : Answer :=
  complete s do
    let v ← s.readMem w (s.overridden .ds) a
    .ok (s.setReg w .ax v)

/-- MOV AL or AX to a direct address (40 R236). -/
def execMovMemAcc (w : Width) (a : Word) (s : State) : Answer :=
  complete s (s.writeMem w (s.overridden .ds) a (s.reg w .ax))

/-- MOV of an immediate to a register (40 R237). -/
def execMovRegImm (r : Reg) (x : Imm) (s : State) : Answer := .next (s.setReg x.width r x.value)

/-- MOV of an immediate to r/m (40 R238). -/
def execMovRmImm (rm : Rm) (x : Imm) (s : State) : Answer := complete s (s.writeRm x.width rm x.value)

/-! ### PUSH -/

/-- A PUSH. In real mode a push with SP = 1 raises interrupt 13 and leaves SP at 1 or FFFFH (20 R103, 92 D9;
log 35). -/
def State.pushOperand (s : State) (v : Word) : Exe State :=
  if !s.prot && s.regs.sp - 2 == 0xFFFF#16 then
    .error (.excAt (Exc.gp 0) ((s.tick 1).setSp (if s.freeBit 0 then 1 else 0xFFFF#16)))
  else s.push v

/-- PUSH rw: the register's value before SP changes (40 R239). -/
def execPushReg (r : Reg) (s : State) : Answer := complete s (s.pushOperand (s.reg16 r))

/-- PUSH mw, or the register r/m names (40 R240, 30 R196). -/
def execPushRm (rm : Rm) (s : State) : Answer :=
  complete s do
    let v ← s.readRm .word rm
    s.afterBus fun s => s.pushOperand v

/-- PUSH of a segment register's selector (40 R241). -/
def execPushSreg (sr : SReg) (s : State) : Answer := complete s (s.pushOperand (s.seg sr).sel)

/-- PUSH dw (40 R242). -/
def execPushImm (v : Word) (s : State) : Answer := complete s (s.pushOperand v)

/-- PUSH db, sign-extended (40 R242). -/
def execPushImm8 (v : Byte) (s : State) : Answer := complete s (s.pushOperand (signExtend v))

/-- SP after PUSHA or POPA wraps the stack segment: one of 0000H, 0001H, FFFEH, FFFFH, a draw (40 R243; log 35). -/
def State.wrapSp (s : State) : Word :=
  if s.freeBit 0 then (if s.freeBit 1 then 0x0000#16 else 0x0001#16)
  else if s.freeBit 1 then 0xFFFE#16 else 0xFFFF#16

/-- Push words until one does not fit: the exception met, if any, and the state so far. -/
def State.pushWhile (s : State) : List Word → Option Exc × State
  | [] => (none, s)
  | v :: vs =>
    match s.writeFault .ss (s.regs.sp - 2) 2 with
    | some e => (some e, s)
    | none => ((s.putStack (s.regs.sp - 2) v).setSp (s.regs.sp - 2)).yieldBus.pushWhile vs

/-- PUSHA (40 R243): in protected mode the first and last words are checked before anything is written; a word
between them that does not fit leaves the words already pushed and SP a draw. -/
def execPusha (s : State) : Answer :=
  complete s do
    check (if s.prot then s.writeFault .ss (s.regs.sp - 2) 2 else none)
    check (if s.prot then s.writeFault .ss (s.regs.sp - 16) 2 else none)
    match s.pushWhile
        [s.regs.ax, s.regs.cx, s.regs.dx, s.regs.bx, s.regs.sp, s.regs.bp, s.regs.si, s.regs.di] with
    | (none, t) => .ok t
    | (some e, t) => .error (.excAt e ((t.setSp t.wrapSp).tick 2))

/-! ### POP -/

/-- How many of the next words, at most n, can be popped from an offset on. -/
def State.popCount (s : State) : Nat → Word → Nat
  | 0, _ => 0
  | n + 1, off =>
    match s.readFault .ss off 2 with
    | some _ => 0
    | none => s.popCount n (off + 2) + 1

/-- The registers after POPA has loaded k of its words; those not loaded are free values (93 U23; log 35). Other
masters may write between the words (20 R117). -/
def State.popaRegs (s : State) (k : Nat) (sp : Word) : Regs :=
  let v := fun i =>
    if i < k then (s.yields i).stackWord (s.regs.sp + BitVec.ofNat 16 (2 * i)) else s.freeWord i
  { di := v 0, si := v 1, bp := v 2, sp := sp, bx := v 4, dx := v 5, cx := v 6, ax := v 7 }

/-- POPA (40 R244): in protected mode the first and last words are checked first; a word between them that is not
within the segment leaves a partial state. In real mode REAL_ODD_SP_WRAP decides. -/
def execPopa (s : State) : Answer :=
  complete s do
    check (if s.prot then s.readFault .ss s.regs.sp 2 else none)
    check (if s.prot then s.readFault .ss (s.regs.sp + 14) 2 else none)
    let k := s.popCount 8 s.regs.sp
    if k = 8 then .ok { s.yields 7 with regs := s.popaRegs 8 (s.regs.sp + 16) }
    else if !s.prot && Config.oddSpWrapShutdown then .error (.shutdown s)
    else
      .error (.excAt (if s.prot then Exc.ss 0 else Exc.gp 0)
        ({ s.yields k with regs := s.popaRegs k (s.tick 8).wrapSp }.tick 10))

/-- POP rw: SP is incremented first, so POP SP leaves the popped word (40 R245, 92 D42). -/
def execPopReg (r : Reg) (s : State) : Answer :=
  complete s do
    let v ← s.top
    .ok ((s.dropStack 2).setReg16 r v)

/-- The destination of POP mw: a fault leaves SP unchanged in protected mode and, in real mode, either value
(40 R246; log 35). -/
def State.popDestCheck (s : State) (rm : Rm) : Exe Unit :=
  match s.rmWriteFault .word rm with
  | none => .ok ()
  | some e =>
    if s.prot then .error (.exc e)
    else .error (.excAt e ((s.setSp (if s.freeBit 0 then s.regs.sp + 2 else s.regs.sp)).tick 1))

/-- POP mw, or into the register r/m names (40 R246, 30 R196). -/
def execPopRm (rm : Rm) (s : State) : Answer :=
  complete s do
    s.popDestCheck rm
    let v ← s.top
    .ok ((s.dropStack 2).putBack .word rm v)

/-- POP into a segment register: the load may raise with SP unchanged (40 R247). -/
def State.popSReg (s : State) (r : SReg) : Exe State := do
  let v ← s.top
  let t ← s.loadSReg r v
  .ok (t.dropStack 2)

/-- POP ES (40 R247). -/
def execPopEs (s : State) : Answer := complete s (s.popSReg .es)

/-- POP SS: all interrupts are inhibited for one instruction (40 R247). -/
def execPopSs (s : State) : Answer :=
  complete s do
    let t ← s.popSReg .ss
    .ok t.inhibitAll

/-- POP DS (40 R247). -/
def execPopDs (s : State) : Answer := complete s (s.popSReg .ds)

/-! ### XCHG, XLAT -/

/-- XCHG r/m with a register (40 R248). The lock it asserts has no effect one processor can show (20 R115). -/
def execXchgRmReg (w : Width) (rm : Rm) (r : Reg) (s : State) : Answer :=
  complete s do
    let a ← s.modifyRm w rm
    .ok ((s.setRm w rm (s.reg w r)).setReg w r a)

/-- XCHG AX,rw (40 R249). -/
def execXchgAx (r : Reg) (s : State) : Answer :=
  .next ((s.setReg16 .ax (s.reg16 r)).setReg16 r s.regs.ax)

/-- NOP (47 R496). -/
def execNop (s : State) : Answer := .next s

/-- XLAT (40 R250). -/
def execXlat (s : State) : Answer :=
  complete s do
    let v ← s.readMem .byte (s.overridden .ds) (s.regs.bx + s.reg .byte .ax)
    .ok (s.setReg .byte .ax v)

/-! ### IN, OUT (40 R251, R252) -/

/-- The I/O privilege test (20 R111). -/
def State.ioCheck (s : State) : Exe Unit := ensure s.ioAllowed (Exc.gp 0)

/-- IN from a port into AL or AX. -/
def inPort (w : Width) (port : Word) (s : State) : Answer :=
  complete s do
    s.ioCheck
    let (v, t) ← s.portIn w port
    .ok (t.setReg w .ax v)

/-- OUT of AL or AX to a port. -/
def outPort (w : Width) (port : Word) (s : State) : Answer :=
  complete s do
    s.ioCheck
    s.portOut w port (s.reg w .ax)

/-- IN from a port 0 to 255 (40 R251). -/
def execInImm (w : Width) (p : Byte) (s : State) : Answer := inPort w (zeroExtend p) s

/-- IN from port DX (40 R251). -/
def execInDx (w : Width) (s : State) : Answer := inPort w s.regs.dx s

/-- OUT to a port 0 to 255 (40 R252). -/
def execOutImm (w : Width) (p : Byte) (s : State) : Answer := outPort w (zeroExtend p) s

/-- OUT to port DX (40 R252). -/
def execOutDx (w : Width) (s : State) : Answer := outPort w s.regs.dx s

/-! ### LEA, LDS, LES -/

/-- LEA: the offset, no memory access (40 R253). -/
def execLea (r : Reg) (m : Mem) (s : State) : Answer := .next (s.setReg16 r (s.ea m))

/-- Load a far pointer into a segment register and a word register (40 R254). -/
def State.loadPointer (s : State) (sr : SReg) (r : Reg) (m : Mem) : Exe State :=
  s.readPair m fun off sel s => do
    let t ← s.loadSReg sr sel
    .ok (t.setReg16 r off)

/-- LDS (40 R254). -/
def execLds (r : Reg) (m : Mem) (s : State) : Answer := complete s (s.loadPointer .ds r m)

/-- LES (40 R255). -/
def execLes (r : Reg) (m : Mem) (s : State) : Answer := complete s (s.loadPointer .es r m)

/-! ### Flag transfers -/

/-- LAHF (40 R256). -/
def execLahf (s : State) : Answer := .next (s.setReg16 .ax (setHigh s.regs.ax s.flagByte))

/-- SAHF (40 R257). -/
def execSahf (s : State) : Answer := .next (s.setFlags (s.flags.ofLowByte (s.regs.ax.extractLsb' 8 8)))

/-- PUSHF (40 R258). -/
def execPushf (s : State) : Answer := complete s (s.pushOperand s.flagImage)

/-- POPF (40 R276). -/
def execPopf (s : State) : Answer :=
  complete s do
    let v ← s.top
    .ok ((s.dropStack 2).setFlags (s.flags.pop s.prot s.cpl v))

end Sys2Proof.Machine
end

