-- ==== Sys2Proof/Machine/Control.lean ====
section
/-! DEFINITION. The meanings of the control transfer instructions, with gates and task switches
(44_control_transfer.md). -/

namespace Sys2Proof.Machine

/-! ### Near transfers -/

/-- A near transfer, its target checked first (44 R392). -/
def State.jumpNear (s : State) (target : Word) : Exe State := do
  check (s.nearFault target)
  .ok (s.jumpTo target)

/-- A conditional short jump; not taken, it makes no check (44 R392, R393). -/
def jumpIf (c : Bool) (cb : Byte) (s : State) : Answer :=
  if c then complete s (s.jumpNear (s.ip + signExtend cb)) else .next s

/-- JO: OF = 1 (44 R393). -/
def execJo (cb : Byte) (s : State) : Answer := jumpIf (s.flags.of) cb s

/-- JNO: OF = 0 (44 R393). -/
def execJno (cb : Byte) (s : State) : Answer := jumpIf (!s.flags.of) cb s

/-- JB: CF = 1 (44 R393). -/
def execJb (cb : Byte) (s : State) : Answer := jumpIf (s.flags.cf) cb s

/-- JNB: CF = 0 (44 R393). -/
def execJnb (cb : Byte) (s : State) : Answer := jumpIf (!s.flags.cf) cb s

/-- JE: ZF = 1 (44 R393). -/
def execJe (cb : Byte) (s : State) : Answer := jumpIf (s.flags.zf) cb s

/-- JNE: ZF = 0 (44 R393). -/
def execJne (cb : Byte) (s : State) : Answer := jumpIf (!s.flags.zf) cb s

/-- JBE: CF = 1 or ZF = 1 (44 R393). -/
def execJbe (cb : Byte) (s : State) : Answer := jumpIf (s.flags.belowEq) cb s

/-- JNBE: CF = 0 and ZF = 0 (44 R393). -/
def execJnbe (cb : Byte) (s : State) : Answer := jumpIf (!s.flags.belowEq) cb s

/-- JS: SF = 1 (44 R393). -/
def execJs (cb : Byte) (s : State) : Answer := jumpIf (s.flags.sf) cb s

/-- JNS: SF = 0 (44 R393). -/
def execJns (cb : Byte) (s : State) : Answer := jumpIf (!s.flags.sf) cb s

/-- JP: PF = 1 (44 R393). -/
def execJp (cb : Byte) (s : State) : Answer := jumpIf (s.flags.pf) cb s

/-- JNP: PF = 0 (44 R393). -/
def execJnp (cb : Byte) (s : State) : Answer := jumpIf (!s.flags.pf) cb s

/-- JL: SF != OF (44 R393). -/
def execJl (cb : Byte) (s : State) : Answer := jumpIf (s.flags.less) cb s

/-- JNL: SF = OF (44 R393). -/
def execJnl (cb : Byte) (s : State) : Answer := jumpIf (!s.flags.less) cb s

/-- JLE: ZF = 1 or SF != OF (44 R393). -/
def execJle (cb : Byte) (s : State) : Answer := jumpIf (s.flags.lessEq) cb s

/-- JNLE: ZF = 0 and SF = OF (44 R393). -/
def execJnle (cb : Byte) (s : State) : Answer := jumpIf (!s.flags.lessEq) cb s

/-- JCXZ: CX = 0 (44 R394). -/
def execJcxz (cb : Byte) (s : State) : Answer := jumpIf (s.regs.cx == 0) cb s

/-- The LOOP forms: CX is decremented, no flag changes; a target beyond the limit leaves CX as it was
(44 R395, 92 D7). -/
def loopIf (c : Bool) (cb : Byte) (s : State) : Answer :=
  let t := s.setReg16 .cx (s.regs.cx - 1)
  if t.regs.cx != 0 && c then
    complete s do
      check (s.nearFault (s.ip + signExtend cb))
      .ok (t.jumpTo (s.ip + signExtend cb))
  else .next t

/-- LOOP (44 R395). -/
def execLoop (cb : Byte) (s : State) : Answer := loopIf true cb s

/-- LOOPE: ZF = 1 (44 R396). -/
def execLoope (cb : Byte) (s : State) : Answer := loopIf s.flags.zf cb s

/-- LOOPNE: ZF = 0 (44 R397). -/
def execLoopne (cb : Byte) (s : State) : Answer := loopIf (!s.flags.zf) cb s

/-- JMP cb (44 R398). -/
def execJmpShort (cb : Byte) (s : State) : Answer := complete s (s.jumpNear (s.ip + signExtend cb))

/-- JMP cw (44 R398). -/
def execJmpNear (cw : Word) (s : State) : Answer := complete s (s.jumpNear (s.ip + cw))

/-- JMP ew: an absolute offset (44 R399). -/
def execJmpRm (rm : Rm) (s : State) : Answer :=
  complete s do
    let t ← s.readRm .word rm
    s.jumpNear t

/-- A near call: target and stack room are checked before anything changes (44 R400). -/
def State.callNearTo (s : State) (target : Word) : Exe State := do
  check (s.nearFault target)
  let t ← s.push s.ip
  .ok (t.jumpTo target)

/-- CALL cw (44 R400). -/
def execCallNear (cw : Word) (s : State) : Answer := complete s (s.callNearTo (s.ip + cw))

/-- CALL ew: the operand is read before the push (44 R401). -/
def execCallRm (rm : Rm) (s : State) : Answer :=
  complete s do
    let t ← s.readRm .word rm
    s.afterBus fun s => s.callNearTo t

/-- A near return that releases n further bytes (44 R402). -/
def State.retNearBy (s : State) (n : Word) : Exe State := do
  let t ← s.top
  check (s.nearFault t)
  .ok ((s.dropStack (2 + n)).jumpTo t)

/-- RET (44 R402). -/
def execRetNear (s : State) : Answer := complete s (s.retNearBy 0)

/-- RET dw (44 R402). -/
def execRetNearImm (n : Word) (s : State) : Answer := complete s (s.retNearBy n)

/-! ### Far transfers in protected mode -/

/-- A code segment that a JMP or CALL may enter directly: conforming with DPL <= CPL, non-conforming with
RPL <= CPL and DPL = CPL (44 R411, R416). -/
def directTest (cpl : Nat) (sel : Word) (d : Desc) : Bool :=
  if rightsConforming d.ar then decide (rightsDpl d.ar ≤ cpl)
  else decide (selRpl sel ≤ cpl) && decide (rightsDpl d.ar = cpl)

/-- The checks of a JMP or CALL to a code segment up to presence (44 R411). -/
def State.directCode (s : State) (d : Desc) (sel : Word) : Exe Unit := do
  ensure (directTest s.cpl sel d) (Exc.gp (selCode sel false))
  ensure (rightsPresent d.ar) (Exc.np (selCode sel false))

/-- The checks of a gate used by JMP or CALL: DPL against CPL and RPL, then presence (44 R412, R413). -/
def State.gateUsable (s : State) (g : Desc) (sel : Word) : Exe Unit := do
  ensure (decide (s.cpl ≤ rightsDpl g.ar) && decide (selRpl sel ≤ rightsDpl g.ar)) (Exc.gp (selCode sel false))
  ensure (rightsPresent g.ar) (Exc.np (selCode sel false))

/-- The code segment a call gate names, by the privilege test of the instruction (44 R412, R417). -/
def State.gateCode (s : State) (g : Desc) (test : Desc → Bool) : Exe Desc := do
  ensure (!selNull g.word1) (Exc.gp 0)
  orExc (s.testSel g.word1 test) (Exc.gp (selCode g.word1 false)) (Exc.np (selCode g.word1 false))

/-- The task state segment a task gate names, and the switch to it (44 R413, R419). -/
def State.viaTaskGate (s : State) (g : Desc) (sel : Word) (kind : SwitchKind) : Exe State := do
  s.gateUsable g sel
  let tss := g.word1
  s.afterBus fun s => do
    let d ← orExc (s.testSel tss (tssTest false tss)) (Exc.gp (selCode tss false)) (Exc.np (selCode tss false))
    let t ← s.switchTasks kind tss d s.ip false
    t.taskIpCheck false

/-- A switch to the task state segment a selector names (44 R414, R419). -/
def State.viaTss (s : State) (d : Desc) (sel : Word) (kind : SwitchKind) : Exe State := do
  ensure (decide (s.cpl ≤ rightsDpl d.ar) && decide (selRpl sel ≤ rightsDpl d.ar) && tssTest false sel d)
    (Exc.gp (selCode sel false))
  ensure (rightsPresent d.ar) (Exc.np (selCode sel false))
  let t ← s.switchTasks kind sel d s.ip false
  t.taskIpCheck false

/-- The descriptor a far transfer's selector names (44 R408). -/
def State.farDesc (s : State) (sel : Word) : Exe Desc := do
  ensure (!selNull sel) (Exc.gp 0)
  match s.fetchDesc sel with
  | some d => .ok d
  | none => .error (.exc (Exc.gp (selCode sel false)))

/-- What the AR byte of a far transfer's descriptor selects (44 R408). -/
inductive FarKind where
  | code
  | callGate
  | taskGate
  | tss
  | other
  deriving DecidableEq, Repr

/-- The dispatch on the AR byte (44 R408, R415). -/
def farKind (ar : Byte) : FarKind :=
  if rightsSegment ar then if rightsCode ar then .code else .other
  else match rightsType ar with
    | 1 => .tss
    | 3 => .tss
    | 4 => .callGate
    | 5 => .taskGate
    | _ => .other

/-- JMP to a code segment (44 R411). -/
def State.jumpCode (s : State) (d : Desc) (sel off : Word) : Exe State := do
  s.directCode d sel
  ensure (d.hasOffset off) (Exc.gp 0)
  .ok (s.enterCode d sel s.cpl off)

/-- JMP through a call gate: the same level only; the offset comes from the gate (44 R412). -/
def State.jumpGate (s : State) (g : Desc) (sel : Word) : Exe State := do
  s.gateUsable g sel
  s.afterBus fun s => do
    let code ← s.gateCode g (codeTest s.cpl)
    ensure (code.hasOffset g.word0) (Exc.gp 0)
    .ok (s.enterCode code g.word1 s.cpl g.word0)

/-- Far JMP in either mode (44 R403, R408). -/
def State.jumpFar (s : State) (sel off : Word) : Exe State :=
  if s.prot then s.afterBus fun s => do
    let d ← s.farDesc sel
    match farKind d.ar with
    | .code => s.jumpCode d sel off
    | .callGate => s.jumpGate d sel
    | .taskGate => s.viaTaskGate d sel .jump
    | .tss => s.viaTss d sel .jump
    | .other => .error (.exc (Exc.gp (selCode sel false)))
  else .ok (s.enterReal sel off)

/-- JMP cd (44 R403, R408). -/
def execJmpFar (off sel : Word) (s : State) : Answer := complete s (s.jumpFar sel off)

/-- JMP md (44 R403, R408). -/
def execJmpFarMem (m : Mem) (s : State) : Answer :=
  complete s (s.readPair m fun off sel s => s.jumpFar sel off)

/-- Room for n words on the current stack, else #SS(0) (44 R416). -/
def State.stackRoom (s : State) (n : Nat) : Exe Unit :=
  check ((s.pushFault n s.regs.sp).map fun e => if s.prot then Exc.ss 0 else e)

/-- CALL to a code segment (44 R416). -/
def State.callCode (s : State) (d : Desc) (sel off : Word) : Exe State := do
  s.directCode d sel
  s.stackRoom 2
  ensure (d.hasOffset off) (Exc.gp 0)
  .ok ((s.yieldBus.pushList [s.cs.sel, s.ip]).enterCode d sel s.cpl off)

/-- The parameter words of a call gate, the one nearest the old top of stack last, read in that order (44 R418); other
masters may write before each is read (20 R117). -/
def State.gateParams (s : State) (n : Nat) : List Word :=
  (List.range n).reverse.map fun i => (s.yields (n - i)).stackWord (s.regs.sp + BitVec.ofNat 16 (2 * i))

/-- Whether the parameter words of a call gate can be read from the old stack (44 R418). -/
def State.gateParamsReadable (s : State) (n : Nat) : Bool :=
  (List.range n).all fun i => (s.readFault .ss (s.regs.sp + BitVec.ofNat 16 (2 * i)) 2).isNone

/-- The word count of a call gate, 0 to 31 (20 R90). -/
def Desc.wordCount (g : Desc) : Nat := g.high.toNat % 32

/-- CALL through a call gate to a more privileged level (44 R418). All parameter words are read before the first push,
sources before results as 20 R117 (d) has it: DESIGN CHOICE for a new stack that overlaps them, where the listing's loop
would read words it has just pushed (log 48). -/
def State.callInner (s : State) (g code : Desc) : Exe State :=
  let level := rightsDpl code.ar
  let n := g.wordCount
  s.innerStack level false fun ssSel sp s => do
    let d ← s.innerStackDesc level ssSel false
    ensure ((d.toSegment ssSel).roomFor (4 + n) sp) (Exc.ss 0)
    ensure (s.gateParamsReadable n) (Exc.ss 0)
    ensure (code.hasOffset g.word0) (Exc.gp 0)
    let words := [s.ss.sel, s.regs.sp] ++ s.gateParams n ++ [s.cs.sel, s.ip]
    let t := ((s.yields (n + 1)).loadSeg .cs code (selWithRpl g.word1 level)).yieldBus
    let t := ((t.loadSeg .ss d ssSel).setSp sp).yieldBus
    .ok ((t.pushList words).jumpTo g.word0)

/-- A code segment a CALL may reach through a gate: DPL <= CPL (44 R417). -/
def gateTest (cpl : Nat) (d : Desc) : Bool :=
  rightsSegment d.ar && rightsCode d.ar && decide (rightsDpl d.ar ≤ cpl)

/-- CALL through a call gate (44 R417, R418). -/
def State.callGate (s : State) (g : Desc) (sel : Word) : Exe State := do
  s.gateUsable g sel
  s.afterBus fun s => do
    let code ← s.gateCode g (gateTest s.cpl)
    if rightsConforming code.ar || decide (rightsDpl code.ar = s.cpl) then do
      s.stackRoom 2
      ensure (code.hasOffset g.word0) (Exc.gp 0)
      .ok ((s.yieldBus.pushList [s.cs.sel, s.ip]).enterCode code g.word1 s.cpl g.word0)
    else s.callInner g code

/-- Far CALL in real mode: both pushes are checked first (44 R404). -/
def State.callReal (s : State) (sel off : Word) : Exe State := do
  s.stackRoom 2
  .ok ((s.pushList [s.cs.sel, s.ip]).enterReal sel off)

/-- Far CALL in either mode (44 R404, R415). -/
def State.callFar (s : State) (sel off : Word) : Exe State :=
  if s.prot then s.afterBus fun s => do
    let d ← s.farDesc sel
    match farKind d.ar with
    | .code => s.callCode d sel off
    | .callGate => s.callGate d sel
    | .taskGate => s.viaTaskGate d sel .nest
    | .tss => s.viaTss d sel .nest
    | .other => .error (.exc (Exc.gp (selCode sel false)))
  else s.callReal sel off

/-- CALL cd (44 R404, R415). -/
def execCallFar (off sel : Word) (s : State) : Answer := complete s (s.callFar sel off)

/-- CALL md (44 R404, R415). -/
def execCallFarMem (m : Mem) (s : State) : Answer :=
  complete s (s.readPair m fun off sel s => s.callFar sel off)

/-! ### Far returns -/

/-- Far RET in real mode (44 R405). -/
def State.retReal (s : State) (n : Word) : Exe State := do
  let sp := s.regs.sp
  s.popCheck sp
  s.popCheck (sp + 2)
  .ok ((s.yieldBus.dropStack (4 + n)).enterReal (s.yieldBus.stackWord (sp + 2)) (s.stackWord sp))

/-- Far RET to the same level (44 R420); the selector has been read. -/
def State.retSame (s : State) (sel n : Word) : Exe State := do
  let sp := s.regs.sp
  let d ← s.returnCode sel
  check (s.readFault .ss sp 2)
  s.afterBus fun s => do
    let ip := s.stackWord sp
    ensure (d.hasOffset ip) (Exc.gp 0)
    .ok ((s.dropStack (4 + n)).yieldBus.enterCode d sel s.cpl ip)

/-- SP after a return to an outer level: whether the immediate is added is RET_OUTER_SP_ADJUST (44 R421). -/
def outerSp (saved n : Word) : Word := if Config.retOuterSpAdjust then saved + n else saved

/-- Far RET to an outer level (44 R421); the selector has been read. -/
def State.retOuter (s : State) (csSel n : Word) : Exe State := do
  ensure (s.stackHolds (8 + n.toNat)) (Exc.ss 0)
  let code ← s.returnCode csSel
  s.afterBus fun s => do
    let sp := s.regs.sp
    s.outerStack csSel (sp + 6 + n) fun stack ssSel s => do
      let ip := s.stackWord sp
      ensure (code.hasOffset ip) (Exc.gp 0)
      let s := s.yieldBus
      .ok (s.returnOuter code csSel ip stack ssSel (outerSp (s.stackWord (sp + 4 + n)) n))

/-- Far RET in either mode (44 R405, R420). -/
def State.retFarBy (s : State) (n : Word) : Exe State :=
  if s.prot then do
    check (s.readFault .ss (s.regs.sp + 2) 2)
    let sel := s.stackWord (s.regs.sp + 2)
    ensure (decide (s.cpl ≤ selRpl sel)) (Exc.gp (selCode sel false))
    s.afterBus fun s => if selRpl sel = s.cpl then s.retSame sel n else s.retOuter sel n
  else s.retReal n

/-- RET, far (44 R405, R420). -/
def execRetFar (s : State) : Answer := complete s (s.retFarBy 0)

/-- RET dw, far (44 R405, R420). -/
def execRetFarImm (n : Word) (s : State) : Answer := complete s (s.retFarBy n)

/-! ### Interrupt instructions (45_interrupt_instructions.md) -/

/-- Interrupt n by an instruction: the return address is IP_next (45 R451). -/
def softInterrupt (v : Byte) (s : State) : Answer := complete s (s.deliver (Event.software v) s.ip)

/-- INT 3 (45 R452). -/
def execInt3 (s : State) : Answer := softInterrupt 3 s

/-- INT db (45 R451). -/
def execIntImm (v : Byte) (s : State) : Answer := softInterrupt v s

/-- INTO: interrupt 4 if OF is 1 (45 R453). -/
def execInto (s : State) : Answer := if s.flags.of then softInterrupt 4 s else .next s

/-- IRET (45 R454, R455). -/
def execIret (s : State) : Answer := complete s (if s.prot then s.iretProt else s.iretReal)

/-! ### High-level instructions (46_high_level.md) -/

/-- A fault part-way leaves the words already pushed, with SP and BP as before the instruction (46 R471). -/
def keepWrites {α : Type} (s t : State) (m : Exe α) : Exe α :=
  match m with
  | .error (.exc e) => .error (.excAt e { t with regs := s.regs })
  | m => m

/-- Copy n display words from the frame BP names (46 R471); `s` is the state before the instruction. Another master may
write before and after each is read (20 R117). -/
def copyDisplay (s : State) : Nat → State → Exe State
  | 0, t => .ok t
  | n + 1, t => do
    let t := t.yieldBus
    let t₁ := t.setReg16 .bp (t.regs.bp - 2)
    let v ← keepWrites s t (t₁.readMem .word .ss t₁.regs.bp)
    let t₂ ← keepWrites s t₁.yieldBus (t₁.yieldBus.push v)
    copyDisplay s n t₂

/-- ENTER (46 R471): the level is taken modulo 32. Another master may write between its words (20 R117). -/
def execEnter (size : Word) (level : Byte) (s : State) : Answer :=
  complete s do
    let n := level.toNat % 32
    let t ← s.push s.regs.bp
    let frame := t.regs.sp
    let t ← if n = 0 then .ok t
      else do
        let u ← copyDisplay s (n - 1) t
        keepWrites s u.yieldBus (u.yieldBus.push frame)
    .ok ((t.setReg16 .bp frame).setSp (t.regs.sp - size))

/-- LEAVE (46 R472): its read is one of the POP class, at BP (20 R103). -/
def execLeave (s : State) : Answer :=
  complete s do
    s.popCheck s.regs.bp
    let v := s.stackWord s.regs.bp
    .ok ((s.setSp (s.regs.bp + 2)).setReg16 .bp v)

/-- BOUND: the register within two signed limits, both inclusive, else interrupt 5 (46 R473). -/
def execBound (r : Reg) (m : Mem) (s : State) : Answer :=
  complete s
    (s.readPair m fun lo hi s => do
      ensure (decide (lo.toInt ≤ (s.reg16 r).toInt) && decide ((s.reg16 r).toInt ≤ hi.toInt)) Exc.br
      .ok s)

end Sys2Proof.Machine
end

