-- ==== Sys2Proof/Machine/Arithmetic.lean ====
section
/-! DEFINITION. The meanings of the arithmetic instructions (41_arithmetic.md), and the two-operand operations they
share with the logical ones. -/

namespace Sys2Proof.Machine

/-! ### Two-operand operations -/

/-- The destination operand: CMP writes nothing, so it makes no write check (41 R295). -/
def State.aluRead (s : State) (op : AluOp) (w : Width) (rm : Rm) : Exe Word :=
  if op = .cmp then s.readRm w rm else s.modifyRm w rm

/-- Flags and result of an operation on destination `a` and source `b`; CMP stores no result. -/
def State.aluWrite (s : State) (op : AluOp) (w : Width) (rm : Rm) (a b : Word) : State :=
  let t := s.aluFlags op w a b
  if op = .cmp then t else t.putBack w rm (op.result w s.flags.cf a b)

/-- The r/m operand is the destination. -/
def aluToRm (op : AluOp) (w : Width) (rm : Rm) (b : Word) (s : State) : Answer :=
  complete s do
    let a ← s.aluRead op w rm
    .ok (s.aluWrite op w rm a b)

/-- The register is the destination. -/
def aluToReg (op : AluOp) (w : Width) (rm : Rm) (r : Reg) (s : State) : Answer :=
  complete s do
    let b ← s.readRm w rm
    .ok (s.aluWrite op w (.reg r) (s.reg w r) b)

/-- The forms `op eb,rb` to `op rw,ew`, the d bit choosing the destination (30 R189). -/
def aluRmReg (op : AluOp) (d : Dir) (w : Width) (rm : Rm) (r : Reg) (s : State) : Answer :=
  match d with
  | .toRm => aluToRm op w rm (s.reg w r) s
  | .toReg => aluToReg op w rm r s

/-- The forms with AL or AX and an immediate. -/
def aluAccImm (op : AluOp) (x : Imm) (s : State) : Answer := aluToRm op x.width (.reg .ax) x.value s

/-- The forms with r/m and an immediate of the operand's size. -/
def aluRmImm (op : AluOp) (rm : Rm) (x : Imm) (s : State) : Answer := aluToRm op x.width rm x.value s

/-- The forms with r/m and a sign-extended byte (30 R189, s = 1). -/
def aluRmImm8 (op : AluOp) (rm : Rm) (v : Byte) (s : State) : Answer := aluToRm op .word rm (signExtend v) s

/-- ADD with a register and r/m (41 R282). -/
def execAddRmReg (d : Dir) (w : Width) (rm : Rm) (r : Reg) (s : State) : Answer := aluRmReg .add d w rm r s

/-- ADD AL or AX with an immediate (41 R283). -/
def execAddAccImm (x : Imm) (s : State) : Answer := aluAccImm .add x s

/-- ADD r/m with an immediate (41 R283). -/
def execAddRmImm (rm : Rm) (x : Imm) (s : State) : Answer := aluRmImm .add rm x s

/-- ADD of a word r/m with a sign-extended byte (41 R283). -/
def execAddRmImm8 (rm : Rm) (v : Byte) (s : State) : Answer := aluRmImm8 .add rm v s

/-- ADC with a register and r/m (41 R284). -/
def execAdcRmReg (d : Dir) (w : Width) (rm : Rm) (r : Reg) (s : State) : Answer := aluRmReg .adc d w rm r s

/-- ADC AL or AX with an immediate (41 R285). -/
def execAdcAccImm (x : Imm) (s : State) : Answer := aluAccImm .adc x s

/-- ADC r/m with an immediate (41 R285). -/
def execAdcRmImm (rm : Rm) (x : Imm) (s : State) : Answer := aluRmImm .adc rm x s

/-- ADC of a word r/m with a sign-extended byte (41 R285). -/
def execAdcRmImm8 (rm : Rm) (v : Byte) (s : State) : Answer := aluRmImm8 .adc rm v s

/-- SUB with a register and r/m (41 R289). -/
def execSubRmReg (d : Dir) (w : Width) (rm : Rm) (r : Reg) (s : State) : Answer := aluRmReg .sub d w rm r s

/-- SUB AL or AX with an immediate (41 R290). -/
def execSubAccImm (x : Imm) (s : State) : Answer := aluAccImm .sub x s

/-- SUB r/m with an immediate (41 R290). -/
def execSubRmImm (rm : Rm) (x : Imm) (s : State) : Answer := aluRmImm .sub rm x s

/-- SUB of a word r/m with a sign-extended byte (41 R290). -/
def execSubRmImm8 (rm : Rm) (v : Byte) (s : State) : Answer := aluRmImm8 .sub rm v s

/-- SBB with a register and r/m (41 R291). -/
def execSbbRmReg (d : Dir) (w : Width) (rm : Rm) (r : Reg) (s : State) : Answer := aluRmReg .sbb d w rm r s

/-- SBB AL or AX with an immediate (41 R292). -/
def execSbbAccImm (x : Imm) (s : State) : Answer := aluAccImm .sbb x s

/-- SBB r/m with an immediate (41 R292). -/
def execSbbRmImm (rm : Rm) (x : Imm) (s : State) : Answer := aluRmImm .sbb rm x s

/-- SBB of a word r/m with a sign-extended byte (41 R292). -/
def execSbbRmImm8 (rm : Rm) (v : Byte) (s : State) : Answer := aluRmImm8 .sbb rm v s

/-- CMP with a register and r/m (41 R295). -/
def execCmpRmReg (d : Dir) (w : Width) (rm : Rm) (r : Reg) (s : State) : Answer := aluRmReg .cmp d w rm r s

/-- CMP AL or AX with an immediate (41 R296). -/
def execCmpAccImm (x : Imm) (s : State) : Answer := aluAccImm .cmp x s

/-- CMP r/m with an immediate (41 R296). -/
def execCmpRmImm (rm : Rm) (x : Imm) (s : State) : Answer := aluRmImm .cmp rm x s

/-- CMP of a word r/m with a sign-extended byte (41 R296). -/
def execCmpRmImm8 (rm : Rm) (v : Byte) (s : State) : Answer := aluRmImm8 .cmp rm v s

/-! ### One-operand operations -/

/-- Replace an r/m operand by a function of it, with new flags. -/
def modifyWith (w : Width) (rm : Rm) (result : Word → Word) (flags : Word → Flags) (s : State) : Answer :=
  complete s do
    let a ← s.modifyRm w rm
    .ok ((s.setFlags (flags a)).putBack w rm (result a))

/-- INC (41 R286). -/
def incOperand (w : Width) (rm : Rm) (s : State) : Answer :=
  modifyWith w rm (fun a => addResult w false a 1) (fun a => s.flags.inc w a) s

/-- DEC (41 R293). -/
def decOperand (w : Width) (rm : Rm) (s : State) : Answer :=
  modifyWith w rm (fun a => subResult w false a 1) (fun a => s.flags.dec w a) s

/-- INC of a word register (41 R286). -/
def execIncReg (r : Reg) (s : State) : Answer := incOperand .word (.reg r) s

/-- INC of r/m (41 R286). -/
def execIncRm (w : Width) (rm : Rm) (s : State) : Answer := incOperand w rm s

/-- DEC of a word register (41 R293). -/
def execDecReg (r : Reg) (s : State) : Answer := decOperand .word (.reg r) s

/-- DEC of r/m (41 R293). -/
def execDecRm (w : Width) (rm : Rm) (s : State) : Answer := decOperand w rm s

/-- NEG: the operand subtracted from zero (41 R294). -/
def execNegRm (w : Width) (rm : Rm) (s : State) : Answer :=
  modifyWith w rm (fun a => subResult w false 0 a) (fun a => s.flags.sub w false 0 a) s

/-! ### Multiplication (41 R299-R301) -/

/-- Write DX:AX. -/
def State.setPair (s : State) (dx ax : Word) : State := (s.setReg16 .dx dx).setReg16 .ax ax

/-- A byte multiplication leaves its 16-bit product in AX. -/
def State.mulByte (s : State) (p : Word) (significant : Bool) : State :=
  (s.mulFlags significant).setReg16 .ax p

/-- A word multiplication leaves its 32-bit product in DX:AX. -/
def State.mulWord (s : State) (p : BitVec 32) (significant : Bool) : State :=
  (s.mulFlags significant).setPair (p.extractLsb' 16 16) (p.extractLsb' 0 16)

/-- MUL: unsigned (41 R299). -/
def execMulRm (w : Width) (rm : Rm) (s : State) : Answer :=
  complete s do
    let v ← s.readRm w rm
    match w with
    | .byte =>
      let p := (s.reg .byte .ax).toNat * v.toNat
      .ok (s.mulByte (BitVec.ofNat 16 p) (decide (2 ^ 8 ≤ p)))
    | .word =>
      let p := s.regs.ax.toNat * v.toNat
      .ok (s.mulWord (BitVec.ofNat 32 p) (decide (2 ^ 16 ≤ p)))

/-- IMUL, one operand: signed (41 R300). -/
def execImulRm (w : Width) (rm : Rm) (s : State) : Answer :=
  complete s do
    let v ← s.readRm w rm
    let p := Width.toInt w (s.reg w .ax) * Width.toInt w v
    match w with
    | .byte => .ok (s.mulByte (BitVec.ofInt 16 p) (decide (p < -128 ∨ 127 < p)))
    | .word => .ok (s.mulWord (BitVec.ofInt 32 p) (decide (p < -32768 ∨ 32767 < p)))

/-- The immediate forms of IMUL: the low word of the signed product goes to a register (41 R301). -/
def imulToReg (r : Reg) (rm : Rm) (v : Word) (s : State) : Answer :=
  complete s do
    let a ← s.readRm .word rm
    let p := a.toInt * v.toInt
    .ok ((s.mulFlags (decide (p < -32768 ∨ 32767 < p))).setReg16 r (BitVec.ofInt 16 p))

/-- IMUL rw,ew,dw (41 R301). -/
def execImulImm (r : Reg) (rm : Rm) (v : Word) (s : State) : Answer := imulToReg r rm v s

/-- IMUL rw,ew,db, the immediate sign-extended (41 R301). -/
def execImulImm8 (r : Reg) (rm : Rm) (v : Byte) (s : State) : Answer := imulToReg r rm (signExtend v) s

/-! ### Division (41 R303, R304, R322, R323) -/

/-- Write AL and AH. -/
def State.setAlAh (s : State) (al ah : Byte) : State := s.setReg16 .ax (ah ++ al)

/-- DIV: unsigned; #DE for a zero divisor or a quotient that does not fit (41 R303, R323). After #DE the status flags,
those in the pushed flags word included, are as before the instruction: DESIGN CHOICE, the rule lets them be drawn too
(log 49). -/
def execDivRm (w : Width) (rm : Rm) (s : State) : Answer :=
  complete s do
    let v ← s.readRm w rm
    let d := v.toNat
    ensure (decide (d ≠ 0)) Exc.de
    match w with
    | .byte =>
      let n := s.regs.ax.toNat
      ensure (decide (n / d < 2 ^ 8)) Exc.de
      .ok (s.divFlags.setAlAh (BitVec.ofNat 8 (n / d)) (BitVec.ofNat 8 (n % d)))
    | .word =>
      let n := s.regs.dx.toNat * 2 ^ 16 + s.regs.ax.toNat
      ensure (decide (n / d < 2 ^ 16)) Exc.de
      .ok (s.divFlags.setPair (BitVec.ofNat 16 (n % d)) (BitVec.ofNat 16 (n / d)))

/-- IDIV: signed, truncating toward zero (41 R322); the most negative quotient is allowed (41 R304). After #DE the
status flags are as before the instruction: DESIGN CHOICE, as for DIV (41 R323; log 49). -/
def execIdivRm (w : Width) (rm : Rm) (s : State) : Answer :=
  complete s do
    let v ← s.readRm w rm
    let d := Width.toInt w v
    ensure (decide (d ≠ 0)) Exc.de
    match w with
    | .byte =>
      let n := s.regs.ax.toInt
      let q := n.tdiv d
      ensure (decide (-128 ≤ q ∧ q ≤ 127)) Exc.de
      .ok (s.divFlags.setAlAh (BitVec.ofInt 8 q) (BitVec.ofInt 8 (n.tmod d)))
    | .word =>
      let n := (s.regs.dx ++ s.regs.ax).toInt
      let q := n.tdiv d
      ensure (decide (-32768 ≤ q ∧ q ≤ 32767)) Exc.de
      .ok (s.divFlags.setPair (BitVec.ofInt 16 (n.tmod d)) (BitVec.ofInt 16 q))

/-! ### Decimal and ASCII adjusts -/

/-- AL. -/
def State.al (s : State) : Byte := s.regs.ax.extractLsb' 0 8

/-- AH. -/
def State.ah (s : State) : Byte := s.regs.ax.extractLsb' 8 8

/-- AAA (41 R287). -/
def execAaa (s : State) : Answer :=
  let adj := adjustLow s.flags s.al
  let al := if adj then s.al + 6 else s.al
  let ah := if adj then s.ah + 1 else s.ah
  .next ((s.asciiFlags adj).setAlAh (al &&& 0x0F#8) ah)

/-- AAS (41 R297). -/
def execAas (s : State) : Answer :=
  let adj := adjustLow s.flags s.al
  let al := if adj then s.al - 6 else s.al
  let ah := if adj then s.ah - 1 else s.ah
  .next ((s.asciiFlags adj).setAlAh (al &&& 0x0F#8) ah)

/-- DAA (41 R288). -/
def execDaa (s : State) : Answer :=
  let low := adjustLow s.flags s.al
  let high := adjustHigh s.flags s.al
  let al := s.al + (if low then 0x06#8 else 0) + (if high then 0x60#8 else 0)
  .next ((s.decimalFlags al low high).setAlAh al s.ah)

/-- DAS (41 R298). -/
def execDas (s : State) : Answer :=
  let low := adjustLow s.flags s.al
  let high := adjustHigh s.flags s.al
  let al := s.al - (if low then 0x06#8 else 0) - (if high then 0x60#8 else 0)
  let borrow := low && (s.flags.cf || decide (s.al.toNat < 6))
  .next ((s.decimalFlags al low (high || borrow)).setAlAh al s.ah)

/-- AAM (41 R302). -/
def execAam (s : State) : Answer :=
  let al := BitVec.ofNat 8 (s.al.toNat % 10)
  .next ((s.asciiMulFlags al).setAlAh al (BitVec.ofNat 8 (s.al.toNat / 10)))

/-- AAD (41 R305). -/
def execAad (s : State) : Answer :=
  let al := BitVec.ofNat 8 (s.ah.toNat * 10 + s.al.toNat)
  .next ((s.asciiMulFlags al).setAlAh al 0)

/-! ### Conversions -/

/-- CBW (41 R306). -/
def execCbw (s : State) : Answer := .next (s.setReg16 .ax (signExtend s.al))

/-- CWD (41 R307). -/
def execCwd (s : State) : Answer := .next (s.setReg16 .dx (if s.regs.ax.msb then 0xFFFF#16 else 0))

end Sys2Proof.Machine
end

