-- ==== Sys2Proof/Machine/Logic.lean ====
section
/-! DEFINITION. The meanings of the logical, shift and rotate instructions (42_logic_shift_rotate.md). -/

namespace Sys2Proof.Machine

/-- AND with a register and r/m (42 R332). -/
def execAndRmReg (d : Dir) (w : Width) (rm : Rm) (r : Reg) (s : State) : Answer := aluRmReg .and d w rm r s

/-- AND AL or AX with an immediate (42 R333). -/
def execAndAccImm (x : Imm) (s : State) : Answer := aluAccImm .and x s

/-- AND r/m with an immediate (42 R333). -/
def execAndRmImm (rm : Rm) (x : Imm) (s : State) : Answer := aluRmImm .and rm x s

/-- OR with a register and r/m (42 R334). -/
def execOrRmReg (d : Dir) (w : Width) (rm : Rm) (r : Reg) (s : State) : Answer := aluRmReg .or d w rm r s

/-- OR AL or AX with an immediate (42 R335). -/
def execOrAccImm (x : Imm) (s : State) : Answer := aluAccImm .or x s

/-- OR r/m with an immediate (42 R335). -/
def execOrRmImm (rm : Rm) (x : Imm) (s : State) : Answer := aluRmImm .or rm x s

/-- XOR with a register and r/m (42 R336). -/
def execXorRmReg (d : Dir) (w : Width) (rm : Rm) (r : Reg) (s : State) : Answer := aluRmReg .xor d w rm r s

/-- XOR AL or AX with an immediate (42 R337). -/
def execXorAccImm (x : Imm) (s : State) : Answer := aluAccImm .xor x s

/-- XOR r/m with an immediate (42 R337). -/
def execXorRmImm (rm : Rm) (x : Imm) (s : State) : Answer := aluRmImm .xor rm x s

/-- NOT: no flag changes (42 R331). -/
def execNotRm (w : Width) (rm : Rm) (s : State) : Answer :=
  modifyWith w rm (fun a => Width.trunc w (~~~a)) (fun _ => s.flags) s

/-- TEST: the flags of an AND, nothing stored (42 R338). -/
def testOperand (w : Width) (rm : Rm) (b : Word) (s : State) : Answer :=
  complete s do
    let a ← s.readRm w rm
    .ok (s.aluFlags .and w a b)

/-- TEST r/m with a register (42 R338). -/
def execTestRmReg (w : Width) (rm : Rm) (r : Reg) (s : State) : Answer := testOperand w rm (s.reg w r) s

/-- TEST AL or AX with an immediate (42 R339). -/
def execTestAccImm (x : Imm) (s : State) : Answer := testOperand x.width (.reg .ax) x.value s

/-- TEST r/m with an immediate (42 R339). -/
def execTestRmImm (rm : Rm) (x : Imm) (s : State) : Answer := testOperand x.width rm x.value s

/-! ### Shifts and rotates (42 R340-R348) -/

/-- The state after at least one step that left `y` and `cy`, OF being `of`; AF is free after a shift (42 R348). -/
def State.shifted (s : State) (op : ShiftOp) (w : Width) (rm : Rm) (y : Word × Bool) (of : Bool) : State :=
  ((s.setFlags (op.flags s.flags w y.1 y.2 of (s.freeBit 0))).tick 2).putBack w rm y.1

/-- The forms D0 and D1: one step (42 R340-R347). -/
def shiftOne (op : ShiftOp) (w : Width) (rm : Rm) (s : State) : Answer :=
  complete s do
    let x ← s.modifyRm w rm
    let y := op.once w (x, s.flags.cf)
    .ok (s.shifted op w rm y (op.overflow w x s.flags.cf y.1 y.2 (s.freeBit 1)))

/-- The forms D2, D3, C0 and C1: the count modulo 32; OF is free (42 R340, R348). A count of 0 changes nothing, but a
memory operand is still checked (92 D43); that it is not written back with its own value is a DESIGN CHOICE, the spec
says it may be (log 47). -/
def shiftCount (op : ShiftOp) (w : Width) (rm : Rm) (n : Byte) (s : State) : Answer :=
  complete s do
    let x ← s.modifyRm w rm
    let k := n.toNat % 32
    if k = 0 then .ok s
    else .ok (s.shifted op w rm (op.times w k (x, s.flags.cf)) (s.freeBit 1))

/-- CL, the count register. -/
def State.cl (s : State) : Byte := s.regs.cx.extractLsb' 0 8

/-- ROL by one (42 R344). -/
def execRolOne (w : Width) (rm : Rm) (s : State) : Answer := shiftOne .rol w rm s

/-- ROL by CL (42 R344, R348). -/
def execRolCl (w : Width) (rm : Rm) (s : State) : Answer := shiftCount .rol w rm s.cl s

/-- ROL by an immediate count (42 R344, R348). -/
def execRolImm (w : Width) (rm : Rm) (n : Byte) (s : State) : Answer := shiftCount .rol w rm n s

/-- ROR by one (42 R345). -/
def execRorOne (w : Width) (rm : Rm) (s : State) : Answer := shiftOne .ror w rm s

/-- ROR by CL (42 R345, R348). -/
def execRorCl (w : Width) (rm : Rm) (s : State) : Answer := shiftCount .ror w rm s.cl s

/-- ROR by an immediate count (42 R345, R348). -/
def execRorImm (w : Width) (rm : Rm) (n : Byte) (s : State) : Answer := shiftCount .ror w rm n s

/-- RCL by one (42 R346). -/
def execRclOne (w : Width) (rm : Rm) (s : State) : Answer := shiftOne .rcl w rm s

/-- RCL by CL (42 R346, R348). -/
def execRclCl (w : Width) (rm : Rm) (s : State) : Answer := shiftCount .rcl w rm s.cl s

/-- RCL by an immediate count (42 R346, R348). -/
def execRclImm (w : Width) (rm : Rm) (n : Byte) (s : State) : Answer := shiftCount .rcl w rm n s

/-- RCR by one (42 R347). -/
def execRcrOne (w : Width) (rm : Rm) (s : State) : Answer := shiftOne .rcr w rm s

/-- RCR by CL (42 R347, R348). -/
def execRcrCl (w : Width) (rm : Rm) (s : State) : Answer := shiftCount .rcr w rm s.cl s

/-- RCR by an immediate count (42 R347, R348). -/
def execRcrImm (w : Width) (rm : Rm) (n : Byte) (s : State) : Answer := shiftCount .rcr w rm n s

/-- SHL by one (42 R341). -/
def execShlOne (w : Width) (rm : Rm) (s : State) : Answer := shiftOne .shl w rm s

/-- SHL by CL (42 R341, R348). -/
def execShlCl (w : Width) (rm : Rm) (s : State) : Answer := shiftCount .shl w rm s.cl s

/-- SHL by an immediate count (42 R341, R348). -/
def execShlImm (w : Width) (rm : Rm) (n : Byte) (s : State) : Answer := shiftCount .shl w rm n s

/-- SHR by one (42 R342). -/
def execShrOne (w : Width) (rm : Rm) (s : State) : Answer := shiftOne .shr w rm s

/-- SHR by CL (42 R342, R348). -/
def execShrCl (w : Width) (rm : Rm) (s : State) : Answer := shiftCount .shr w rm s.cl s

/-- SHR by an immediate count (42 R342, R348). -/
def execShrImm (w : Width) (rm : Rm) (n : Byte) (s : State) : Answer := shiftCount .shr w rm n s

/-- SAR by one (42 R343). -/
def execSarOne (w : Width) (rm : Rm) (s : State) : Answer := shiftOne .sar w rm s

/-- SAR by CL (42 R343, R348). -/
def execSarCl (w : Width) (rm : Rm) (s : State) : Answer := shiftCount .sar w rm s.cl s

/-- SAR by an immediate count (42 R343, R348). -/
def execSarImm (w : Width) (rm : Rm) (n : Byte) (s : State) : Answer := shiftCount .sar w rm n s

end Sys2Proof.Machine
end

