-- ==== Sys2Proof/Machine/Strings.lean ====
section
/-! DEFINITION. The meanings of the string instructions and the repeat prefixes (43_string.md). -/

namespace Sys2Proof.Machine

/-- Advance SI or DI by the operand's size, down when DF is set (43 R360). -/
def State.advance (s : State) (w : Width) (r : Reg) : State :=
  let delta := BitVec.ofNat 16 w.bytes
  s.setReg16 r (if s.flags.df then s.reg16 r - delta else s.reg16 r + delta)

/-- The instruction goes on in the next step: IP is IP_inst again, where an interrupt taken between would return
(43 R380, 47 R493; log 18). -/
def State.goOn (s : State) (p : Progress) : State :=
  { s with ip := s.inst.ipInst, inst := { s.inst with progress := p }, fetch := { s.fetch with wrapped := false } }

/-- Whether a repeat ends after an iteration: CX exhausted, or the zero flag fails the condition of a comparing
instruction (43 R380, R384). -/
def State.repeatEnds (s : State) (p : Repeat) (compares : Bool) : Bool :=
  s.regs.cx == 0 || (compares && s.flags.zf != decide (p = .repe))

/-- One pass of a string instruction: once without a prefix; with one, nothing when CX is 0, else one iteration,
CX decremented with no flag changed (43 R380). -/
def stringPass (compares : Bool) (iteration : Exe State) (s : State) : Answer :=
  match s.inst.rep with
  | none => complete s iteration
  | some p =>
    if s.regs.cx = 0 then .next s
    else complete s do
      let t ← iteration
      let t := t.setReg16 .cx (t.regs.cx - 1)
      .ok (if t.repeatEnds p compares then t else t.goOn .iterate)

/-- The source element: DS:SI, DS replaced by an override (43 R360). -/
def State.readSource (s : State) (w : Width) : Exe Word := s.readMem w (s.overridden .ds) s.regs.si

/-- MOVS (43 R362). -/
def execMovs (w : Width) (s : State) : Answer :=
  stringPass false
    (do
      let v ← s.readSource w
      let t ← s.afterBus fun s => s.writeMem w .es s.regs.di v
      .ok ((t.advance w .si).advance w .di)) s

/-- CMPS: the ES:DI element subtracted from the source element (43 R363). Another master may write between its two
reads (20 R117). -/
def execCmps (w : Width) (s : State) : Answer :=
  stringPass true
    (do
      let a ← s.readSource w
      s.afterBus fun s => do
        let b ← s.readMem w .es s.regs.di
        .ok (((s.setFlags (s.flags.sub w false a b)).advance w .si).advance w .di)) s

/-- SCAS: the ES:DI element subtracted from AL or AX (43 R364). -/
def execScas (w : Width) (s : State) : Answer :=
  stringPass true
    (do
      let b ← s.readMem w .es s.regs.di
      .ok ((s.setFlags (s.flags.sub w false (s.reg w .ax) b)).advance w .di)) s

/-- LODS (43 R365). -/
def execLods (w : Width) (s : State) : Answer :=
  stringPass false
    (do
      let v ← s.readSource w
      .ok ((s.setReg w .ax v).advance w .si)) s

/-- STOS (43 R366). -/
def execStos (w : Width) (s : State) : Answer :=
  stringPass false
    (do
      let t ← s.writeMem w .es s.regs.di (s.reg w .ax)
      .ok (t.advance w .di)) s

/-- INS: the port is read after every check (43 R367). -/
def execIns (w : Width) (s : State) : Answer :=
  stringPass false
    (do
      s.ioCheck
      check (s.writeFault .es s.regs.di w.bytes)
      let (v, t) ← s.portIn w s.regs.dx
      .ok ((t.store w t.es t.regs.di v).advance w .di)) s

/-- OUTS (43 R368). -/
def execOuts (w : Width) (s : State) : Answer :=
  stringPass false
    (do
      s.ioCheck
      let v ← s.readSource w
      let t ← s.portOut w s.regs.dx v
      .ok (t.advance w .si)) s

/-- The repeat prefix in force for the instruction that follows; the last one of the class decides (30 R183). -/
def State.setRepeat (s : State) (p : Repeat) : State := { s with inst := { s.inst with rep := some p } }

/-- REP, REPE, REPZ (43 R380). Before an instruction that is not a string instruction it has no effect, where
REP_NONSTRING is not refuse (92 D23; log 13). -/
def execRep (s : State) : Answer := .next (s.setRepeat .repe)

/-- REPNE, REPNZ (43 R380). -/
def execRepne (s : State) : Answer := .next (s.setRepeat .repne)

end Sys2Proof.Machine
end

