-- ==== Sys2Proof/Machine/System.lean ====
section
/-! DEFINITION. The meanings of the processor control instructions, the other prefixes and the protection control
instructions (47_processor_control.md, 48_protection_control.md). -/

namespace Sys2Proof.Machine

/-! ### Flag operations (47 R481-R487) -/

/-- STC (47 R481). -/
def execStc (s : State) : Answer := .next (s.setFlags { s.flags with cf := true })

/-- CLC (47 R482). -/
def execClc (s : State) : Answer := .next (s.setFlags { s.flags with cf := false })

/-- CMC (47 R483). -/
def execCmc (s : State) : Answer := .next (s.setFlags { s.flags with cf := !s.flags.cf })

/-- STD (47 R484). -/
def execStd (s : State) : Answer := .next (s.setFlags { s.flags with df := true })

/-- CLD (47 R485). -/
def execCld (s : State) : Answer := .next (s.setFlags { s.flags with df := false })

/-- STI: INTR stays inhibited until the next instruction has executed (47 R486). -/
def execSti (s : State) : Answer :=
  complete s do
    s.ioCheck
    .ok { s.setFlags { s.flags with ifl := true } with inhibit := .intr }

/-- CLI (47 R487). -/
def execCli (s : State) : Answer :=
  complete s do
    s.ioCheck
    .ok (s.setFlags { s.flags with ifl := false })

/-! ### HLT, WAIT, ESC (47 R490-R493) -/

/-- The test of the privileged instructions: CPL = 0 else #GP(0) (60 R581). -/
def State.supervisorCheck (s : State) : Exe Unit := ensure s.supervisor (Exc.gp 0)

/-- HLT (47 R490). -/
def execHlt (s : State) : Answer :=
  complete s do
    s.supervisorCheck
    .ok { s with run := .halted }

/-- BUSY, inactive when no extension is attached (47 R493). -/
def State.busy (s : State) : Bool := s.npxPresent && s.pins.busy

/-- ERROR, inactive when no extension is attached (47 R493). -/
def State.extError (s : State) : Bool := s.npxPresent && s.pins.error

/-- WAIT (47 R493). -/
def execWait (s : State) : Answer :=
  complete s do
    ensure (!(s.mp && s.taskSwitched)) Exc.nm
    if s.busy then .ok (s.goOn .stall)
    else do
      ensure (!s.extError) Exc.mf
      .ok s

/-- The memory operand of an ESC: its starting address is checked as a word (47 R492, note 17). -/
def State.escFault (s : State) (ttt lll : BitVec 3) (rm : Rm) : Option Exc :=
  if Config.escWrites ttt lll rm then s.rmWriteFault .word rm else s.rmReadFault .word rm

/-- Hand an opcode, and for a memory form the operand's address, to the extension, which may then request operand
transfers (47 R492, 20 R124). Transfers that an earlier ESC enabled end here, a register form leaving none and a memory
form its own: DESIGN CHOICE, the spec does not say what becomes of them (47 R492, 70 R615, 91 N19; log 15). -/
def State.handEsc (s : State) (ttt lll : BitVec 3) (rm : Rm) : State :=
  match rm with
  | .reg _ => { s with out := .esc ttt lll rm none :: s.out, npx := none }
  | .mem m =>
    { s with
      out := .esc ttt lll rm (some ((s.seg (s.eaSeg m)).sel, s.ea m)) :: s.out
      npx :=
        some { seg := s.seg (s.eaSeg m), offset := (s.ea m).toNat, toMemory := Config.escWrites ttt lll rm } }

/-- ESC (47 R492): #NM when EM or TS is set; refused when no extension is attached (92 D19). An ESC that waits for BUSY
runs again whole in the next step, so that TS, EM and ERROR are tested anew and ERROR turning active in the wait is #MF:
DESIGN CHOICE, the listing tests ERROR once, before the wait, and gives re-execution for WAIT alone (log 15). -/
def execEsc (ttt lll : BitVec 3) (rm : Rm) (s : State) : Answer :=
  complete s do
    ensure (!(s.em || s.taskSwitched)) Exc.nm
    if !s.npxPresent then .error (.refuse .noExtension)
    else do
      check (s.escFault ttt lll rm)
      ensure (!(s.extError && Config.escTestsError ttt lll rm)) Exc.mf
      if s.busy && Config.escTestsBusy ttt lll rm then .ok (s.goOn .stall)
      else .ok (s.handEsc ttt lll rm)

/-! ### LOCK and segment override prefixes (47 R494, R495) -/

/-- LOCK: the I/O privilege test, before any check of the locked instruction (47 R494). -/
def execLock (s : State) : Answer :=
  complete s do
    s.ioCheck
    .ok { s with inst := { s.inst with lock := true } }

/-- A segment override; the last one decides (47 R495, 30 R183). -/
def execSeg (sr : SReg) (s : State) : Answer := .next { s with inst := { s.inst with seg := some sr } }

/-! ### The machine status word (47 R497, R498, 48 R529) -/

/-- MSW after LMSW: TS, EM, MP from the operand, PE only set, bits 15-4 kept (47 R497). -/
def mswLoaded (msw v : Word) : Word := (msw &&& 0xFFF1#16) ||| (v &&& 0x000F#16)

/-- LMSW: when PE is set here, the queue still holds bytes decoded under real-mode rules (47 R497, 70 R610). -/
def execLmsw (rm : Rm) (s : State) : Answer :=
  complete s do
    s.supervisorCheck
    let v ← s.readRm .word rm
    let t := { s with msw := mswLoaded s.msw v }
    .ok (if !s.pe && t.pe then { t with fetch := { t.fetch with lmswAt := some s.ip } } else t)

/-- SMSW (47 R498). -/
def execSmsw (rm : Rm) (s : State) : Answer := complete s (s.writeRm .word rm s.msw)

/-- CLTS (48 R529). -/
def execClts (s : State) : Answer :=
  complete s do
    s.supervisorCheck
    .ok (s.setTaskSwitched false)

/-! ### Descriptor table registers (48 R512-R515) -/

/-- The register six bytes of memory load: limit word, then 24 bits of base; the last byte is ignored
(48 R512). -/
def tableOfWords (w0 w1 w2 : Word) : TableReg := { base := w2.extractLsb' 0 8 ++ w1, limit := w0 }

/-- The table register operand of LGDT and LIDT (48 R512). -/
def State.readTable (s : State) (m : Mem) : Exe TableReg := do
  s.supervisorCheck
  let (w0, w1, w2) ← s.readTriple m
  .ok (tableOfWords w0 w1 w2)

/-- LGDT (48 R512). -/
def execLgdt (m : Mem) (s : State) : Answer :=
  complete s do
    let t ← s.readTable m
    .ok { s.yields 2 with gdtr := t }

/-- LIDT (48 R513). -/
def execLidt (m : Mem) (s : State) : Answer :=
  complete s do
    let t ← s.readTable m
    .ok { s.yields 2 with idtr := t }

/-- Store a table register as six bytes, the sixth a free value (48 R514; log 34). -/
def State.storeTable (s : State) (m : Mem) (t : TableReg) : Exe State :=
  (s.tick 1).writeTriple m t.limit (t.base.extractLsb' 0 16) (s.freeByte 0 ++ t.base.extractLsb' 16 8)

/-- SGDT (48 R514). -/
def execSgdt (m : Mem) (s : State) : Answer := complete s (s.storeTable m s.gdtr)

/-- SIDT (48 R515). -/
def execSidt (m : Mem) (s : State) : Answer := complete s (s.storeTable m s.idtr)

/-! ### LDTR and TR (48 R516-R519) -/

/-- Protected-mode-only instructions raise interrupt 6 in real mode (30 R197). -/
def State.protCheck (s : State) : Exe Unit := ensure s.prot Exc.ud

/-- LLDT: a null selector marks LDTR invalid (48 R516). -/
def execLldt (rm : Rm) (s : State) : Answer :=
  complete s do
    s.protCheck
    s.supervisorCheck
    let sel ← s.readRm .word rm
    if selNull sel then .ok { s with ldtr := { s.ldtr with sel := sel, valid := false } }
    else s.afterBus fun s => do
      let d ← orExc (s.testSel sel (ldtTest sel)) (Exc.gp (selCode sel false)) (Exc.np (selCode sel false))
      .ok { s with ldtr := { sel := sel, base := d.base, limit := d.word0, valid := true } }

/-- SLDT (48 R517). -/
def execSldt (rm : Rm) (s : State) : Answer :=
  complete s do
    s.protCheck
    s.writeRm .word rm s.ldtr.sel

/-- LTR: the TSS is marked busy; no task switch occurs (48 R518). The read of the descriptor and the store of its busy
bit are one locked sequence: DESIGN CHOICE, 20 R115 (d) can be read as two (log 42). -/
def execLtr (rm : Rm) (s : State) : Answer :=
  complete s do
    s.protCheck
    s.supervisorCheck
    let sel ← s.readRm .word rm
    s.afterBus fun s => do
      let d ← orExc (s.testSel sel (tssTest false sel)) (Exc.gp (selCode sel false)) (Exc.np (selCode sel false))
      .ok { s.putByte (d.addr + 5) (d.ar ||| 0x02#8) with tr := { sel := sel, base := d.base, limit := d.word0 } }

/-- STR (48 R519). -/
def execStr (rm : Rm) (s : State) : Answer :=
  complete s do
    s.protCheck
    s.writeRm .word rm s.tr.sel

/-! ### Selector tests (48 R520-R525) -/

/-- The descriptor a selector test examines: none for a null selector or beyond the table's limit (48 R520). -/
def State.seenDesc (s : State) (sel : Word) : Option Desc := if selNull sel then none else s.fetchDesc sel

/-- DPL is at least CPL and RPL, or the segment is conforming code (48 R521, 92 D46). -/
def State.visible (s : State) (sel : Word) (ar : Byte) : Bool :=
  (rightsSegment ar && rightsConforming ar) ||
    (decide (s.cpl ≤ rightsDpl ar) && decide (selRpl sel ≤ rightsDpl ar))

/-- The descriptor types LAR accepts: code and data segments, system types 1 to 7 (48 R521, 92 D46). -/
def larType (ar : Byte) : Bool :=
  rightsSegment ar || (decide (1 ≤ rightsType ar) && decide (rightsType ar ≤ 7))

/-- The descriptor types LSL accepts: code and data segments, TSS and LDT (48 R522). -/
def lslType (ar : Byte) : Bool :=
  rightsSegment ar || (decide (1 ≤ rightsType ar) && decide (rightsType ar ≤ 3))

/-- The segments VERR accepts (48 R523). -/
def verrType (ar : Byte) : Bool := rightsSegment ar && rightsReadable ar

/-- The segments VERW accepts (48 R524). -/
def verwType (ar : Byte) : Bool := rightsSegment ar && rightsWritable ar

/-- The result of a selector test: the descriptor when it is of an accepted type and visible (48 R520). -/
def State.selectorTest (s : State) (sel : Word) (type : Byte → Bool) : Option Desc :=
  match s.seenDesc sel with
  | some d => if type d.ar && s.visible sel d.ar then some d else none
  | none => none

/-- ZF, the success indicator (48 R520). -/
def State.setZf (s : State) (b : Bool) : State := s.setFlags { s.flags with zf := b }

/-- After a selector test the accessed bit of the code or data descriptor examined is a free value (20 R96,
92 D38; log 33). -/
def State.accessedFree (s : State) (sel : Word) : State :=
  match s.seenDesc sel with
  | some d =>
    if rightsSegment d.ar then
      (s.putByte (d.addr + 5) (if s.freeBit 0 then d.ar ||| 1 else d.ar &&& 0xFE#8)).tick 1
    else s
  | none => s

/-- LAR: the access rights byte in the high byte (48 R521). -/
def execLar (r : Reg) (rm : Rm) (s : State) : Answer :=
  complete s do
    s.protCheck
    let sel ← s.readRm .word rm
    s.afterBus fun s =>
      match s.selectorTest sel larType with
      | some d => .ok (((s.accessedFree sel).setZf true).setReg16 r (d.ar ++ 0#8))
      | none => .ok ((s.accessedFree sel).setZf false)

/-- LSL: the limit (48 R522). -/
def execLsl (r : Reg) (rm : Rm) (s : State) : Answer :=
  complete s do
    s.protCheck
    let sel ← s.readRm .word rm
    s.afterBus fun s =>
      match s.selectorTest sel lslType with
      | some d => .ok (((s.accessedFree sel).setZf true).setReg16 r d.word0)
      | none => .ok ((s.accessedFree sel).setZf false)

/-- VERR and VERW: ZF alone tells (48 R523, R524). -/
def verify (type : Byte → Bool) (rm : Rm) (s : State) : Answer :=
  complete s do
    s.protCheck
    let sel ← s.readRm .word rm
    s.afterBus fun s => .ok ((s.accessedFree sel).setZf (s.selectorTest sel type).isSome)

/-- VERR (48 R523). -/
def execVerr (rm : Rm) (s : State) : Answer := verify verrType rm s

/-- VERW (48 R524). -/
def execVerw (rm : Rm) (s : State) : Answer := verify verwType rm s

/-- ARPL: the RPL raised to that of the register; the operand must be writable even when nothing is written
(48 R525). -/
def execArpl (rm : Rm) (r : Reg) (s : State) : Answer :=
  complete s do
    s.protCheck
    let d ← s.modifyRm .word rm
    if selRpl d < selRpl (s.reg16 r) then
      .ok ((s.setZf true).putBack .word rm (selWithRpl d (selRpl (s.reg16 r))))
    else .ok (s.setZf false)

end Sys2Proof.Machine
end

