-- ==== Sys2Proof/Machine/Dispatch.lean ====
section
/-! DEFINITION. The dispatch: one arm for each constructor of `Instr`. -/

namespace Sys2Proof.Machine

def exec (i : Instr) (s : State) : Host.Outcome State Fault Refusal :=
  match i with
  | .addRmReg d w rm r => Sys2Proof.Machine.execAddRmReg d w rm r s
  | .addAccImm x => Sys2Proof.Machine.execAddAccImm x s
  | .addRmImm rm x => Sys2Proof.Machine.execAddRmImm rm x s
  | .addRmImm8 rm v => Sys2Proof.Machine.execAddRmImm8 rm v s
  | .orRmReg d w rm r => Sys2Proof.Machine.execOrRmReg d w rm r s
  | .orAccImm x => Sys2Proof.Machine.execOrAccImm x s
  | .orRmImm rm x => Sys2Proof.Machine.execOrRmImm rm x s
  | .adcRmReg d w rm r => Sys2Proof.Machine.execAdcRmReg d w rm r s
  | .adcAccImm x => Sys2Proof.Machine.execAdcAccImm x s
  | .adcRmImm rm x => Sys2Proof.Machine.execAdcRmImm rm x s
  | .adcRmImm8 rm v => Sys2Proof.Machine.execAdcRmImm8 rm v s
  | .sbbRmReg d w rm r => Sys2Proof.Machine.execSbbRmReg d w rm r s
  | .sbbAccImm x => Sys2Proof.Machine.execSbbAccImm x s
  | .sbbRmImm rm x => Sys2Proof.Machine.execSbbRmImm rm x s
  | .sbbRmImm8 rm v => Sys2Proof.Machine.execSbbRmImm8 rm v s
  | .andRmReg d w rm r => Sys2Proof.Machine.execAndRmReg d w rm r s
  | .andAccImm x => Sys2Proof.Machine.execAndAccImm x s
  | .andRmImm rm x => Sys2Proof.Machine.execAndRmImm rm x s
  | .subRmReg d w rm r => Sys2Proof.Machine.execSubRmReg d w rm r s
  | .subAccImm x => Sys2Proof.Machine.execSubAccImm x s
  | .subRmImm rm x => Sys2Proof.Machine.execSubRmImm rm x s
  | .subRmImm8 rm v => Sys2Proof.Machine.execSubRmImm8 rm v s
  | .xorRmReg d w rm r => Sys2Proof.Machine.execXorRmReg d w rm r s
  | .xorAccImm x => Sys2Proof.Machine.execXorAccImm x s
  | .xorRmImm rm x => Sys2Proof.Machine.execXorRmImm rm x s
  | .cmpRmReg d w rm r => Sys2Proof.Machine.execCmpRmReg d w rm r s
  | .cmpAccImm x => Sys2Proof.Machine.execCmpAccImm x s
  | .cmpRmImm rm x => Sys2Proof.Machine.execCmpRmImm rm x s
  | .cmpRmImm8 rm v => Sys2Proof.Machine.execCmpRmImm8 rm v s
  | .incReg r => Sys2Proof.Machine.execIncReg r s
  | .incRm w rm => Sys2Proof.Machine.execIncRm w rm s
  | .decReg r => Sys2Proof.Machine.execDecReg r s
  | .decRm w rm => Sys2Proof.Machine.execDecRm w rm s
  | .negRm w rm => Sys2Proof.Machine.execNegRm w rm s
  | .notRm w rm => Sys2Proof.Machine.execNotRm w rm s
  | .mulRm w rm => Sys2Proof.Machine.execMulRm w rm s
  | .imulRm w rm => Sys2Proof.Machine.execImulRm w rm s
  | .imulImm r rm v => Sys2Proof.Machine.execImulImm r rm v s
  | .imulImm8 r rm v => Sys2Proof.Machine.execImulImm8 r rm v s
  | .divRm w rm => Sys2Proof.Machine.execDivRm w rm s
  | .idivRm w rm => Sys2Proof.Machine.execIdivRm w rm s
  | .testRmReg w rm r => Sys2Proof.Machine.execTestRmReg w rm r s
  | .testAccImm x => Sys2Proof.Machine.execTestAccImm x s
  | .testRmImm rm x => Sys2Proof.Machine.execTestRmImm rm x s
  | .aaa => Sys2Proof.Machine.execAaa s
  | .daa => Sys2Proof.Machine.execDaa s
  | .aas => Sys2Proof.Machine.execAas s
  | .das => Sys2Proof.Machine.execDas s
  | .aam => Sys2Proof.Machine.execAam s
  | .aad => Sys2Proof.Machine.execAad s
  | .cbw => Sys2Proof.Machine.execCbw s
  | .cwd => Sys2Proof.Machine.execCwd s
  | .rolOne w rm => Sys2Proof.Machine.execRolOne w rm s
  | .rolCl w rm => Sys2Proof.Machine.execRolCl w rm s
  | .rolImm w rm n => Sys2Proof.Machine.execRolImm w rm n s
  | .rorOne w rm => Sys2Proof.Machine.execRorOne w rm s
  | .rorCl w rm => Sys2Proof.Machine.execRorCl w rm s
  | .rorImm w rm n => Sys2Proof.Machine.execRorImm w rm n s
  | .rclOne w rm => Sys2Proof.Machine.execRclOne w rm s
  | .rclCl w rm => Sys2Proof.Machine.execRclCl w rm s
  | .rclImm w rm n => Sys2Proof.Machine.execRclImm w rm n s
  | .rcrOne w rm => Sys2Proof.Machine.execRcrOne w rm s
  | .rcrCl w rm => Sys2Proof.Machine.execRcrCl w rm s
  | .rcrImm w rm n => Sys2Proof.Machine.execRcrImm w rm n s
  | .shlOne w rm => Sys2Proof.Machine.execShlOne w rm s
  | .shlCl w rm => Sys2Proof.Machine.execShlCl w rm s
  | .shlImm w rm n => Sys2Proof.Machine.execShlImm w rm n s
  | .shrOne w rm => Sys2Proof.Machine.execShrOne w rm s
  | .shrCl w rm => Sys2Proof.Machine.execShrCl w rm s
  | .shrImm w rm n => Sys2Proof.Machine.execShrImm w rm n s
  | .sarOne w rm => Sys2Proof.Machine.execSarOne w rm s
  | .sarCl w rm => Sys2Proof.Machine.execSarCl w rm s
  | .sarImm w rm n => Sys2Proof.Machine.execSarImm w rm n s
  | .movRmReg d w rm r => Sys2Proof.Machine.execMovRmReg d w rm r s
  | .movRmSreg rm sr => Sys2Proof.Machine.execMovRmSreg rm sr s
  | .movEsRm rm => Sys2Proof.Machine.execMovEsRm rm s
  | .movSsRm rm => Sys2Proof.Machine.execMovSsRm rm s
  | .movDsRm rm => Sys2Proof.Machine.execMovDsRm rm s
  | .movAccMem w a => Sys2Proof.Machine.execMovAccMem w a s
  | .movMemAcc w a => Sys2Proof.Machine.execMovMemAcc w a s
  | .movRegImm r x => Sys2Proof.Machine.execMovRegImm r x s
  | .movRmImm rm x => Sys2Proof.Machine.execMovRmImm rm x s
  | .pushReg r => Sys2Proof.Machine.execPushReg r s
  | .pushRm rm => Sys2Proof.Machine.execPushRm rm s
  | .pushSreg sr => Sys2Proof.Machine.execPushSreg sr s
  | .pushImm v => Sys2Proof.Machine.execPushImm v s
  | .pushImm8 v => Sys2Proof.Machine.execPushImm8 v s
  | .pusha => Sys2Proof.Machine.execPusha s
  | .popa => Sys2Proof.Machine.execPopa s
  | .popReg r => Sys2Proof.Machine.execPopReg r s
  | .popRm rm => Sys2Proof.Machine.execPopRm rm s
  | .popEs => Sys2Proof.Machine.execPopEs s
  | .popSs => Sys2Proof.Machine.execPopSs s
  | .popDs => Sys2Proof.Machine.execPopDs s
  | .xchgRmReg w rm r => Sys2Proof.Machine.execXchgRmReg w rm r s
  | .xchgAx r => Sys2Proof.Machine.execXchgAx r s
  | .nop => Sys2Proof.Machine.execNop s
  | .xlat => Sys2Proof.Machine.execXlat s
  | .inImm w p => Sys2Proof.Machine.execInImm w p s
  | .inDx w => Sys2Proof.Machine.execInDx w s
  | .outImm w p => Sys2Proof.Machine.execOutImm w p s
  | .outDx w => Sys2Proof.Machine.execOutDx w s
  | .lea r m => Sys2Proof.Machine.execLea r m s
  | .lds r m => Sys2Proof.Machine.execLds r m s
  | .les r m => Sys2Proof.Machine.execLes r m s
  | .lahf => Sys2Proof.Machine.execLahf s
  | .sahf => Sys2Proof.Machine.execSahf s
  | .pushf => Sys2Proof.Machine.execPushf s
  | .popf => Sys2Proof.Machine.execPopf s
  | .movs w => Sys2Proof.Machine.execMovs w s
  | .cmps w => Sys2Proof.Machine.execCmps w s
  | .stos w => Sys2Proof.Machine.execStos w s
  | .lods w => Sys2Proof.Machine.execLods w s
  | .scas w => Sys2Proof.Machine.execScas w s
  | .ins w => Sys2Proof.Machine.execIns w s
  | .outs w => Sys2Proof.Machine.execOuts w s
  | .rep => Sys2Proof.Machine.execRep s
  | .repne => Sys2Proof.Machine.execRepne s
  | .jo cb => Sys2Proof.Machine.execJo cb s
  | .jno cb => Sys2Proof.Machine.execJno cb s
  | .jb cb => Sys2Proof.Machine.execJb cb s
  | .jnb cb => Sys2Proof.Machine.execJnb cb s
  | .je cb => Sys2Proof.Machine.execJe cb s
  | .jne cb => Sys2Proof.Machine.execJne cb s
  | .jbe cb => Sys2Proof.Machine.execJbe cb s
  | .jnbe cb => Sys2Proof.Machine.execJnbe cb s
  | .js cb => Sys2Proof.Machine.execJs cb s
  | .jns cb => Sys2Proof.Machine.execJns cb s
  | .jp cb => Sys2Proof.Machine.execJp cb s
  | .jnp cb => Sys2Proof.Machine.execJnp cb s
  | .jl cb => Sys2Proof.Machine.execJl cb s
  | .jnl cb => Sys2Proof.Machine.execJnl cb s
  | .jle cb => Sys2Proof.Machine.execJle cb s
  | .jnle cb => Sys2Proof.Machine.execJnle cb s
  | .jcxz cb => Sys2Proof.Machine.execJcxz cb s
  | .loop cb => Sys2Proof.Machine.execLoop cb s
  | .loope cb => Sys2Proof.Machine.execLoope cb s
  | .loopne cb => Sys2Proof.Machine.execLoopne cb s
  | .jmpShort cb => Sys2Proof.Machine.execJmpShort cb s
  | .jmpNear cw => Sys2Proof.Machine.execJmpNear cw s
  | .jmpRm rm => Sys2Proof.Machine.execJmpRm rm s
  | .jmpFar off sel => Sys2Proof.Machine.execJmpFar off sel s
  | .jmpFarMem m => Sys2Proof.Machine.execJmpFarMem m s
  | .callNear cw => Sys2Proof.Machine.execCallNear cw s
  | .callRm rm => Sys2Proof.Machine.execCallRm rm s
  | .callFar off sel => Sys2Proof.Machine.execCallFar off sel s
  | .callFarMem m => Sys2Proof.Machine.execCallFarMem m s
  | .retNear => Sys2Proof.Machine.execRetNear s
  | .retNearImm n => Sys2Proof.Machine.execRetNearImm n s
  | .retFar => Sys2Proof.Machine.execRetFar s
  | .retFarImm n => Sys2Proof.Machine.execRetFarImm n s
  | .int3 => Sys2Proof.Machine.execInt3 s
  | .intImm v => Sys2Proof.Machine.execIntImm v s
  | .into => Sys2Proof.Machine.execInto s
  | .iret => Sys2Proof.Machine.execIret s
  | .enter size level => Sys2Proof.Machine.execEnter size level s
  | .leave => Sys2Proof.Machine.execLeave s
  | .bound r m => Sys2Proof.Machine.execBound r m s
  | .stc => Sys2Proof.Machine.execStc s
  | .clc => Sys2Proof.Machine.execClc s
  | .cmc => Sys2Proof.Machine.execCmc s
  | .std => Sys2Proof.Machine.execStd s
  | .cld => Sys2Proof.Machine.execCld s
  | .sti => Sys2Proof.Machine.execSti s
  | .cli => Sys2Proof.Machine.execCli s
  | .hlt => Sys2Proof.Machine.execHlt s
  | .esc ttt lll rm => Sys2Proof.Machine.execEsc ttt lll rm s
  | .wait => Sys2Proof.Machine.execWait s
  | .lock => Sys2Proof.Machine.execLock s
  | .seg sr => Sys2Proof.Machine.execSeg sr s
  | .lmsw rm => Sys2Proof.Machine.execLmsw rm s
  | .smsw rm => Sys2Proof.Machine.execSmsw rm s
  | .lgdt m => Sys2Proof.Machine.execLgdt m s
  | .lidt m => Sys2Proof.Machine.execLidt m s
  | .sgdt m => Sys2Proof.Machine.execSgdt m s
  | .sidt m => Sys2Proof.Machine.execSidt m s
  | .lldt rm => Sys2Proof.Machine.execLldt rm s
  | .sldt rm => Sys2Proof.Machine.execSldt rm s
  | .ltr rm => Sys2Proof.Machine.execLtr rm s
  | .str rm => Sys2Proof.Machine.execStr rm s
  | .lar r rm => Sys2Proof.Machine.execLar r rm s
  | .lsl r rm => Sys2Proof.Machine.execLsl r rm s
  | .verr rm => Sys2Proof.Machine.execVerr rm s
  | .verw rm => Sys2Proof.Machine.execVerw rm s
  | .arpl rm r => Sys2Proof.Machine.execArpl rm r s
  | .clts => Sys2Proof.Machine.execClts s

end Sys2Proof.Machine
end

