-- ==== Sys2Proof/Machine/Fetch.lean ====
section
/-! DEFINITION. Fetching and decoding the next instruction (20 R100, R120, 30 R193). -/

namespace Sys2Proof.Machine

/-- How many instruction bytes there are from IP to the end of the code segment (20 R84, R100). -/
def State.fetchable (s : State) : Nat :=
  if s.prot then
    if s.cs.valid then s.cs.limit.toNat + 1 - s.ip.toNat else 0
  else 2 ^ 16 - s.ip.toNat

/-- The byte the queue gives for a physical address whose memory byte is `v`: for each old value it may still hold,
a draw decides (20 R120; log 20). -/
def queueByte (draws : Nat) (p : Nat) (v : Byte) : Nat → List Host.Cell → Byte
  | _, [] => v
  | j, (a, old) :: rest =>
    if a = p && Config.freeBit (draws + j) then old else queueByte draws p v (j + 1) rest

/-- Whether what stands at IP may have been decoded before an LMSW set PE: it begins within PREFETCH_WINDOW bytes after
the LMSW with no transfer since (70 R610; log 21). -/
def State.nearLmsw (s : State) : Bool :=
  match s.fetch.lmswAt with
  | some a => decide ((s.ip - a).toNat < Config.prefetchWindow)
  | none => false

/-- The address the instruction byte at an offset from IP is fetched from. Behind an LMSW that set PE the byte may have
been fetched before it, in real mode: a draw for each byte decides under which mode's rules its address is formed (70
R610, 20 R85; log 21). -/
def State.fetchAddr (s : State) (k : Nat) : Nat :=
  s.cs.translate (s.prot && !(s.nearLmsw && s.freeBit (s.fetch.stale.length + k))) (s.ip + BitVec.ofNat 16 k)

/-- The instruction byte at an offset from IP. -/
def State.fetchByte (s : State) (k : Nat) : Byte :=
  queueByte s.draws (s.physAddr (s.fetchAddr k)) (s.byteAt (s.fetchAddr k)) 0 s.fetch.stale

/-- The next n instruction bytes. -/
def State.fetchBytes (s : State) (n : Nat) : List Byte := (List.range n).map s.fetchByte

/-- The exception a decoding failure raises: beyond the code segment's limit #GP(0); longer than 10 bytes or
undefined #UD; an undefined PUSH or POP encoding exception 13 (30 R183, R193, R195-R199). -/
def decodeExc (available : Nat) : DecodeError → Exc
  | .needMore => if Config.maxLength < available then Exc.ud else Exc.gp 0
  | .undefinedOpcode => Exc.ud
  | .memoryRequired => Exc.ud
  | .undefinedPushPop => Exc.gp 0

/-- The instruction at CS:IP, prefixes included, or the exception its decoding raises (30 R193). -/
def State.fetchDecode (s : State) : Except Exc Decoded :=
  match decode (s.fetchBytes (min s.fetchable Config.maxLength)) with
  | .ok d => .ok d
  | .error e => .error (decodeExc s.fetchable e)

/-- A string instruction, to which a repeat prefix applies (43 R380). -/
def isString : Instr → Bool
  | .movs _ => true
  | .cmps _ => true
  | .stos _ => true
  | .lods _ => true
  | .scas _ => true
  | .ins _ => true
  | .outs _ => true
  | _ => false

/-- A near JMP, which behaves alike under both modes' rules (70 R610). -/
def isNearJump : Instr → Bool
  | .jmpShort _ => true
  | .jmpNear _ => true
  | .jmpRm _ => true
  | _ => false

/-- Whether a draw decides between the two modes' rules for the instruction fetched, or for the exception of one that
cannot be decoded. -/
def State.inLmswWindow (s : State) (i : Option Instr) : Bool := s.nearLmsw && !i.any isNearJump

/-- How many draws the bytes fetched use: one for each old byte, one for the address of each byte behind LMSW. -/
def State.byteDraws (s : State) : Nat := s.fetch.stale.length + (if s.nearLmsw then Config.maxLength else 0)

/-- How many draws fetching uses: those of its bytes, one for the mode rules. -/
def State.fetchDraws (s : State) (i : Option Instr) : Nat := s.byteDraws + (if s.inLmswWindow i then 1 else 0)

/-- The mode rules drawn for what was fetched: real-mode rules although PE is set (70 R610). -/
def State.drawsReal (s : State) (i : Option Instr) : Bool := s.inLmswWindow i && s.freeBit s.byteDraws

/-- The state in which a decoded instruction executes: IP is IP_next, IP_inst its first byte (30 R193); the inhibit
shadow ends with this instruction (10 R50). Under real-mode rules, those drawn after LMSW included, an instruction that
ends at offset FFFFH leaves the mark of the wrap (70 R610, 93 U34; log 22). -/
def State.beginInst (s : State) (d : Decoded) (realRules : Bool) : State :=
  { s with
    ip := s.ip + BitVec.ofNat 16 d.length
    inhibit := .none
    fetch := { s.fetch with wrapped := !(s.pe && !realRules) && decide (s.ip.toNat + d.length = 2 ^ 16) }
    inst := { InstState.idle with ipInst := s.ip, code := some d, active := true, realRules := realRules } }

/-- The instruction just fetched, ready to execute. -/
def State.beginFetched (s : State) (d : Decoded) : State :=
  (s.beginInst d (s.drawsReal (some d.instr))).tick (s.fetchDraws (some d.instr))

end Sys2Proof.Machine
end

