-- ==== Sys2Proof/Machine/Run.lean ====
section
/-! DEFINITION. Executing one decoded instruction with its prefixes, and what follows it (00 R11). -/

namespace Sys2Proof.Machine

/-- Run the prefixes and the instruction in order; an exception taken ends the instruction (log 18). -/
def runItems : List Instr → State → Answer
  | [], s => .next s
  | i :: is, s =>
    match exec i s with
    | .next t => if t.inst.active then runItems is t else .next t
    | .fault r => .fault r
    | .refused r => .refused r

/-- What the instruction in progress leaves for the next step: nothing once it is complete, else its decoded form
(43 R380; log 18) and, between iterations, its LOCK (47 R494). -/
def InstState.carried (i : InstState) : InstState :=
  match i.progress with
  | .complete => InstState.idle
  | .iterate => { InstState.idle with code := i.code, realRules := i.realRules, lock := i.lock }
  | .stall => { InstState.idle with code := i.code, realRules := i.realRules }

/-- The end of an instruction that started in state `s`: a single-step trap is pending if TF was set when it started
and it has not ended in shutdown (60 R555); the inhibit shadow stays while the instruction goes on (10 R50). -/
def State.finishInst (s t : State) : State :=
  { t with
    stepTrap := t.stepTrap || (s.flags.tf && t.inst.progress != .stall && decide (t.run ≠ .shutdown))
    inhibit := if t.inst.progress = .complete then t.inhibit else s.inhibit
    inst := t.inst.carried }

/-- The answer of an instruction that started in `s`. -/
def finish (s : State) (a : Answer) : Answer :=
  match a with
  | .next t => .next (s.finishInst t)
  | .fault r => .fault r
  | .refused r => .refused r

/-- An exception of fetching or decoding: no instruction has begun, the saved IP is IP (20 R100, 30 R193); `real` is the
mode rules drawn for it. -/
def State.fetchFault (s : State) (e : Exc) (real : Bool) : Answer :=
  finish s
    (raise e.event s.ip
      { s with
        inhibit := .none
        fetch := { s.fetch with wrapped := false }
        inst := { InstState.idle with ipInst := s.ip, active := true, realRules := real } })

/-- Whether the platform declines a repeat prefix that stands before this instruction (92 D23; log 13). -/
def State.declines (s : State) (d : Decoded) : Bool :=
  !s.platform.repIgnored && d.prefixes.any (fun p => p == .rep || p == .repne) && !isString d.instr

/-- Fetch, decode and execute the instruction at CS:IP (00 R11, steps 4 to 7); another master may write between the
fetch and the instruction's own accesses (20 R117). -/
def State.fetchExecute (s : State) : Answer :=
  match s.fetchDecode with
  | .ok d =>
    if s.declines d then .refused .repNonString
    else finish s (runItems (d.prefixes ++ [d.instr]) (s.beginFetched d).yieldBus)
  | .error e => (s.tick (s.fetchDraws none)).fetchFault e (s.drawsReal none)

/-- Execute one instruction, or go on with one (00 R11). After sequential flow has run past FFFFH in real mode a draw of
its own decides between interrupt 13, under the mode rules drawn as for a decoding failure (70 R610), and going on at
0000H (93 U34; logs 21, 22). -/
def State.runInstruction (s : State) : Answer :=
  match s.inst.code with
  | some d => finish s (runItems (d.prefixes ++ [d.instr]) (s.beginInst d s.inst.realRules))
  | none =>
    if s.fetch.wrapped then
      let t := s.tick 1
      if s.freeBit 0 then (t.tick (t.fetchDraws none)).fetchFault (Exc.gp 0) (t.drawsReal none) else t.fetchExecute
    else s.fetchExecute

end Sys2Proof.Machine
end

