-- ==== Sys2Proof/Machine/Step.lean ====
section
/-! DEFINITION. One step of the processor (00 R11), and where the next instruction is fetched. -/

namespace Sys2Proof.Machine

/-- What the processor does in one step once its inputs are sampled, without RESET (00 R11): in shutdown or halted it
stays unless a waking event is present; at the boundary it delivers the pending events; then it executes one
instruction. -/
def State.proceed (s : State) : Answer :=
  match s.run with
  | .shutdown => s.shutdownStep State.runInstruction
  | .halted =>
    if Source.all.any fun q => (s.request q).isSome then deliverEach State.runInstruction Source.all s else .next s
  | .running => deliverEach State.runInstruction Source.all s

/-- One step (00 R11): sample the inputs; RESET, which may cut short what the processor was doing; HOLD; else go on. -/
def step (s : State) : Host.Outcome State Fault Refusal :=
  let t := s.sample
  match t.pins.reset with
  | some k => .next (t.resetAfter k t.proceed)
  | none => if t.onHold then .next t else t.proceed

/-- The state with the instruction of a table word stored where the next step fetches: at CS:IP, zeros after it up
to the longest instruction (log 31). -/
def State.withFetchWord (s : State) (nbits w : Nat) : State :=
  let put := fun (m : Memory × Nat) (b : Byte) =>
    (m.1.set (s.physAddr (s.translate s.cs (s.ip + BitVec.ofNat 16 m.2))) b, m.2 + 1)
  { s with
    mem := ((tableImage nbits w).foldl put (s.mem, 0)).1
    fetch := FetchState.empty
    inst := InstState.idle }

end Sys2Proof.Machine
end

