-- ==== Sys2Proof/Safety.lean ====
section
/-! DEFINITION. The terms in which claims about the machine are stated: what an instruction may change, the shapes
instructions come in, the results the spec gives in plain arithmetic, and the invariants of a run. -/

namespace Sys2Proof

/-! ### Values -/

/-- Whether a signed value fits an operand of this width (10 R35). -/
def Width.fits (w : Width) (n : Int) : Bool := decide (-(2 ^ (w.bits - 1) : Int) ≤ n) && decide (n < 2 ^ (w.bits - 1))

/-- Whether the low eight bits hold an even number of ones (10 R29). -/
def evenOnes (v : Word) : Bool := decide ((List.range 8).countP (fun i => v.getLsbD i) % 2 = 0)

namespace Machine

/-- SF, ZF and PF are those of a result (00 R9). -/
def Flags.ShowResult (f : Flags) (w : Width) (r : Word) : Prop :=
  f.sf = decide (2 ^ (w.bits - 1) ≤ r.toNat) ∧ f.zf = decide (r.toNat = 0) ∧ f.pf = evenOnes r

/-- Only the six status flags may differ. -/
def Flags.StatusOnly (f g : Flags) : Prop :=
  g = { f with cf := g.cf, pf := g.pf, af := g.af, zf := g.zf, sf := g.sf, of := g.of }

/-! ### Frames -/

/-- Every byte of memory outside the listed physical addresses reads as before. -/
def State.MemoryKept (s t : State) (cells : List Nat) : Prop :=
  ∀ a, s.physAddr a ∉ cells → t.byteAt a = s.byteAt a

/-- The physical addresses of an operand at an offset of a segment. -/
def State.cells (s : State) (w : Width) (g : Segment) (off : Word) : List Nat :=
  match w with
  | .byte => [s.physAddr (s.translate g off)]
  | .word => [s.physAddr (s.translate g off), s.physAddr (s.translate g off + 1)]

/-- The physical addresses an r/m operand occupies: none for a register. -/
def State.rmCells (s : State) (w : Width) : Rm → List Nat
  | .reg _ => []
  | .mem m => s.cells w (s.seg (s.eaSeg m)) (s.ea m)

/-- The physical addresses of n words from an offset of the stack segment upward. -/
def State.stackCells (s : State) (off : Word) : Nat → List Nat
  | 0 => []
  | n + 1 => s.cells .word s.ss off ++ s.stackCells (off + 2) n

/-- Every general register but one of a width is as before: a byte register is half of a word register (10 R21). -/
def Regs.SameBut (g h : Regs) (w : Width) (r : Reg) : Prop :=
  match w with
  | .word => ∀ q, q ≠ r → h.get q = g.get q
  | .byte => (∀ q, q ≠ r → h.getByte q = g.getByte q) ∧ h.sp = g.sp ∧ h.bp = g.bp ∧ h.si = g.si ∧ h.di = g.di

/-- Nothing but general registers, flags, memory, the record of this step's stores, the queue's copies of stored bytes
and the count of free values may differ: IP, MSW, segment registers, table registers, LDTR, TR, run state, interrupt
state, output and the rest are as before. -/
def State.DataOnly (s t : State) : Prop :=
  t = { s with
    regs := t.regs, flags := t.flags, mem := t.mem, writes := t.writes
    fetch := { s.fetch with stale := t.fetch.stale }, draws := t.draws }

/-- Nothing but general registers, flags and the count of free values may differ; memory is as before. -/
def State.RegsFlagsOnly (s t : State) : Prop := t = { s with regs := t.regs, flags := t.flags, draws := t.draws }

/-- Of the general registers and memory, only an r/m operand may differ. -/
def State.OperandOnly (s t : State) (w : Width) (rm : Rm) : Prop :=
  s.MemoryKept t (s.rmCells w rm) ∧
    match rm with
    | .reg r => s.regs.SameBut t.regs w r
    | .mem _ => t.regs = s.regs

/-- The platform decodes the address lines A15-A0, so that the bytes of an operand are as many bytes of memory
(00 R5, 20 R80; 92 D2). -/
abbrev State.LowDecoded (s : State) : Prop := s.platform.addrMask.toNat % 2 ^ 16 = 0xFFFF

/-- An r/m operand holds a value afterwards, a word of memory where the platform keeps its two bytes apart; no other
register and no byte outside it differs. -/
def State.Writes (s t : State) (w : Width) (rm : Rm) (v : Word) : Prop :=
  ((∃ r, rm = .reg r) ∨ w = .byte ∨ s.LowDecoded → t.rmValue w rm = v) ∧ s.OperandOnly t w rm

/-- The state in which an r/m operand that has been read is written: before a store another master may have written
memory (20 R117, R119). -/
def State.beforeWrite (s : State) : Rm → State
  | .reg _ => s
  | .mem _ => s.yieldBus

/-- No other user of the bus is to act inside this step (20 R117). -/
abbrev State.Quiet (s : State) : Prop := s.bus = []

/-! ### Shapes of the two-operand instructions (30 R189, R191, R192) -/

/-- The operand forms of opcodes 00-3F and of group 1. -/
inductive AluForm where
  | rmReg (d : Dir) (w : Width) (rm : Rm) (r : Reg)
  | accImm (x : Imm)
  | rmImm (rm : Rm) (x : Imm)
  | rmImm8 (rm : Rm) (v : Byte)
  deriving DecidableEq, Repr

/-- The instruction of an operation and a form; OR, AND and XOR have no sign-extended form (42 R330). -/
def AluForm.instr : AluOp → AluForm → Option Instr
  | .add, .rmReg d w rm r => some (.addRmReg d w rm r)
  | .add, .accImm x => some (.addAccImm x)
  | .add, .rmImm rm x => some (.addRmImm rm x)
  | .add, .rmImm8 rm v => some (.addRmImm8 rm v)
  | .or, .rmReg d w rm r => some (.orRmReg d w rm r)
  | .or, .accImm x => some (.orAccImm x)
  | .or, .rmImm rm x => some (.orRmImm rm x)
  | .or, .rmImm8 _ _ => none
  | .adc, .rmReg d w rm r => some (.adcRmReg d w rm r)
  | .adc, .accImm x => some (.adcAccImm x)
  | .adc, .rmImm rm x => some (.adcRmImm rm x)
  | .adc, .rmImm8 rm v => some (.adcRmImm8 rm v)
  | .sbb, .rmReg d w rm r => some (.sbbRmReg d w rm r)
  | .sbb, .accImm x => some (.sbbAccImm x)
  | .sbb, .rmImm rm x => some (.sbbRmImm rm x)
  | .sbb, .rmImm8 rm v => some (.sbbRmImm8 rm v)
  | .and, .rmReg d w rm r => some (.andRmReg d w rm r)
  | .and, .accImm x => some (.andAccImm x)
  | .and, .rmImm rm x => some (.andRmImm rm x)
  | .and, .rmImm8 _ _ => none
  | .sub, .rmReg d w rm r => some (.subRmReg d w rm r)
  | .sub, .accImm x => some (.subAccImm x)
  | .sub, .rmImm rm x => some (.subRmImm rm x)
  | .sub, .rmImm8 rm v => some (.subRmImm8 rm v)
  | .xor, .rmReg d w rm r => some (.xorRmReg d w rm r)
  | .xor, .accImm x => some (.xorAccImm x)
  | .xor, .rmImm rm x => some (.xorRmImm rm x)
  | .xor, .rmImm8 _ _ => none
  | .cmp, .rmReg d w rm r => some (.cmpRmReg d w rm r)
  | .cmp, .accImm x => some (.cmpAccImm x)
  | .cmp, .rmImm rm x => some (.cmpRmImm rm x)
  | .cmp, .rmImm8 rm v => some (.cmpRmImm8 rm v)

/-- The operand width of a form. -/
def AluForm.width : AluForm → Width
  | .rmReg _ w _ _ => w
  | .accImm x => x.width
  | .rmImm _ x => x.width
  | .rmImm8 _ _ => .word

/-- The destination (first) operand of a form. -/
def AluForm.dest : AluForm → Rm
  | .rmReg .toRm _ rm _ => rm
  | .rmReg .toReg _ _ r => .reg r
  | .accImm _ => .reg .ax
  | .rmImm rm _ => rm
  | .rmImm8 rm _ => rm

/-- The source (second) operand's value. -/
def AluForm.source (x : AluForm) (s : State) : Word :=
  match x with
  | .rmReg .toRm w _ r => s.reg w r
  | .rmReg .toReg w rm _ => s.rmValue w rm
  | .accImm x => x.value
  | .rmImm _ x => x.value
  | .rmImm8 _ v => signExtend v

/-- The exception of the memory operand's check: std-read as a source, std-read or std-write as a destination
(41 R282, R295). -/
def AluForm.fault (x : AluForm) (stores : Bool) (s : State) : Option Exc :=
  match x with
  | .rmReg .toReg w rm _ => s.rmReadFault w rm
  | .rmReg .toRm w rm _ => if stores then s.rmWriteFault w rm else s.rmReadFault w rm
  | .accImm _ => none
  | .rmImm rm x => if stores then s.rmWriteFault x.width rm else s.rmReadFault x.width rm
  | .rmImm8 rm _ => if stores then s.rmWriteFault .word rm else s.rmReadFault .word rm

/-- The memory operand passes its check. -/
def AluForm.ready (x : AluForm) (stores : Bool) (s : State) : Prop := x.fault stores s = none

/-- The instructions of one shift or rotate: by one, by CL, by an immediate (42 R340). -/
def ShiftOp.instrOne (op : ShiftOp) (w : Width) (rm : Rm) : Instr :=
  match op with
  | .rol => .rolOne w rm
  | .ror => .rorOne w rm
  | .rcl => .rclOne w rm
  | .rcr => .rcrOne w rm
  | .shl => .shlOne w rm
  | .shr => .shrOne w rm
  | .sar => .sarOne w rm

/-- The form by CL. -/
def ShiftOp.instrCl (op : ShiftOp) (w : Width) (rm : Rm) : Instr :=
  match op with
  | .rol => .rolCl w rm
  | .ror => .rorCl w rm
  | .rcl => .rclCl w rm
  | .rcr => .rcrCl w rm
  | .shl => .shlCl w rm
  | .shr => .shrCl w rm
  | .sar => .sarCl w rm

/-- The form by an immediate. -/
def ShiftOp.instrImm (op : ShiftOp) (w : Width) (rm : Rm) (n : Byte) : Instr :=
  match op with
  | .rol => .rolImm w rm n
  | .ror => .rorImm w rm n
  | .rcl => .rclImm w rm n
  | .rcr => .rcrImm w rm n
  | .shl => .shlImm w rm n
  | .shr => .shrImm w rm n
  | .sar => .sarImm w rm n

/-- The r/m operand of an arithmetic, logic, shift or rotate instruction fails its check with an exception: CMP, the
multiplications and the divisions only read it. -/
def State.OperandFault (s : State) (i : Instr) (e : Exc) : Prop :=
  (∃ op x, AluForm.instr op x = some i ∧ x.fault (decide (op ≠ .cmp)) s = some e) ∨
  (∃ w rm, (i = .incRm w rm ∨ i = .decRm w rm ∨
      ∃ op : ShiftOp, i = op.instrOne w rm ∨ i = op.instrCl w rm ∨ ∃ n, i = op.instrImm w rm n) ∧
    s.rmWriteFault w rm = some e) ∨
  (∃ w rm, (i = .mulRm w rm ∨ i = .imulRm w rm ∨ i = .divRm w rm ∨ i = .idivRm w rm) ∧ s.rmReadFault w rm = some e) ∨
  (∃ r rm, ((∃ k, i = .imulImm r rm k) ∨ ∃ b, i = .imulImm8 r rm b) ∧ s.rmReadFault .word rm = some e)

/-- The r/m operand of an instruction that reads one word, or for ARPL may write it, fails its check, the tests of
privilege and mode passed: PUSH, near JMP and CALL, MOV to a segment register, LMSW, LLDT, LTR, the selector tests; and
an ESC whose operand can be neither read nor written (00 R13, 47 R492). -/
def State.WordFault (s : State) (i : Instr) (e : Exc) : Prop :=
  (∃ rm, s.rmReadFault .word rm = some e ∧
    ((i = .pushRm rm ∨ i = .jmpRm rm ∨ i = .callRm rm ∨ i = .movEsRm rm ∨ i = .movSsRm rm ∨ i = .movDsRm rm) ∨
      (i = .lmsw rm ∧ (s.prot = true → s.cpl = 0)) ∨
      ((i = .lldt rm ∨ i = .ltr rm) ∧ s.prot = true ∧ s.cpl = 0) ∨
      ((i = .verr rm ∨ i = .verw rm ∨ ∃ r, i = .lar r rm ∨ i = .lsl r rm) ∧ s.prot = true))) ∨
  (∃ rm, s.rmWriteFault .word rm = some e ∧
    ((∃ r, i = .arpl rm r ∧ s.prot = true) ∨
      (∃ ttt lll, i = .esc ttt lll rm ∧ s.rmReadFault .word rm = some e ∧ s.msw.getLsbD 2 = false ∧
        s.msw.getLsbD 3 = false ∧ s.npxPresent = true)))

/-- An element of a string instruction fails its check, the first that does deciding; the repetition is not over and,
for INS and OUTS, the I/O privilege test passes (43 R361, R367, R368, R386). -/
def State.StringFault (s : State) (i : Instr) (e : Exc) : Prop :=
  (s.inst.rep ≠ none → s.regs.cx ≠ 0) ∧ ∃ w : Width,
    let source := s.readFault (s.overridden .ds) s.regs.si w.bytes
    let read := s.readFault .es s.regs.di w.bytes
    let write := s.writeFault .es s.regs.di w.bytes
    let io := s.prot = true → s.cpl ≤ s.flags.iopl.toNat
    (i = .movs w ∧ [source, write].findSome? id = some e) ∨ (i = .cmps w ∧ [source, read].findSome? id = some e) ∨
      (i = .scas w ∧ read = some e) ∨ (i = .lods w ∧ source = some e) ∨ (i = .stos w ∧ write = some e) ∨
      (i = .ins w ∧ io ∧ write = some e) ∨ (i = .outs w ∧ io ∧ source = some e)

/-- An operand of two or three words fails the check of one of them, the first that does deciding: the pointers of LDS,
LES and far JMP and CALL, the bounds of BOUND, the tables of LGDT, LIDT, SGDT and SIDT (20 R84, 30 R185, 48 R512). -/
def State.WideFault (s : State) (i : Instr) (e : Exc) : Prop :=
  ∃ m : Mem,
    let r := s.eaSeg m
    let a := s.ea m
    (((∃ q, i = .lds q m ∨ i = .les q m ∨ i = .bound q m) ∨ i = .jmpFarMem m ∨ i = .callFarMem m) ∧
      [s.readFault r a 2, s.readPart r a 2].findSome? id = some e) ∨
    ((i = .lgdt m ∨ i = .lidt m) ∧ (s.prot = true → s.cpl = 0) ∧
      [s.readFault r a 2, s.readPart r a 2, s.readPart r a 4].findSome? id = some e) ∨
    ((i = .sgdt m ∨ i = .sidt m) ∧
      [s.writeFault r a 2, s.writePart r a 2, s.writePart r a 4].findSome? id = some e)

/-- One single-bit step in plain arithmetic on an n-bit operand and the carry (42 R341-R347). -/
def ShiftOp.arith (op : ShiftOp) (n : Nat) (p : Nat × Nat) : Nat × Nat :=
  let top := p.1 / 2 ^ (n - 1)
  let low := p.1 % 2
  match op with
  | .rol => (p.1 * 2 % 2 ^ n + top, top)
  | .ror => (p.1 / 2 + low * 2 ^ (n - 1), low)
  | .rcl => (p.1 * 2 % 2 ^ n + p.2, top)
  | .rcr => (p.1 / 2 + p.2 * 2 ^ (n - 1), low)
  | .shl => (p.1 * 2 % 2 ^ n, top)
  | .shr => (p.1 / 2, low)
  | .sar => (p.1 / 2 + top * 2 ^ (n - 1), low)

/-! ### Conditional jumps (44 R393, R394) -/

/-- The conditional jumps with their conditions, as the table of 44 R393 gives them, and JCXZ. -/
inductive Jump where
  | o | no | b | nb | e | ne | be | nbe | s | ns | p | np | l | nl | le | nle | cxz
  deriving DecidableEq, Repr

/-- The instruction. -/
def Jump.instr (j : Jump) (cb : Byte) : Instr :=
  match j with
  | .o => .jo cb
  | .no => .jno cb
  | .b => .jb cb
  | .nb => .jnb cb
  | .e => .je cb
  | .ne => .jne cb
  | .be => .jbe cb
  | .nbe => .jnbe cb
  | .s => .js cb
  | .ns => .jns cb
  | .p => .jp cb
  | .np => .jnp cb
  | .l => .jl cb
  | .nl => .jnl cb
  | .le => .jle cb
  | .nle => .jnle cb
  | .cxz => .jcxz cb

/-- The condition. -/
def Jump.taken (j : Jump) (s : State) : Prop :=
  match j with
  | .o => s.flags.of = true
  | .no => s.flags.of = false
  | .b => s.flags.cf = true
  | .nb => s.flags.cf = false
  | .e => s.flags.zf = true
  | .ne => s.flags.zf = false
  | .be => s.flags.cf = true ∨ s.flags.zf = true
  | .nbe => s.flags.cf = false ∧ s.flags.zf = false
  | .s => s.flags.sf = true
  | .ns => s.flags.sf = false
  | .p => s.flags.pf = true
  | .np => s.flags.pf = false
  | .l => s.flags.sf ≠ s.flags.of
  | .nl => s.flags.sf = s.flags.of
  | .le => s.flags.zf = true ∨ s.flags.sf ≠ s.flags.of
  | .nle => s.flags.zf = false ∧ s.flags.sf = s.flags.of
  | .cxz => s.regs.cx = 0

/-- An offset is within the limit of the current code segment; real mode has none (44 R392). -/
def State.InCode (s : State) (off : Word) : Prop := s.prot = true → off.toNat ≤ s.cs.limit.toNat

/-- The state after a near transfer. -/
def State.at (s : State) (off : Word) : State := { s with ip := off, fetch := FetchState.empty }

/-- A segment register after a real-mode load: base 16 times the selector, 64K, usable, with the rights every segment of
real mode has (20 R106, 44 R403; the byte 93H is log 29). -/
def Segment.RealLoad (g : Segment) (sel : Word) : Prop :=
  g.sel = sel ∧ g.base.toNat = 16 * sel.toNat ∧ g.limit = 0xFFFF#16 ∧ g.rights = 0x93#8 ∧ g.valid = true

/-! ### Loads of segment registers (40 R234, R247, R254, R255) -/

/-- How an instruction loads a segment register: MOV, POP, or LDS and LES. -/
inductive SegLoad where
  | mov (rm : Rm)
  | pop
  | far (r : Reg) (m : Mem)
  deriving DecidableEq, Repr

/-- The instruction that loads a segment register so; CS is never loaded so, SS not by a far pointer. -/
def SegLoad.instr : SegLoad → SReg → Option Instr
  | .mov rm, .es => some (.movEsRm rm)
  | .mov _, .cs => none
  | .mov rm, .ss => some (.movSsRm rm)
  | .mov rm, .ds => some (.movDsRm rm)
  | .pop, .es => some .popEs
  | .pop, .cs => none
  | .pop, .ss => some .popSs
  | .pop, .ds => some .popDs
  | .far r m, .es => some (.les r m)
  | .far _ _, .cs => none
  | .far _ _, .ss => none
  | .far r m, .ds => some (.lds r m)

/-- The operand that holds the selector can be read. -/
def SegLoad.ready (x : SegLoad) (s : State) : Prop :=
  match x with
  | .mov rm => s.rmReadFault .word rm = none
  | .pop => s.readFault .ss s.regs.sp 2 = none
  | .far _ m => s.readFault (s.eaSeg m) (s.ea m) 2 = none ∧ s.readPart (s.eaSeg m) (s.ea m) 2 = none

/-- The selector loaded. -/
def SegLoad.selector (x : SegLoad) (s : State) : Word :=
  match x with
  | .mov rm => s.rmValue .word rm
  | .pop => s.load .word s.ss s.regs.sp
  | .far _ m => s.load .word (s.seg (s.eaSeg m)) (s.ea m + 2)

/-- The general registers afterwards: POP removes a word from the stack, LDS and LES load the offset. -/
def SegLoad.regs (x : SegLoad) (s : State) : Regs :=
  match x with
  | .mov _ => s.regs
  | .pop => s.regs.set .sp (s.regs.sp + 2)
  | .far r m => s.regs.set r (s.load .word (s.seg (s.eaSeg m)) (s.ea m))

/-- The state after a load that leaves `g` in the segment register: every interrupt waits one instruction after a
load of SS (10 R50). -/
def SegLoad.result (x : SegLoad) (r : SReg) (g : Segment) (s : State) : State :=
  ({ s with regs := x.regs s, inhibit := if r = .ss then .all else s.inhibit } : State).setSeg r g

/-! ### String instructions (43 R360, R380) -/

/-- SI or DI after one element. -/
def State.advanced (s : State) (w : Width) (v : Word) : Word :=
  if s.flags.df then v - BitVec.ofNat 16 w.bytes else v + BitVec.ofNat 16 w.bytes

/-- The state after an iteration whose own effect is `u`: without a repeat prefix that is all; with one CX is
decremented and, unless the repetition ends, the instruction goes on from its first byte. -/
def State.afterIteration (s u : State) (compares : Bool) : State :=
  match s.inst.rep with
  | none => u
  | some p =>
    let v := { u with regs := { u.regs with cx := u.regs.cx - 1 } }
    if v.regs.cx = 0 ∨ (compares = true ∧ v.flags.zf ≠ decide (p = .repe)) then v
    else
      { v with
        ip := s.inst.ipInst
        inst := { s.inst with progress := .iterate }
        fetch := { v.fetch with wrapped := false } }

/-! ### Exceptions -/

/-- Taking an exception of a vector, with or without an error code, from a state: the saved IP is that of the
instruction (60 R546). -/
def State.trap (s : State) (v : Byte) (code : Option Word) : Answer :=
  raise { vector := v, code := code, ext := false, soft := false, nmi := false } s.inst.ipInst s.unlocked

/-- INT n, INT 3 and INTO with OF = 1, with their vector (45 R451-R453). -/
def State.SoftInt (s : State) (i : Instr) (v : Byte) : Prop :=
  i = .intImm v ∨ (i = .int3 ∧ v = 3) ∨ (i = .into ∧ v = 4 ∧ s.flags.of = true)

/-- The interrupts that enter through a vector: INT n, INT 3 and INTO with OF = 1, whose return address is the
following instruction; or an event taken with a return address `ra`, an NMI or not, whose error code, if it has one, is
pushed in protected mode (45 R451-R453, 60 R546, R554). -/
def State.Entry (s : State) (a : Answer) (v : Byte) (code : Option Word) (ra : Word) (soft nmi : Bool) : Prop :=
  (soft = true ∧ nmi = false ∧ code = none ∧ ra = s.ip ∧
    ∃ i, s.SoftInt i v ∧ a = exec i s) ∨
  (soft = false ∧ ∃ ext, a = raise { vector := v, code := code, ext := ext, soft := false, nmi := nmi } ra s)

/-- The delivery of an event stops with an exception before it has changed anything; an INT instruction takes it as its
own (60 R560, R570). -/
def State.DeliveryFails (s : State) (ev : Event) (ra : Word) (e : Exc) : Prop :=
  (s.deliver ev ra = .error (.exc e) ∨ s.deliver ev ra = .error (.after e s)) ∧
    (ev = Event.software ev.vector → ∀ i, s.SoftInt i ev.vector → exec i s = s.trap e.vector e.code)

/-- The error code 0 or that of a selector, with EXT (60 R548). -/
def errorCode (sel : Word) (ext : Bool) : Word := (sel &&& 0xFFFC#16) ||| (if ext then 1#16 else 0#16)

/-- Shutdown by an instruction that leaves everything else as it was (60 R574). -/
def State.down (s : State) : Answer :=
  .next { s with run := .shutdown, stepTrap := false, inst := { s.inst with active := false } }

/-- The number of words an error code takes on the stack. -/
def codeCount : Option Word → Nat
  | none => 0
  | some _ => 1

/-! ### Descriptors -/

/-- The selector with its RPL replaced by a privilege level. -/
def withLevel (sel : Word) (level : Nat) : Word := BitVec.ofNat 16 (sel.toNat / 4 * 4 + level % 4)

/-- A segment register loaded from a descriptor: base, limit and rights with the accessed bit set (20 R96). -/
def Desc.cached (d : Desc) (sel : Word) : Segment :=
  { sel := sel, rights := d.ar ||| 1#8, base := d.high ++ d.word1, limit := d.word0, valid := true, real := false }

/-- A descriptor of the tables: its selector is not null and lies within its table (20 R91-R95). -/
def State.Named (s : State) (sel : Word) (d : Desc) : Prop := 4 ≤ sel.toNat ∧ s.fetchDesc sel = some d

/-- A present code segment that runs at a level: conforming with DPL at most the level, non-conforming with DPL
equal to it (20 R107). -/
def Desc.RunsAt (d : Desc) (level : Nat) : Prop :=
  d.ar.getLsbD 7 = true ∧ d.ar.getLsbD 4 = true ∧ d.ar.getLsbD 3 = true ∧
    if d.ar.getLsbD 2 = true then rightsDpl d.ar ≤ level else rightsDpl d.ar = level

/-- A present writable data segment of a level, named with that RPL (20 R105). -/
def Desc.StackOf (d : Desc) (sel : Word) (level : Nat) : Prop :=
  d.ar.getLsbD 7 = true ∧ d.ar.getLsbD 4 = true ∧ d.ar.getLsbD 3 = false ∧ d.ar.getLsbD 1 = true ∧
    rightsDpl d.ar = level ∧ sel.toNat % 4 = level

/-- A present system descriptor of a type (20 R89, R90). -/
def Desc.System (d : Desc) (type : BitVec 4) : Prop :=
  d.ar.getLsbD 7 = true ∧ d.ar.getLsbD 4 = false ∧ d.ar.extractLsb' 0 4 = type

/-- The stack of an inner level cannot take n words: the exception of the first check that fails (44 R418, 60 R560).
That the task state segment's limit is checked is log 25, that the room is checked word by word log 32. -/
def State.InnerStackFault (s : State) (level n : Nat) (ext : Bool) (e : Exc) : Prop :=
  let sp := s.wordAt (s.tr.base.toNat + 4 * level + 2)
  let sel := s.wordAt (s.tr.base.toNat + 4 * level + 4)
  (s.tr.limit.toNat < 4 * level + 5 ∧ e = Exc.ts (errorCode s.tr.sel ext)) ∨
  (4 * level + 5 ≤ s.tr.limit.toNat ∧
    ((sel.toNat < 4 ∧ e = Exc.gp (errorCode 0 ext)) ∨
      (4 ≤ sel.toNat ∧ s.fetchDesc sel = none ∧ e = Exc.ts (errorCode sel ext)) ∨
      ∃ stack, s.Named sel stack ∧
        let fits := sel.toNat % 4 = level ∧ stack.ar.getLsbD 4 = true ∧ stack.ar.getLsbD 3 = false ∧
          stack.ar.getLsbD 1 = true ∧ rightsDpl stack.ar = level
        (¬ fits ∧ e = Exc.ts (errorCode sel ext)) ∨
        (fits ∧ stack.ar.getLsbD 7 = false ∧ e = Exc.ss (errorCode sel ext)) ∨
        (fits ∧ stack.ar.getLsbD 7 = true ∧
          (∃ k < n, (stack.cached sel).inLimit (sp - 2 - BitVec.ofNat 16 (2 * k)) 2 = false) ∧
          e = Exc.ss (errorCode 0 ext))))

/-- The task state segment a selector names cannot be switched to by JMP, CALL or an interrupt: the exception of the
first check that fails, still in the old task (44 R413, R414, R440 step 1, 60 R563). That the old task state segment's
limit is checked is log 25. -/
def State.TssFault (s : State) (sel : Word) (ext : Bool) (e : Exc) : Prop :=
  ((sel.toNat < 4 ∨ sel.getLsbD 2 = true ∨ s.fetchDesc sel = none) ∧ e = Exc.gp (errorCode sel ext)) ∨
  ∃ d, s.Named sel d ∧ sel.getLsbD 2 = false ∧
    let available := d.ar.getLsbD 4 = false ∧ d.ar.extractLsb' 0 4 = 1#4
    ((¬ available ∧ e = Exc.gp (errorCode sel ext)) ∨
      (available ∧ d.ar.getLsbD 7 = false ∧ e = Exc.np (errorCode sel ext)) ∨
      (d.System 1 ∧ d.word0.toNat < 0x2B ∧ e = Exc.ts (errorCode sel ext)) ∨
      (d.System 1 ∧ 0x2B ≤ d.word0.toNat ∧ s.tr.limit.toNat < 41 ∧ e = Exc.ts (errorCode s.tr.sel ext)))

/-! ### The selectors of a new task (44 R440 step 7, R444) -/

/-- A selector of the new task's image does not name what it must: #TS, or if only presence is missing the exception
given. -/
def State.NewSelFault (c : State) (ext : Bool) (sel : Word) (fits : Desc → Prop) (absent : Word → Exc) (e : Exc) : Prop :=
  ((sel.toNat < 4 ∨ c.fetchDesc sel = none) ∧ e = Exc.ts (errorCode sel ext)) ∨
  ∃ d, c.Named sel d ∧
    ((¬ fits d ∧ e = Exc.ts (errorCode sel ext)) ∨
      (fits d ∧ d.ar.getLsbD 7 = false ∧ e = absent (errorCode sel ext)))

/-- A selector of the new task's image does, and its descriptor is loaded. -/
def State.NewSelLoads (c : State) (r : SReg) (fits : Desc → Prop) (c' : State) : Prop :=
  ∃ d, c.Named (c.seg r).sel d ∧ fits d ∧ d.ar.getLsbD 7 = true ∧ c' = c.loadSeg r d (c.seg r).sel

/-- A code segment that runs at a level. -/
def Desc.CodeFits (level : Nat) (d : Desc) : Prop :=
  d.ar.getLsbD 4 = true ∧ d.ar.getLsbD 3 = true ∧
    if d.ar.getLsbD 2 = true then rightsDpl d.ar ≤ level else rightsDpl d.ar = level

/-- A writable data segment of a level, named with that RPL. -/
def Desc.StackFits (level : Nat) (sel : Word) (d : Desc) : Prop :=
  sel.toNat % 4 = level ∧ d.ar.getLsbD 4 = true ∧ d.ar.getLsbD 3 = false ∧ d.ar.getLsbD 1 = true ∧
    rightsDpl d.ar = level

/-- A data or readable code segment that a level may use. -/
def Desc.DataFits (level : Nat) (sel : Word) (d : Desc) : Prop :=
  d.ar.getLsbD 4 = true ∧ (d.ar.getLsbD 3 = true → d.ar.getLsbD 1 = true) ∧
    ((d.ar.getLsbD 3 = true ∧ d.ar.getLsbD 2 = true) ∨ (level ≤ rightsDpl d.ar ∧ sel.toNat % 4 ≤ rightsDpl d.ar))

/-- An LDT descriptor of the GDT. -/
def Desc.LdtFits (sel : Word) (d : Desc) : Prop :=
  sel.getLsbD 2 = false ∧ d.ar.getLsbD 4 = false ∧ d.ar.extractLsb' 0 4 = 2#4

/-- DS or ES of the new task: null, which is loaded as it stands, or a segment the task may use. -/
def State.NewDataLoads (c : State) (r : SReg) (level : Nat) (c' : State) : Prop :=
  ((c.seg r).sel.toNat < 4 ∧ c' = c) ∨ c.NewSelLoads r (Desc.DataFits level (c.seg r).sel) c'

/-- From the state `c` in which a new task's image has been loaded, the first check of its LDT, CS, SS, DS and ES that
fails is exception `e`, taken in `u`: the segment registers before the failing one have their descriptors, it and those
after it hold their selectors without a valid cache (44 R440 step 7, R444). -/
def State.NewTaskFault (c : State) (ext : Bool) (e : Exc) (u : State) : Prop :=
  let ldt := c.ldtr.sel
  let level := c.cs.sel.toNat % 4
  (4 ≤ ldt.toNat ∧ c.NewSelFault ext ldt (Desc.LdtFits ldt) Exc.ts e ∧ u = c) ∨
  ∃ c₁, ((ldt.toNat < 4 ∧ c₁ = c) ∨
      ∃ d, c.Named ldt d ∧ d.LdtFits ldt ∧ d.ar.getLsbD 7 = true ∧
        c₁ = { c with ldtr := { sel := ldt, base := d.high ++ d.word1, limit := d.word0, valid := true } }) ∧
    ((c₁.NewSelFault ext c.cs.sel (Desc.CodeFits level) Exc.np e ∧ u = c₁) ∨
      ∃ c₂, c₁.NewSelLoads .cs (Desc.CodeFits level) c₂ ∧
        ((c₂.NewSelFault ext c.ss.sel (Desc.StackFits level c.ss.sel) Exc.ss e ∧ u = c₂) ∨
          ∃ c₃, c₂.NewSelLoads .ss (Desc.StackFits level c.ss.sel) c₃ ∧
            ((4 ≤ c.ds.sel.toNat ∧ c₃.NewSelFault ext c.ds.sel (Desc.DataFits level c.ds.sel) Exc.np e ∧ u = c₃) ∨
              ∃ c₄, c₃.NewDataLoads .ds level c₄ ∧
                4 ≤ c.es.sel.toNat ∧ c₄.NewSelFault ext c.es.sel (Desc.DataFits level c.es.sel) Exc.np e ∧ u = c₄)))

/-- A switch from the task of `s` to the one a TSS descriptor gives, `c` being the state once the new task's image is
loaded and `t` the one after its selectors' descriptors are (44 R440-R443, 20 R114): TR, MSW.TS and the registers of the
new task; in the old task's TSS its registers, the flags and the offset `ret` it goes on at; the busy bits and the back
link; the accessed bits of the segments loaded, and nothing else of memory. -/
def State.Switched (s c t : State) (kind : SwitchKind) (tss : Word) (d : Desc) (ret : Word) : Prop :=
  let base := (d.high ++ d.word1 : Base24).toNat
  let saved := (List.range 28).map fun k => s.physAddr (s.tr.base.toNat + 14 + k)
  let link := if kind = .nest then [s.physAddr base, s.physAddr (base + 1)] else []
  let oldAr := s.gdtr.base.toNat + s.tr.sel.toNat / 8 * 8 + 5
  let newAr := d.addr + 5
  t.tr = { sel := tss, base := d.high ++ d.word1, limit := d.word0 } ∧
  t.msw = s.msw ||| 8#16 ∧ t.cpl = t.cs.sel.toNat % 4 ∧ t.gdtr = s.gdtr ∧ t.idtr = s.idtr ∧
  (let new := fun k => c.wordAt (base + k)
   t.ip = new 14 ∧
   t.flags = { Flags.ofImage (new 16) with nt := (new 16).getLsbD 14 || decide (kind = .nest) } ∧
   t.regs =
     { ax := new 18, cx := new 20, dx := new 22, bx := new 24, sp := new 26, bp := new 28, si := new 30,
       di := new 32 } ∧
   t.es.sel = new 34 ∧ t.cs.sel = new 36 ∧ t.ss.sel = new 38 ∧ t.ds.sel = new 40 ∧ t.ldtr.sel = new 42 ∧
   (kind = .nest → s.LowDecoded → new 0 = s.tr.sel)) ∧
  (let old := fun k => c.wordAt (s.tr.base.toNat + k)
   s.LowDecoded → s.physAddr oldAr ∉ saved → s.physAddr newAr ∉ saved → (∀ a ∈ link, a ∉ saved) →
   old 14 = ret ∧
   old 16 = ({ s.flags with nt := s.flags.nt && decide (kind ≠ .iret) } : Flags).image s.platform.flagReserved ∧
   old 18 = s.regs.ax ∧ old 20 = s.regs.cx ∧ old 22 = s.regs.dx ∧ old 24 = s.regs.bx ∧ old 26 = s.regs.sp ∧
   old 28 = s.regs.bp ∧ old 30 = s.regs.si ∧ old 32 = s.regs.di ∧ old 34 = s.es.sel ∧ old 36 = s.cs.sel ∧
   old 38 = s.ss.sel ∧ old 40 = s.ds.sel) ∧
  (s.physAddr oldAr ≠ s.physAddr newAr → s.physAddr oldAr ∉ saved ++ link → s.physAddr newAr ∉ saved ++ link →
    c.byteAt oldAr = (if kind = .nest then s.byteAt oldAr else s.byteAt oldAr &&& 0xFD#8) ∧
    c.byteAt newAr = (if kind = .iret then d.ar else d.ar ||| 2#8)) ∧
  s.MemoryKept c (saved ++ link ++
    (if kind = .nest then [] else [s.physAddr oldAr]) ++ (if kind = .iret then [] else [s.physAddr newAr])) ∧
  c.MemoryKept t ([t.cs.sel, t.ss.sel, t.ds.sel, t.es.sel].filterMap fun sel =>
    (t.descAddr sel).map fun a => s.physAddr (a + 5)) ∧
  (∀ a, t.byteAt a = c.byteAt a ∨ t.byteAt a = c.byteAt a ||| 1#8) ∧
  (∀ sel ∈ [t.cs.sel, t.ss.sel, t.ds.sel, t.es.sel], 4 ≤ sel.toNat → ∀ a, t.descAddr sel = some a →
    (t.byteAt (a + 5)).getLsbD 0 = true)

/-- Data accessible to a level, as DS and ES must be after a return to it (44 R422). -/
def State.OuterMayUse (s : State) (g : Segment) (level : Nat) : Prop :=
  g.valid = true ∧ (s.descAddr g.sel).isSome = true ∧ g.rights.getLsbD 4 = true ∧
    (g.rights.getLsbD 3 = true → g.rights.getLsbD 1 = true) ∧
    ((g.rights.getLsbD 3 = true ∧ g.rights.getLsbD 2 = true) ∨
      (level ≤ rightsDpl g.rights ∧ g.sel.toNat % 4 ≤ rightsDpl g.rights))

/-- The state after a return to an outer level: CS:IP and SS:SP loaded, DS and ES kept only where that level may use
them, the accessed bits of the two descriptors set (44 R421, R422; 45 R457). -/
def State.ReturnedOuter (s t : State) (code : Desc) (sel ip : Word) (stack : Desc) (ssSel : Word) : Prop :=
  let level := sel.toNat % 4
  t = { s.at ip with
        cs := code.cached sel, ss := stack.cached ssSel, regs := { s.regs with sp := t.regs.sp }, mem := t.mem,
        writes := t.writes, es := t.es, ds := t.ds } ∧
    (∀ r, r = .es ∨ r = .ds →
      (s.OuterMayUse (s.seg r) level → t.seg r = s.seg r) ∧
      (¬ s.OuterMayUse (s.seg r) level → (t.seg r).sel = 0 ∧ (t.seg r).valid = false)) ∧
    t.byteAt (code.addr + 5) = code.ar ||| 1#8 ∧ t.byteAt (stack.addr + 5) = stack.ar ||| 1#8 ∧
    s.MemoryKept t [s.physAddr (code.addr + 5), s.physAddr (stack.addr + 5)]

/-- The forms of far JMP and CALL with their pointer: immediate, or a readable doubleword of memory (44 R403, R404). -/
def State.FarForm (s : State) (i : Instr) (calls : Bool) (off sel : Word) : Prop :=
  (i = .jmpFar off sel ∧ calls = false) ∨ (i = .callFar off sel ∧ calls = true) ∨
    (∃ m, ((i = .jmpFarMem m ∧ calls = false) ∨ (i = .callFarMem m ∧ calls = true)) ∧
      s.readFault (s.eaSeg m) (s.ea m) 2 = none ∧ s.readPart (s.eaSeg m) (s.ea m) 2 = none ∧
      off = s.load .word (s.seg (s.eaSeg m)) (s.ea m) ∧ sel = s.load .word (s.seg (s.eaSeg m)) (s.ea m + 2))

/-- How an instruction comes to switch to the task of a TSS selector (44 R413, R414, R419, 45 R458, 60 R563): far JMP or
CALL to the TSS or to a task gate at least as privileged, INT n, INT 3 or INTO through a task gate, IRET with NT = 1. -/
def State.SwitchForm (s : State) (i : Instr) (kind : SwitchKind) (tss : Word) (d : Desc) : Prop :=
  (∃ calls off, s.FarForm i calls off tss ∧ kind = (if calls then .nest else .jump) ∧
    s.cpl ≤ rightsDpl d.ar ∧ tss.toNat % 4 ≤ rightsDpl d.ar) ∨
  (∃ calls off sel gate, s.FarForm i calls off sel ∧ kind = (if calls then .nest else .jump) ∧
    s.Named sel gate ∧ gate.System 5 ∧ s.cpl ≤ rightsDpl gate.ar ∧ sel.toNat % 4 ≤ rightsDpl gate.ar ∧
    tss = gate.word1) ∨
  (∃ v, s.SoftInt i v ∧ kind = .nest ∧ 8 * v.toNat + 7 ≤ s.idtr.limit.toNat ∧
    (s.descAt (s.idtr.base.toNat + 8 * v.toNat)).System 5 ∧
    s.cpl ≤ rightsDpl (s.descAt (s.idtr.base.toNat + 8 * v.toNat)).ar ∧
    tss = (s.descAt (s.idtr.base.toNat + 8 * v.toNat)).word1) ∨
  (i = .iret ∧ kind = .iret ∧ s.flags.nt = true ∧ 1 ≤ s.tr.limit.toNat ∧ tss = s.wordAt s.tr.base.toNat)

/-! ### The stack part-way through an instruction (40 R243, 46 R471) -/

/-- The values SP may hold once PUSHA or POPA has wrapped the stack segment (40 R243; D9, log 35). -/
def WrapSp (sp : Word) : Prop := sp = 0x0000#16 ∨ sp = 0x0001#16 ∨ sp = 0xFFFE#16 ∨ sp = 0xFFFF#16

/-- The first k words ENTER pushes at level n: BP, n - 1 words of the display below the frame BP names, each read once
those before it lie on the stack, and the new frame pointer (46 R471). -/
def State.enterWords (s : State) (n : Nat) : Nat → List Word
  | 0 => []
  | k + 1 =>
    s.enterWords n k ++
      [if k = 0 then s.regs.bp
       else if k < n then
         (s.pushList (s.enterWords n k)).load .word s.ss (s.regs.bp - BitVec.ofNat 16 (2 * k))
       else s.regs.sp - 2]

/-! ### Invariants -/

/-- In real address mode IOPL and NT are 0 (10 R36, R37). -/
def State.RealFlags (s : State) : Prop := s.pe = false → s.flags.iopl = 0 ∧ s.flags.nt = false

/-- Bits 15-4 of MSW hold their reset value (10 R42). -/
def State.MswHigh (s : State) : Prop := s.msw.extractLsb' 4 12 = 0xFFF#12

/-- What stands before the instruction in progress are prefixes (30 R181). -/
def State.PrefixesOnly (s : State) : Prop := ∀ d ∈ s.inst.code, ∀ p ∈ d.prefixes, p.isPrefix = true

/-- The invariant of every run. -/
def State.Inv (s : State) : Prop := s.mem.wf = true ∧ s.RealFlags ∧ s.MswHigh ∧ s.PrefixesOnly

end Machine

end Sys2Proof
end

