-- ==== Sys2Proof/Certificates/Slice0/Obligations.lean ====
section
/-! DEFINITION. The statements for the provers, one definition each. OBLIGATIONS.json lists them with the rules of
the spec they come from. Another bus master may write memory between two accesses of an instruction (20 R117, log 42):
an instruction that stores once after one read is stated from the state that write leaves (`State.beforeWrite`,
`State.yieldBus`); one with more accesses is stated where no such write is to come (`State.Quiet`). That a stored word
reads back is stated for a platform that keeps the bytes of memory apart (`State.LowDecoded`). -/

open Sys2Proof Sys2Proof.Machine

/-! ### Arithmetic and logic -/

/-- ADD and ADC in every form (41 R281-R285): when the memory operand passes its check the destination takes the sum
modulo 2^n, the six flags are those of the sum, OF saying that the signed sum does not fit; nothing else changes. -/
def Obligations.AdditionResult : Prop :=
  ∀ (op : AluOp) (x : AluForm) (i : Instr) (s : State), (op = .add ∨ op = .adc) → x.instr op = some i → x.ready true s →
    let w := x.width
    let a := s.rmValue w x.dest
    let b := x.source s
    let v := s.beforeWrite x.dest
    let c : Nat := if op = .adc ∧ s.flags.cf = true then 1 else 0
    let r := BitVec.ofNat 16 ((a.toNat + b.toNat + c) % 2 ^ w.bits)
    ∃ t, exec i s = .next t ∧ v.DataOnly t ∧ v.Writes t w x.dest r ∧ s.flags.StatusOnly t.flags ∧
      t.flags.ShowResult w r ∧
      t.flags.cf = decide (2 ^ w.bits ≤ a.toNat + b.toNat + c) ∧
      t.flags.af = decide (16 ≤ a.toNat % 16 + b.toNat % 16 + c) ∧
      t.flags.of = !w.fits (w.toInt a + w.toInt b + c)

/-- SUB, SBB and CMP in every form (41 R281, R289-R292, R295, R296): the six flags are those of the one three-term
subtraction modulo 2^n. The destination of SUB and SBB takes the difference and nothing else changes; CMP changes no
register and no byte of memory, and its destination needs the read check alone. -/
def Obligations.SubtractionResult : Prop :=
  (∀ (op : AluOp) (x : AluForm) (i : Instr) (s : State), (op = .sub ∨ op = .sbb) → x.instr op = some i →
    x.ready true s →
    let w := x.width
    let a := s.rmValue w x.dest
    let b := x.source s
    let v := s.beforeWrite x.dest
    let c : Nat := if op = .sbb ∧ s.flags.cf = true then 1 else 0
    let r := BitVec.ofInt 16 (((a.toNat : Int) - b.toNat - c) % 2 ^ w.bits)
    ∃ t, exec i s = .next t ∧ v.DataOnly t ∧ v.Writes t w x.dest r ∧ s.flags.StatusOnly t.flags ∧
      t.flags.ShowResult w r ∧
      t.flags.cf = decide (a.toNat < b.toNat + c) ∧
      t.flags.af = decide (a.toNat % 16 < b.toNat % 16 + c) ∧
      t.flags.of = !w.fits (w.toInt a - w.toInt b - c)) ∧
  (∀ (x : AluForm) (i : Instr) (s : State), x.instr .cmp = some i → x.ready false s →
    let w := x.width
    let a := s.rmValue w x.dest
    let b := x.source s
    ∃ t, exec i s = .next t ∧ t = { s with flags := t.flags } ∧ s.flags.StatusOnly t.flags ∧
      t.flags.ShowResult w (BitVec.ofInt 16 (((a.toNat : Int) - b.toNat) % 2 ^ w.bits)) ∧
      t.flags.cf = decide (a.toNat < b.toNat) ∧
      t.flags.af = decide (a.toNat % 16 < b.toNat % 16) ∧
      t.flags.of = !w.fits (w.toInt a - w.toInt b))

/-- AND, OR and XOR in every form (42 R330, R332-R337): each result bit is the operation on the operands' bits; OF and
CF are cleared, SF, ZF and PF follow the result, AF alone is not determined. -/
def Obligations.LogicResult : Prop :=
  ∀ (op : AluOp) (x : AluForm) (i : Instr) (s : State), (op = .and ∨ op = .or ∨ op = .xor) → x.instr op = some i →
    x.ready true s →
    let w := x.width
    let a := s.rmValue w x.dest
    let b := x.source s
    let v := s.beforeWrite x.dest
    ∃ t r, exec i s = .next t ∧ v.DataOnly t ∧ v.Writes t w x.dest r ∧ s.flags.StatusOnly t.flags ∧
      (∀ k, r.getLsbD k =
        if op = .and then a.getLsbD k && b.getLsbD k
        else if op = .or then a.getLsbD k || b.getLsbD k
        else a.getLsbD k ^^ b.getLsbD k) ∧
      t.flags.of = false ∧ t.flags.cf = false ∧ t.flags.ShowResult w r

/-- TEST in every form (42 R330, R338, R339): the flags of the AND of the operands; no register and no byte of memory
changes. A memory operand that fails its std-read check is that exception. -/
def Obligations.TestSetsFlagsOnly : Prop :=
  (∀ (i : Instr) (w : Width) (rm : Rm) (e : Exc) (s : State),
    ((∃ r, i = .testRmReg w rm r) ∨ ∃ x, i = .testRmImm rm x ∧ w = x.width) → s.rmReadFault w rm = some e →
    exec i s = s.trap e.vector e.code) ∧
  ∀ (i : Instr) (w : Width) (a b : Word) (s : State),
    ((∃ rm r, i = .testRmReg w rm r ∧ s.rmReadFault w rm = none ∧ a = s.rmValue w rm ∧ b = s.reg w r) ∨
      (∃ x, i = .testAccImm x ∧ w = x.width ∧ a = s.reg w .ax ∧ b = x.value) ∨
      (∃ rm x, i = .testRmImm rm x ∧ w = x.width ∧ s.rmReadFault w rm = none ∧ a = s.rmValue w rm ∧ b = x.value)) →
    ∃ t r, exec i s = .next t ∧ s.RegsFlagsOnly t ∧ t.regs = s.regs ∧ s.flags.StatusOnly t.flags ∧
      (∀ k, r.getLsbD k = (a.getLsbD k && b.getLsbD k)) ∧
      t.flags.of = false ∧ t.flags.cf = false ∧ t.flags.ShowResult w r

/-- INC and DEC of a register or an r/m operand (41 R286, R293): one more or one less modulo 2^n, OF, SF, ZF, AF, PF
those of that addition or subtraction, CF unchanged. -/
def Obligations.IncrementKeepsCarry : Prop :=
  ∀ (i : Instr) (w : Width) (rm : Rm) (up : Bool) (s : State),
    ((i = .incRm w rm ∧ up = true) ∨ (i = .decRm w rm ∧ up = false) ∨
      (∃ r, w = .word ∧ rm = .reg r ∧ ((i = .incReg r ∧ up = true) ∨ (i = .decReg r ∧ up = false)))) →
    s.rmWriteFault w rm = none →
    let a := s.rmValue w rm
    let v := s.beforeWrite rm
    let d : Int := if up then 1 else -1
    let r := BitVec.ofInt 16 (((a.toNat : Int) + d) % 2 ^ w.bits)
    ∃ t, exec i s = .next t ∧ v.DataOnly t ∧ v.Writes t w rm r ∧ s.flags.StatusOnly t.flags ∧
      t.flags.ShowResult w r ∧ t.flags.cf = s.flags.cf ∧
      t.flags.af = (if up then decide (a.toNat % 16 = 15) else decide (a.toNat % 16 = 0)) ∧
      t.flags.of = !w.fits (w.toInt a + d)

/-- NEG and NOT (41 R294, 42 R331): NEG leaves 0 minus the operand, CF set unless the operand was 0, OF set only for
the most negative operand; NOT inverts every bit and changes no flag. An operand that fails its std-write check is that
exception, from the state before. -/
def Obligations.NegateAndInvert : Prop :=
  (∀ (w : Width) (rm : Rm) (e : Exc) (s : State), s.rmWriteFault w rm = some e →
    exec (.negRm w rm) s = s.trap e.vector e.code ∧ exec (.notRm w rm) s = s.trap e.vector e.code) ∧
  ∀ (w : Width) (rm : Rm) (s : State), s.rmWriteFault w rm = none →
    let a := s.rmValue w rm
    let v := s.beforeWrite rm
    (∃ t r, exec (.negRm w rm) s = .next t ∧ v.DataOnly t ∧ v.Writes t w rm r ∧
      r.toNat = (2 ^ w.bits - a.toNat) % 2 ^ w.bits ∧ s.flags.StatusOnly t.flags ∧ t.flags.ShowResult w r ∧
      t.flags.cf = decide (a.toNat ≠ 0) ∧ t.flags.af = decide (a.toNat % 16 ≠ 0) ∧
      t.flags.of = decide (a.toNat = 2 ^ (w.bits - 1))) ∧
    (∃ t r, exec (.notRm w rm) s = .next t ∧ v.DataOnly t ∧ v.Writes t w rm r ∧ t.flags = s.flags ∧
      ∀ k, r.getLsbD k = (decide (k < w.bits) && !a.getLsbD k))

/-- MUL and IMUL (41 R299-R301): the whole product in AX, in DX:AX or its low word in a register; CF and OF tell whether
its upper half is significant; no other register, no memory and none of the flags TF, IF, DF, IOPL, NT change. SF, ZF,
AF and PF are not determined. IMUL's operation is a passage the spec marks as general knowledge (log 44). -/
def Obligations.MultiplyResult : Prop :=
  (∀ (rm : Rm) (s : State), s.rmReadFault .byte rm = none →
    let v := s.rmValue .byte rm
    (∃ t, exec (.mulRm .byte rm) s = .next t ∧ s.RegsFlagsOnly t ∧ s.regs.SameBut t.regs .word .ax ∧
      s.flags.StatusOnly t.flags ∧ t.regs.ax.toNat = s.al.toNat * v.toNat ∧
      t.flags.cf = decide (t.ah ≠ 0) ∧ t.flags.of = decide (t.ah ≠ 0)) ∧
    (∃ t, exec (.imulRm .byte rm) s = .next t ∧ s.RegsFlagsOnly t ∧ s.regs.SameBut t.regs .word .ax ∧
      s.flags.StatusOnly t.flags ∧ t.regs.ax.toInt = s.al.toInt * Width.toInt .byte v ∧
      t.flags.cf = (!Width.fits .byte t.regs.ax.toInt) ∧ t.flags.of = (!Width.fits .byte t.regs.ax.toInt))) ∧
  (∀ (rm : Rm) (s : State), s.rmReadFault .word rm = none →
    let v := s.rmValue .word rm
    (∃ t, exec (.mulRm .word rm) s = .next t ∧ s.RegsFlagsOnly t ∧
      (∀ q, q ≠ .ax → q ≠ .dx → t.reg16 q = s.reg16 q) ∧ s.flags.StatusOnly t.flags ∧
      t.regs.dx.toNat * 2 ^ 16 + t.regs.ax.toNat = s.regs.ax.toNat * v.toNat ∧
      t.flags.cf = decide (t.regs.dx ≠ 0) ∧ t.flags.of = decide (t.regs.dx ≠ 0)) ∧
    (∃ t, exec (.imulRm .word rm) s = .next t ∧ s.RegsFlagsOnly t ∧
      (∀ q, q ≠ .ax → q ≠ .dx → t.reg16 q = s.reg16 q) ∧ s.flags.StatusOnly t.flags ∧
      t.regs.dx.toInt * 2 ^ 16 + t.regs.ax.toNat = s.regs.ax.toInt * v.toInt ∧
      t.flags.cf = (!Width.fits .word (s.regs.ax.toInt * v.toInt)) ∧
      t.flags.of = (!Width.fits .word (s.regs.ax.toInt * v.toInt))) ∧
    (∀ (i : Instr) (r : Reg) (k : Word), (i = .imulImm r rm k ∨ ∃ b, i = .imulImm8 r rm b ∧ k = signExtend b) →
      ∃ t, exec i s = .next t ∧ s.RegsFlagsOnly t ∧ s.regs.SameBut t.regs .word r ∧ s.flags.StatusOnly t.flags ∧
        t.reg16 r = BitVec.ofInt 16 (v.toInt * k.toInt) ∧
        t.flags.cf = (!Width.fits .word (v.toInt * k.toInt)) ∧ t.flags.of = (!Width.fits .word (v.toInt * k.toInt))))

/-- DIV and IDIV (41 R303, R304, R322, R323; 60 R542): for a divisor that is not 0 and a quotient that fits, quotient
and remainder of the truncating division, the remainder in AH or DX, and nothing else but the status flags changes; for
a divisor of 0 or a quotient that does not fit, interrupt 0 with the saved IP at the instruction, from the state before
it. The dividend registers and the rounding toward zero, in the results and in the hypotheses alike, are passages the
spec marks as general knowledge (K15, log 44), that the interrupt finds the status flags as they were before is log 49:
the model's choices. -/
def Obligations.DivideResult : Prop :=
  (∀ (rm : Rm) (s : State), s.rmReadFault .byte rm = none →
    let d := s.rmValue .byte rm
    (d.toNat ≠ 0 → s.regs.ax.toNat / d.toNat < 2 ^ 8 →
      ∃ t, exec (.divRm .byte rm) s = .next t ∧ s.RegsFlagsOnly t ∧ s.regs.SameBut t.regs .word .ax ∧
        s.flags.StatusOnly t.flags ∧ t.al.toNat = s.regs.ax.toNat / d.toNat ∧
        t.ah.toNat = s.regs.ax.toNat % d.toNat) ∧
    (d.toNat = 0 ∨ 2 ^ 8 ≤ s.regs.ax.toNat / d.toNat → exec (.divRm .byte rm) s = s.trap 0 none) ∧
    (Width.toInt .byte d ≠ 0 → Width.fits .byte (s.regs.ax.toInt.tdiv (Width.toInt .byte d)) = true →
      ∃ t, exec (.idivRm .byte rm) s = .next t ∧ s.RegsFlagsOnly t ∧ s.regs.SameBut t.regs .word .ax ∧
        s.flags.StatusOnly t.flags ∧ t.al.toInt = s.regs.ax.toInt.tdiv (Width.toInt .byte d) ∧
        t.ah.toInt = s.regs.ax.toInt.tmod (Width.toInt .byte d)) ∧
    (Width.toInt .byte d = 0 ∨ Width.fits .byte (s.regs.ax.toInt.tdiv (Width.toInt .byte d)) = false →
      exec (.idivRm .byte rm) s = s.trap 0 none)) ∧
  (∀ (rm : Rm) (s : State), s.rmReadFault .word rm = none →
    let d := s.rmValue .word rm
    let n := s.regs.dx.toNat * 2 ^ 16 + s.regs.ax.toNat
    let z := s.regs.dx.toInt * 2 ^ 16 + s.regs.ax.toNat
    (d.toNat ≠ 0 → n / d.toNat < 2 ^ 16 →
      ∃ t, exec (.divRm .word rm) s = .next t ∧ s.RegsFlagsOnly t ∧
        (∀ q, q ≠ .ax → q ≠ .dx → t.reg16 q = s.reg16 q) ∧ s.flags.StatusOnly t.flags ∧
        t.regs.ax.toNat = n / d.toNat ∧ t.regs.dx.toNat = n % d.toNat) ∧
    (d.toNat = 0 ∨ 2 ^ 16 ≤ n / d.toNat → exec (.divRm .word rm) s = s.trap 0 none) ∧
    (d.toInt ≠ 0 → Width.fits .word (z.tdiv d.toInt) = true →
      ∃ t, exec (.idivRm .word rm) s = .next t ∧ s.RegsFlagsOnly t ∧
        (∀ q, q ≠ .ax → q ≠ .dx → t.reg16 q = s.reg16 q) ∧ s.flags.StatusOnly t.flags ∧
        t.regs.ax.toInt = z.tdiv d.toInt ∧ t.regs.dx.toInt = z.tmod d.toInt) ∧
    (d.toInt = 0 ∨ Width.fits .word (z.tdiv d.toInt) = false → exec (.idivRm .word rm) s = s.trap 0 none))

/-- The decimal and ASCII adjusts and the sign extensions (41 R287, R288, R297, R298, R302, R305-R307): AX, for CWD DX,
the flags each defines, and nothing else; CBW and CWD change no flag. The algorithms are passages the spec marks as
general knowledge (log 44). -/
def Obligations.AccumulatorAdjustResult : Prop :=
  ∀ s : State,
    let low := decide (9 < s.al.toNat % 16) || s.flags.af
    let high := decide (0x99 < s.al.toNat) || s.flags.cf
    let only := fun t : State => s.RegsFlagsOnly t ∧ s.regs.SameBut t.regs .word .ax ∧ s.flags.StatusOnly t.flags
    (∃ t, exec .aaa s = .next t ∧ only t ∧ t.al.toNat = (s.al.toNat + low.toNat * 6) % 16 ∧
      t.ah.toNat = (s.ah.toNat + low.toNat) % 256 ∧ t.flags.af = low ∧ t.flags.cf = low) ∧
    (∃ t, exec .aas s = .next t ∧ only t ∧ (t.al.toNat : Int) = ((s.al.toNat : Int) - low.toNat * 6) % 16 ∧
      (t.ah.toNat : Int) = ((s.ah.toNat : Int) - low.toNat) % 256 ∧ t.flags.af = low ∧ t.flags.cf = low) ∧
    (∃ t, exec .daa s = .next t ∧ only t ∧ t.al.toNat = (s.al.toNat + low.toNat * 0x06 + high.toNat * 0x60) % 256 ∧
      t.ah = s.ah ∧ t.flags.af = low ∧ t.flags.cf = high ∧ t.flags.ShowResult .byte (zeroExtend t.al)) ∧
    (∃ t, exec .das s = .next t ∧ only t ∧
      (t.al.toNat : Int) = ((s.al.toNat : Int) - low.toNat * 0x06 - high.toNat * 0x60) % 256 ∧
      t.ah = s.ah ∧ t.flags.af = low ∧ t.flags.cf = (high || low && decide (s.al.toNat < 6)) ∧
      t.flags.ShowResult .byte (zeroExtend t.al)) ∧
    (∃ t, exec .aam s = .next t ∧ only t ∧ t.ah.toNat = s.al.toNat / 10 ∧ t.al.toNat = s.al.toNat % 10 ∧
      t.flags.ShowResult .byte (zeroExtend t.al)) ∧
    (∃ t, exec .aad s = .next t ∧ only t ∧ t.al.toNat = (s.ah.toNat * 10 + s.al.toNat) % 256 ∧ t.ah = 0 ∧
      t.flags.ShowResult .byte (zeroExtend t.al)) ∧
    (∃ t, exec .cbw s = .next t ∧ t = { s with regs := t.regs } ∧ s.regs.SameBut t.regs .word .ax ∧
      t.regs.ax.toInt = s.al.toInt) ∧
    (∃ t, exec .cwd s = .next t ∧ t = { s with regs := t.regs } ∧ s.regs.SameBut t.regs .word .dx ∧
      t.regs.dx.toInt * 2 ^ 16 + t.regs.ax.toNat = s.regs.ax.toInt)

/-- The shifts and rotates by one (42 R340-R347): operand and CF take one single-bit step; OF as each rule says, ROR's
not determined; shifts set SF, ZF, PF from the result, rotates leave SF, ZF, AF, PF alone. ROR's OF is the spec's
decision D45 (log 45). -/
def Obligations.ShiftByOneResult : Prop :=
  ∀ (op : ShiftOp) (w : Width) (rm : Rm) (s : State), s.rmWriteFault w rm = none →
    let x := s.rmValue w rm
    let v := s.beforeWrite rm
    let top := fun v : Word => decide (2 ^ (w.bits - 1) ≤ v.toNat)
    ∃ t r, exec (op.instrOne w rm) s = .next t ∧ v.DataOnly t ∧ v.Writes t w rm r ∧ s.flags.StatusOnly t.flags ∧
      (r.toNat, t.flags.cf.toNat) = op.arith w.bits (x.toNat, s.flags.cf.toNat) ∧
      (op = .rol ∨ op = .rcl ∨ op = .shl → t.flags.of = (t.flags.cf ^^ top r)) ∧
      (op = .rcr → t.flags.of = (s.flags.cf ^^ top x)) ∧
      (op = .shr → t.flags.of = top x) ∧
      (op = .sar → t.flags.of = false) ∧
      (op = .shl ∨ op = .shr ∨ op = .sar → t.flags.ShowResult w r) ∧
      (op = .rol ∨ op = .ror ∨ op = .rcl ∨ op = .rcr →
        t.flags = { s.flags with cf := t.flags.cf, of := t.flags.of })

/-- The shifts and rotates by CL and by an immediate (42 R340, R348): the count is taken modulo 32; that many single-bit
steps; a count of 0 changes nothing at all; OF is not determined otherwise. That a count of 0 changes nothing is the
spec's general-knowledge passage, D43 (logs 44, 45), which lets the operand be written back or not: that it is not is
log 47, the model's choice. -/
def Obligations.ShiftByCountResult : Prop :=
  ∀ (op : ShiftOp) (w : Width) (rm : Rm) (n : Byte) (i : Instr) (s : State),
    (i = op.instrImm w rm n ∨ (i = op.instrCl w rm ∧ n = s.cl)) → s.rmWriteFault w rm = none →
    let x := s.rmValue w rm
    let v := s.beforeWrite rm
    let k := n.toNat % 32
    (k = 0 → exec i s = .next s) ∧
    (k ≠ 0 → ∃ t r, exec i s = .next t ∧ v.DataOnly t ∧ v.Writes t w rm r ∧ s.flags.StatusOnly t.flags ∧
      (r.toNat, t.flags.cf.toNat) = (op.arith w.bits)^[k] (x.toNat, s.flags.cf.toNat) ∧
      (op = .shl ∨ op = .shr ∨ op = .sar → t.flags.ShowResult w r) ∧
      (op = .rol ∨ op = .ror ∨ op = .rcl ∨ op = .rcr →
        t.flags = { s.flags with cf := t.flags.cf, of := t.flags.of }))

/-- What k single-bit steps come to (42 R341-R347): SHL multiplies by 2^k, SHR and SAR divide by it, rounding down;
ROL and ROR rotate by k; RCL and RCR rotate the operand with CF above it by k. -/
def Obligations.ShiftClosedForm : Prop :=
  ∀ (w : Width) (x : Word) (c : Bool) (k : Nat), x.toNat < 2 ^ w.bits →
    let n := w.bits
    (ShiftOp.times .shl w k (x, c)).1.toNat = x.toNat * 2 ^ k % 2 ^ n ∧
    (ShiftOp.times .shr w k (x, c)).1.toNat = x.toNat / 2 ^ k ∧
    w.toInt (ShiftOp.times .sar w k (x, c)).1 = w.toInt x / 2 ^ k ∧
    (ShiftOp.times .rol w k (x, c)).1.toNat = x.toNat * 2 ^ (k % n) % 2 ^ n + x.toNat / 2 ^ (n - k % n) ∧
    (ShiftOp.times .ror w k (x, c)).1.toNat = x.toNat / 2 ^ (k % n) + x.toNat * 2 ^ (n - k % n) % 2 ^ n ∧
    (let y := ShiftOp.times .rcl w k (x, c)
     let z := c.toNat * 2 ^ n + x.toNat
     y.2.toNat * 2 ^ n + y.1.toNat =
       z * 2 ^ (k % (n + 1)) % 2 ^ (n + 1) + z / 2 ^ (n + 1 - k % (n + 1))) ∧
    (let y := ShiftOp.times .rcr w k (x, c)
     let z := c.toNat * 2 ^ n + x.toNat
     y.2.toNat * 2 ^ n + y.1.toNat =
       z / 2 ^ (k % (n + 1)) + z * 2 ^ (n + 1 - k % (n + 1)) % 2 ^ (n + 1))

/-! ### Data transfer -/

/-- MOV, LEA, XLAT, SMSW, SLDT and STR (40 R231-R238, R250, R253; 47 R498; 48 R517, R519): the destination takes the
source's value; no flag, no other register and no other byte of memory changes. A source that fails its std-read check
or a destination that fails its std-write check is that exception. That SMSW stores bits 15-4 of MSW as they are held is
the model's choice: the spec's decision D6 says a proof must not depend on them (log 8). -/
def Obligations.MoveResult : Prop :=
  (∀ (i : Instr) (r : SReg) (off : Word) (w : Width) (e : Exc) (s : State),
    ((∃ m q, i = .movRmReg .toReg w (.mem m) q ∧ r = s.eaSeg m ∧ off = s.ea m) ∨
      (i = .movAccMem w off ∧ r = s.overridden .ds) ∨
      (i = .xlat ∧ w = .byte ∧ r = s.overridden .ds ∧ off = s.regs.bx + zeroExtend s.al)) →
    s.readFault r off w.bytes = some e → exec i s = s.trap e.vector e.code) ∧
  ∀ (i : Instr) (w : Width) (dest : Rm) (v : Word) (s : State),
    ((∃ rm r, i = .movRmReg .toRm w rm r ∧ dest = rm ∧ v = s.reg w r) ∨
      (∃ rm r, i = .movRmReg .toReg w rm r ∧ s.rmReadFault w rm = none ∧ dest = .reg r ∧ v = s.rmValue w rm) ∨
      (∃ rm sr, i = .movRmSreg rm sr ∧ w = .word ∧ dest = rm ∧ v = (s.seg sr).sel) ∨
      (∃ a, i = .movAccMem w a ∧ s.rmReadFault w (.mem (.direct a)) = none ∧ dest = .reg .ax ∧
        v = s.rmValue w (.mem (.direct a))) ∨
      (∃ a, i = .movMemAcc w a ∧ dest = .mem (.direct a) ∧ v = s.reg w .ax) ∨
      (∃ r x, i = .movRegImm r x ∧ w = x.width ∧ dest = .reg r ∧ v = x.value) ∨
      (∃ rm x, i = .movRmImm rm x ∧ w = x.width ∧ dest = rm ∧ v = x.value) ∨
      (∃ r m, i = .lea r m ∧ w = .word ∧ dest = .reg r ∧ v = s.ea m) ∨
      (i = .xlat ∧ w = .byte ∧ dest = .reg .ax ∧
        s.readFault (s.overridden .ds) (s.regs.bx + zeroExtend s.al) 1 = none ∧
        v = s.load .byte (s.seg (s.overridden .ds)) (s.regs.bx + zeroExtend s.al)) ∨
      (∃ rm, i = .smsw rm ∧ w = .word ∧ dest = rm ∧ v = s.msw) ∨
      (∃ rm, i = .sldt rm ∧ s.prot = true ∧ w = .word ∧ dest = rm ∧ v = s.ldtr.sel) ∨
      (∃ rm, i = .str rm ∧ s.prot = true ∧ w = .word ∧ dest = rm ∧ v = s.tr.sel)) →
    (s.rmWriteFault w dest = none → ∃ t, exec i s = .next t ∧ s.DataOnly t ∧ t.flags = s.flags ∧ s.Writes t w dest v) ∧
    ∀ e, s.rmWriteFault w dest = some e → exec i s = s.trap e.vector e.code

/-- XCHG and NOP (40 R248, R249; 47 R496): the operands are exchanged, a memory operand at the address computed from
the registers before; NOP changes nothing. A memory operand that fails its std-write check is that exception. That the
address is computed before the exchange is the spec's decision D41 (logs 44, 45): the model's choice. -/
def Obligations.ExchangeResult : Prop :=
  (∀ (w : Width) (m : Mem) (r : Reg) (e : Exc) (s : State), s.rmWriteFault w (.mem m) = some e →
    exec (.xchgRmReg w (.mem m) r) s = s.trap e.vector e.code) ∧
  (∀ (w : Width) (m : Mem) (r : Reg) (s : State), s.rmWriteFault w (.mem m) = none →
    ∃ t, exec (.xchgRmReg w (.mem m) r) s = .next t ∧ s.DataOnly t ∧ t.flags = s.flags ∧
      (w = .byte ∨ s.LowDecoded → t.load w (s.seg (s.eaSeg m)) (s.ea m) = s.reg w r) ∧
      t.reg w r = s.load w (s.seg (s.eaSeg m)) (s.ea m) ∧
      s.regs.SameBut t.regs w r ∧ s.MemoryKept t (s.cells w (s.seg (s.eaSeg m)) (s.ea m))) ∧
  (∀ (i : Instr) (w : Width) (p q : Reg) (s : State),
    (i = .xchgRmReg w (.reg p) q ∨ (i = .xchgAx p ∧ w = .word ∧ q = .ax)) →
    ∃ t, exec i s = .next t ∧ t = { s with regs := t.regs } ∧ t.reg w p = s.reg w q ∧ t.reg w q = s.reg w p ∧
      (∀ k, k ≠ p → k ≠ q → t.reg w k = s.reg w k) ∧
      (w = .byte → t.regs.sp = s.regs.sp ∧ t.regs.bp = s.regs.bp ∧ t.regs.si = s.regs.si ∧ t.regs.di = s.regs.di)) ∧
  (∀ s : State, exec .nop s = .next s)

/-- The flag instructions (40 R256, R257; 47 R481-R487): exactly the flags each names, exactly their values; STI holds
off INTR for one instruction. CLI and STI complete where the I/O privilege test passes. That STI holds off INTR also
where IF is already 1 is the spec's decision D13 (log 40): the model's choice. -/
def Obligations.FlagInstructionsResult : Prop :=
  ∀ s : State,
    exec .stc s = .next { s with flags := { s.flags with cf := true } } ∧
    exec .clc s = .next { s with flags := { s.flags with cf := false } } ∧
    exec .cmc s = .next { s with flags := { s.flags with cf := !s.flags.cf } } ∧
    exec .std s = .next { s with flags := { s.flags with df := true } } ∧
    exec .cld s = .next { s with flags := { s.flags with df := false } } ∧
    exec .sahf s = .next { s with flags :=
      { s.flags with
        sf := s.ah.getLsbD 7, zf := s.ah.getLsbD 6, af := s.ah.getLsbD 4, pf := s.ah.getLsbD 2,
        cf := s.ah.getLsbD 0 } } ∧
    (∃ t, exec .lahf s = .next t ∧ t = { s with regs := t.regs } ∧ s.regs.SameBut t.regs .byte .sp ∧
      t.ah.getLsbD 7 = s.flags.sf ∧ t.ah.getLsbD 6 = s.flags.zf ∧ t.ah.getLsbD 4 = s.flags.af ∧
      t.ah.getLsbD 2 = s.flags.pf ∧ t.ah.getLsbD 0 = s.flags.cf) ∧
    ((s.prot = true → s.cpl ≤ s.flags.iopl.toNat) →
      exec .cli s = .next { s with flags := { s.flags with ifl := false } } ∧
      exec .sti s = .next { s with flags := { s.flags with ifl := true }, inhibit := .intr })

/-- The flags word (40 R258, 10 R26-R38): each named flag stands at its bit, bits 15, 5, 3 and 1 are those of the
platform's FLAG_RESERVED_IMAGE, and reading the word back gives the same flags, whatever the reserved bits of the word
are. -/
def Obligations.FlagsWordRoundTrip : Prop :=
  ∀ (f : Flags) (r v : Word),
    let x := f.image r
    x.getLsbD 0 = f.cf ∧ x.getLsbD 2 = f.pf ∧ x.getLsbD 4 = f.af ∧ x.getLsbD 6 = f.zf ∧ x.getLsbD 7 = f.sf ∧
    x.getLsbD 8 = f.tf ∧ x.getLsbD 9 = f.ifl ∧ x.getLsbD 10 = f.df ∧ x.getLsbD 11 = f.of ∧
    x.extractLsb' 12 2 = f.iopl ∧ x.getLsbD 14 = f.nt ∧ x &&& 0x802A#16 = r &&& 0x802A#16 ∧
    Flags.ofImage ((x &&& 0x7FD5#16) ||| (v &&& 0x802A#16)) = f

/-- PUSH in every form and PUSHF (40 R239-R242, R258): when the word below SP can be written, it takes the value, SP
goes down by 2, and nothing else changes; PUSH SP stores SP as it was. A word that cannot be written is, in protected
mode, that exception from the state before; in real mode, with SP = 1, interrupt 13 taken with SP at 1 or FFFFH
(20 R103): the spec's decision D9 (logs 35, 45). -/
def Obligations.PushResult : Prop :=
  ∀ (i : Instr) (v : Word) (s : State),
    ((∃ r, i = .pushReg r ∧ v = s.reg16 r) ∨
      (∃ rm, i = .pushRm rm ∧ s.rmReadFault .word rm = none ∧ v = s.rmValue .word rm) ∨
      (∃ sr, i = .pushSreg sr ∧ v = (s.seg sr).sel) ∨ i = .pushImm v ∨ (∃ b, i = .pushImm8 b ∧ v = signExtend b) ∨
      (i = .pushf ∧ v = s.flagImage)) →
    s.Quiet →
    (s.writeFault .ss (s.regs.sp - 2) 2 = none →
      ∃ t, exec i s = .next t ∧ s.DataOnly t ∧ t.flags = s.flags ∧ s.regs.SameBut t.regs .word .sp ∧
        t.regs.sp = s.regs.sp - 2 ∧ (s.LowDecoded → t.load .word s.ss (s.regs.sp - 2) = v) ∧
        s.MemoryKept t (s.cells .word s.ss (s.regs.sp - 2))) ∧
    (s.prot = true → ∀ e, s.writeFault .ss (s.regs.sp - 2) 2 = some e → exec i s = s.trap e.vector e.code) ∧
    (s.prot = false → s.regs.sp = 1 → ∃ (sp : Word) (k : Nat), (sp = 1 ∨ sp = 0xFFFF#16) ∧
      exec i s = ({ s with regs := s.regs.set .sp sp, draws := k } : State).trap 13 (some 0))

/-- PUSHA and POPA (40 R243, R244): when all eight words can be accessed, AX, CX, DX, BX, the old SP, BP, SI and DI
lie below the old top of stack, AX highest; POPA loads all but SP from there, and SP goes up by 16. In protected mode a
first or a last word that cannot be accessed is that exception from the state before. A word at offset FFFFH in
real mode, or in protected mode a word between the first and the last that fails its check, ends the instruction
part-way, with interrupt 13 or with #SS(0): the words already pushed are in memory, the registers already popped are
loaded, SP is one of 0000H, 0001H, FFFEH and FFFFH. This reading is the spec's decision D9, the registers POPA had not
loaded may hold any value (U23; log 35), and whether POPA in real mode is interrupt 13 or shutdown is left open (20
R103, log 11; the registers at the shutdown D16, log 27). -/
def Obligations.PushAllPopAll : Prop :=
  (∀ s : State, s.Quiet → (∀ k : Fin 8, s.writeFault .ss (s.regs.sp - 2 - BitVec.ofNat 16 (2 * k)) 2 = none) →
    ∃ t, exec .pusha s = .next t ∧ s.DataOnly t ∧ t.flags = s.flags ∧ s.regs.SameBut t.regs .word .sp ∧
      t.regs.sp = s.regs.sp - 16 ∧
      (s.LowDecoded →
        t.load .word s.ss (t.regs.sp + 14) = s.regs.ax ∧ t.load .word s.ss (t.regs.sp + 12) = s.regs.cx ∧
        t.load .word s.ss (t.regs.sp + 10) = s.regs.dx ∧ t.load .word s.ss (t.regs.sp + 8) = s.regs.bx ∧
        t.load .word s.ss (t.regs.sp + 6) = s.regs.sp ∧ t.load .word s.ss (t.regs.sp + 4) = s.regs.bp ∧
        t.load .word s.ss (t.regs.sp + 2) = s.regs.si ∧ t.load .word s.ss t.regs.sp = s.regs.di) ∧
      s.MemoryKept t (s.stackCells (s.regs.sp - 16) 8)) ∧
  (∀ s : State, s.Quiet → (∀ k : Fin 8, s.readFault .ss (s.regs.sp + BitVec.ofNat 16 (2 * k)) 2 = none) →
    let word := fun k : Word => s.load .word s.ss (s.regs.sp + k)
    exec .popa s = .next { s with regs :=
      { di := word 0, si := word 2, bp := word 4, sp := s.regs.sp + 16, bx := word 8, dx := word 10, cx := word 12,
        ax := word 14 } }) ∧
  (∀ (e : Exc) (s : State), s.prot = true →
    ([s.writeFault .ss (s.regs.sp - 2) 2, s.writeFault .ss (s.regs.sp - 16) 2].findSome? id = some e →
      exec .pusha s = s.trap e.vector e.code) ∧
    ([s.readFault .ss s.regs.sp 2, s.readFault .ss (s.regs.sp + 14) 2].findSome? id = some e →
      exec .popa s = s.trap e.vector e.code)) ∧
  (∀ (k : Nat) (s : State), s.Quiet → k < 8 →
    let fits := fun j => s.writeFault .ss (s.regs.sp - 2 - BitVec.ofNat 16 (2 * j)) 2 = none
    ((s.prot = false ∧ s.regs.sp.toNat = 2 * k + 1) ∨
      (s.prot = true ∧ fits 0 ∧ fits 7 ∧ (∀ j < k, fits j) ∧ ¬ fits k)) →
    ∃ t, exec .pusha s = t.trap (if s.prot then 12 else 13) (some 0) ∧ s.DataOnly t ∧ t.flags = s.flags ∧
      s.regs.SameBut t.regs .word .sp ∧ WrapSp t.regs.sp ∧
      (s.LowDecoded → ∀ j r, j < k → [Reg.ax, .cx, .dx, .bx, .sp, .bp, .si, .di][j]? = some r →
        t.load .word s.ss (s.regs.sp - 2 - BitVec.ofNat 16 (2 * j)) = s.reg16 r) ∧
      s.MemoryKept t (s.stackCells (s.regs.sp - BitVec.ofNat 16 (2 * k)) k)) ∧
  (∀ (k : Nat) (s : State), s.Quiet → k < 8 →
    let fits := fun j => s.readFault .ss (s.regs.sp + BitVec.ofNat 16 (2 * j)) 2 = none
    let partly := fun t : State => s.RegsFlagsOnly t ∧ t.flags = s.flags ∧ WrapSp t.regs.sp ∧
      ∀ j r, j < k → r ≠ .sp → [Reg.di, .si, .bp, .sp, .bx, .dx, .cx, .ax][j]? = some r →
        t.reg16 r = s.load .word s.ss (s.regs.sp + BitVec.ofNat 16 (2 * j))
    (s.prot = false → s.regs.sp.toNat + 2 * k = 0xFFFF →
      exec .popa s = s.down ∨ ∃ t, partly t ∧ exec .popa s = t.trap 13 (some 0)) ∧
    (s.prot = true → fits 0 → fits 7 → (∀ j < k, fits j) → ¬ fits k →
      ∃ t, partly t ∧ exec .popa s = t.trap 12 (some 0)))

/-- POP of a word register or an r/m operand and POPF (40 R245, R246, R276): the word at the top of the stack goes to
the operand and SP goes up by 2 first, so that POP SP leaves the popped word. POPF loads the status flags, TF and DF
always; in real mode IF too, IOPL and NT never; in protected mode NT always, IF only with CPL <= IOPL, IOPL only with
CPL = 0. POP SP is the spec's decision D42 (log 45). For these and POP of a segment register, a word that cannot be read
is, in protected mode, that exception from the state before; in real mode, at SP = FFFFH, shutdown or interrupt 13,
which is left open (20 R103, log 11). A destination in memory that cannot be written is that exception, in protected
mode from the state before, in real mode with SP as before or past the word (40 R246, D9; log 35). What the registers
hold at the shutdown is D16 (log 27), SP at that interrupt 13 log 11: the model's choices. -/
def Obligations.PopResult : Prop :=
  (∀ (i : Instr) (s : State),
    ((∃ r, i = .popReg r ∨ i = .popRm (.reg r)) ∨ i = .popf ∨ i = .popEs ∨ i = .popSs ∨ i = .popDs ∨
      ∃ m, i = .popRm (.mem m) ∧ s.rmWriteFault .word (.mem m) = none) →
    (s.prot = true → ∀ e, s.readFault .ss s.regs.sp 2 = some e → exec i s = s.trap e.vector e.code) ∧
    (s.prot = false → s.regs.sp = 0xFFFF#16 → exec i s = s.down ∨ exec i s = s.trap 13 (some 0))) ∧
  (∀ (m : Mem) (e : Exc) (s : State), s.rmWriteFault .word (.mem m) = some e →
    (s.prot = true → exec (.popRm (.mem m)) s = s.trap e.vector e.code) ∧
    (s.prot = false → ∃ (sp : Word) (k : Nat), (sp = s.regs.sp ∨ sp = s.regs.sp + 2) ∧
      exec (.popRm (.mem m)) s = ({ s with regs := s.regs.set .sp sp, draws := k } : State).trap e.vector e.code)) ∧
  ∀ s : State, s.readFault .ss s.regs.sp 2 = none →
    let v := s.load .word s.ss s.regs.sp
    (∀ (i : Instr) (r : Reg), (i = .popReg r ∨ i = .popRm (.reg r)) →
      ∃ t, exec i s = .next t ∧ t = { s with regs := t.regs } ∧ t.reg16 r = v ∧
        (r ≠ .sp → t.regs.sp = s.regs.sp + 2) ∧ (∀ q, q ≠ r → q ≠ .sp → t.reg16 q = s.reg16 q)) ∧
    (∀ m : Mem, s.rmWriteFault .word (.mem m) = none →
      ∃ t, exec (.popRm (.mem m)) s = .next t ∧ s.yieldBus.DataOnly t ∧ t.flags = s.flags ∧
        s.regs.SameBut t.regs .word .sp ∧ t.regs.sp = s.regs.sp + 2 ∧
        (s.LowDecoded → t.load .word (s.seg (s.eaSeg m)) (s.ea m) = v) ∧
        s.yieldBus.MemoryKept t (s.cells .word (s.seg (s.eaSeg m)) (s.ea m))) ∧
    exec .popf s = .next { s with
      regs := s.regs.set .sp (s.regs.sp + 2)
      flags :=
        { cf := v.getLsbD 0, pf := v.getLsbD 2, af := v.getLsbD 4, zf := v.getLsbD 6, sf := v.getLsbD 7,
          tf := v.getLsbD 8, df := v.getLsbD 10, of := v.getLsbD 11
          ifl := if s.prot = true ∧ s.flags.iopl.toNat < s.cpl then s.flags.ifl else v.getLsbD 9
          iopl := if s.prot = true ∧ s.cpl = 0 then v.extractLsb' 12 2 else s.flags.iopl
          nt := if s.prot = true then v.getLsbD 14 else s.flags.nt } }

/-- Segment loads in real mode (20 R106; 40 R234, R247, R254, R255): MOV, POP, LDS and LES leave the selector, a base
of 16 times it and a limit of 64K; no other segment register changes; a load of SS holds off all interrupts for one
instruction. -/
def Obligations.SegmentLoadReal : Prop :=
  ∀ (x : SegLoad) (r : SReg) (i : Instr) (s : State), x.instr r = some i → x.ready s → s.prot = false → s.Quiet →
    ∃ g : Segment, exec i s = .next (x.result r g s) ∧ g.sel = x.selector s ∧
      g.base.toNat = 16 * (x.selector s).toNat ∧ g.limit = 0xFFFF#16 ∧ g.valid = true

/-- Segment loads in protected mode that succeed (20 R96, R104, R105): base, limit and rights come from the
descriptor, the accessed bit is set in the cache and in memory, and nothing else changes. DS and ES take a data or
readable code segment, non-conforming ones only with DPL at least CPL and RPL; SS takes a writable data segment with
DPL and RPL equal to CPL. -/
def Obligations.SegmentLoadProtected : Prop :=
  ∀ (x : SegLoad) (r : SReg) (i : Instr) (d : Desc) (s : State), x.instr r = some i → x.ready s → s.prot = true →
    s.Quiet →
    let sel := x.selector s
    4 ≤ sel.toNat → s.fetchDesc sel = some d → d.ar.getLsbD 7 = true → d.ar.getLsbD 4 = true →
    (if r = .ss then
      d.ar.getLsbD 3 = false ∧ d.ar.getLsbD 1 = true ∧ rightsDpl d.ar = s.cpl ∧ sel.toNat % 4 = s.cpl
    else
      (d.ar.getLsbD 3 = true → d.ar.getLsbD 1 = true) ∧
        ((d.ar.getLsbD 3 = true ∧ d.ar.getLsbD 2 = true) ∨
          (s.cpl ≤ rightsDpl d.ar ∧ sel.toNat % 4 ≤ rightsDpl d.ar))) →
    ∃ (t : State) (g : Segment), exec i s = .next t ∧
      t = { x.result r g s with mem := t.mem, writes := t.writes, fetch := { s.fetch with stale := t.fetch.stale } } ∧
      g = d.cached sel ∧
      t.byteAt (d.addr + 5) = d.ar ||| 1#8 ∧ s.MemoryKept t [s.physAddr (d.addr + 5)]

/-- Segment loads in protected mode that do not succeed (20 R92, R104, R105; 60 R548): a null selector loads into DS
or ES without a valid cache and is #GP(0) for SS; a selector outside its table or of the wrong kind is
#GP(selector); a segment that is not present is #NP(selector), for SS #SS(selector). -/
def Obligations.SegmentLoadTraps : Prop :=
  ∀ (x : SegLoad) (r : SReg) (i : Instr) (s : State), x.instr r = some i → x.ready s → s.prot = true → s.Quiet →
    let sel := x.selector s
    let trap := fun (v : Byte) (c : Word) => s.trap v (some c)
    (sel.toNat < 4 → r ≠ .ss →
      exec i s = .next (x.result r { s.seg r with sel := sel, valid := false, real := false } s)) ∧
    (sel.toNat < 4 → r = .ss → exec i s = trap 13 0) ∧
    (4 ≤ sel.toNat → s.fetchDesc sel = none → exec i s = trap 13 (sel &&& 0xFFFC#16)) ∧
    (4 ≤ sel.toNat → ∀ d, s.fetchDesc sel = some d →
      (d.ar.getLsbD 4 = false → exec i s = trap 13 (sel &&& 0xFFFC#16)) ∧
      (r = .ss → d.ar.getLsbD 4 = true →
        (d.ar.getLsbD 3 = true ∨ d.ar.getLsbD 1 = false ∨ rightsDpl d.ar ≠ s.cpl ∨ sel.toNat % 4 ≠ s.cpl) →
        exec i s = trap 13 (sel &&& 0xFFFC#16)) ∧
      (r = .ss → d.ar.getLsbD 4 = true → d.ar.getLsbD 3 = false → d.ar.getLsbD 1 = true →
        rightsDpl d.ar = s.cpl → sel.toNat % 4 = s.cpl → d.ar.getLsbD 7 = false →
        exec i s = trap 12 (sel &&& 0xFFFC#16)) ∧
      (r ≠ .ss → d.ar.getLsbD 4 = true → d.ar.getLsbD 3 = true → d.ar.getLsbD 1 = false →
        exec i s = trap 13 (sel &&& 0xFFFC#16)) ∧
      (r ≠ .ss → d.ar.getLsbD 4 = true → (d.ar.getLsbD 3 = false ∨ d.ar.getLsbD 2 = false) →
        (rightsDpl d.ar < s.cpl ∨ rightsDpl d.ar < sel.toNat % 4) → exec i s = trap 13 (sel &&& 0xFFFC#16)) ∧
      (r ≠ .ss → d.ar.getLsbD 4 = true → (d.ar.getLsbD 3 = true → d.ar.getLsbD 1 = true) →
        ((d.ar.getLsbD 3 = true ∧ d.ar.getLsbD 2 = true) ∨
          (s.cpl ≤ rightsDpl d.ar ∧ sel.toNat % 4 ≤ rightsDpl d.ar)) → d.ar.getLsbD 7 = false →
        exec i s = trap 11 (sel &&& 0xFFFC#16)))

/-! ### Ports, strings, prefixes -/

/-- IN and OUT (20 R110; 40 R251, R252): with the I/O privilege test passed, IN leaves the port's value in AL or AX and
changes no other register, no flag and no memory; OUT hands the value to the port, a word at an odd port as two bytes,
low byte first, and changes nothing else. The word at port FFFFH is left out: the model declines it (log 16). The two
bytes at an odd port are the spec's inference (D21), how port values come and writes are recorded is D20 and log 43: the
model's choices. -/
def Obligations.PortTransferResult : Prop :=
  ∀ (w : Width) (port : Word) (s : State), (s.prot = true → s.cpl ≤ s.flags.iopl.toNat) →
    (w = .byte ∨ port ≠ 0xFFFF#16) →
    (∀ i, ((∃ p, i = .inImm w p ∧ port = zeroExtend p) ∨ (i = .inDx w ∧ port = s.regs.dx)) →
      ∃ t, exec i s = .next t ∧ s.RegsFlagsOnly t ∧ t.flags = s.flags ∧ s.regs.SameBut t.regs w .ax ∧
        ∀ v, s.pins.portData = some v → t.reg w .ax = w.trunc v) ∧
    (∀ i, ((∃ p, i = .outImm w p ∧ port = zeroExtend p) ∨ (i = .outDx w ∧ port = s.regs.dx)) →
      exec i s = .next { s with out :=
        match w with
        | .byte => .byte port.toNat s.al :: s.out
        | .word =>
          if port.toNat % 2 = 0 then .word port.toNat s.regs.ax :: s.out
          else .byte (port.toNat + 1) s.ah :: .byte port.toNat s.al :: s.out })

/-- MOVS, STOS and LODS (43 R360, R362, R365, R366, R380): one element moves; SI and DI advance by its size, down when
DF is set; no flag changes; what follows under a repeat prefix is `afterIteration`: an iteration as a step of its own,
IP back at the instruction between two (log 18), the test of CX in the same step and IP past the last one at once (log
19), the model's choices. -/
def Obligations.StringMoveResult : Prop :=
  ∀ (w : Width) (s : State), (s.inst.rep ≠ none → s.regs.cx ≠ 0) →
    let src := s.load w (s.seg (s.overridden .ds)) s.regs.si
    let srcOk := s.readFault (s.overridden .ds) s.regs.si w.bytes = none
    let dstOk := s.writeFault .es s.regs.di w.bytes = none
    (srcOk → dstOk →
      let v := s.yieldBus
      ∃ u, exec (.movs w) s = .next (s.afterIteration u false) ∧ v.DataOnly u ∧ u.flags = s.flags ∧
        u.regs = { s.regs with si := s.advanced w s.regs.si, di := s.advanced w s.regs.di } ∧
        (w = .byte ∨ s.LowDecoded → u.load w s.es s.regs.di = src) ∧ v.MemoryKept u (s.cells w s.es s.regs.di)) ∧
    (dstOk →
      ∃ u, exec (.stos w) s = .next (s.afterIteration u false) ∧ s.DataOnly u ∧ u.flags = s.flags ∧
        u.regs = { s.regs with di := s.advanced w s.regs.di } ∧
        (w = .byte ∨ s.LowDecoded → u.load w s.es s.regs.di = s.reg w .ax) ∧ s.MemoryKept u (s.cells w s.es s.regs.di)) ∧
    (srcOk →
      ∃ u, exec (.lods w) s = .next (s.afterIteration u false) ∧ u = { s with regs := u.regs } ∧
        u.reg w .ax = src ∧ u.regs.si = s.advanced w s.regs.si ∧
        (∀ q, q ≠ .ax → q ≠ .si → u.reg16 q = s.reg16 q) ∧ (w = .byte → u.ah = s.ah))

/-- CMPS and SCAS (43 R360, R363, R364, R380): the flags are those of the source element or AL or AX minus the ES:DI
element; nothing is stored; SI and DI advance; what follows under a repeat prefix is `afterIteration`, which ends the
repetition when ZF fails the prefix's condition. Between the two reads of CMPS other masters' writes may fall (20 R117).
The order of CMPS's operands, and so its flags, is a passage the spec marks as general knowledge (K19, log 44), an
iteration as a step of its own with IP back at the instruction log 18, that the last one moves IP past it at once log
19: the model's choices. -/
def Obligations.StringCompareResult : Prop :=
  ∀ (w : Width) (s : State), (s.inst.rep ≠ none → s.regs.cx ≠ 0) →
    s.readFault .es s.regs.di w.bytes = none →
    let compared := fun (f : Flags) (a b : Word) =>
      s.flags.StatusOnly f ∧ f.ShowResult w (BitVec.ofInt 16 (((a.toNat : Int) - b.toNat) % 2 ^ w.bits)) ∧
      f.cf = decide (a.toNat < b.toNat) ∧ f.af = decide (a.toNat % 16 < b.toNat % 16) ∧
      f.of = !w.fits (w.toInt a - w.toInt b)
    (s.readFault (s.overridden .ds) s.regs.si w.bytes = none →
      let v := s.yieldBus
      ∃ u, exec (.cmps w) s = .next (s.afterIteration u true) ∧ u = { v with regs := u.regs, flags := u.flags } ∧
        u.regs = { s.regs with si := s.advanced w s.regs.si, di := s.advanced w s.regs.di } ∧
        compared u.flags (s.load w (s.seg (s.overridden .ds)) s.regs.si) (v.load w s.es s.regs.di)) ∧
    (∃ u, exec (.scas w) s = .next (s.afterIteration u true) ∧ u = { s with regs := u.regs, flags := u.flags } ∧
      u.regs = { s.regs with di := s.advanced w s.regs.di } ∧
      compared u.flags (s.reg w .ax) (s.load w s.es s.regs.di))

/-- INS and OUTS (43 R360, R367, R368, R380): one element moves between port DX and ES:DI or the source; only DI or SI
advances; no flag changes. The word at port FFFFH is left out: the model declines it (log 16). The two bytes of a word
at an odd port (D21), how port values come and writes are recorded (D20, log 43) and an iteration as a step of its own
(logs 18, 19) are the model's choices. -/
def Obligations.StringPortResult : Prop :=
  ∀ (w : Width) (s : State), (s.inst.rep ≠ none → s.regs.cx ≠ 0) →
    (s.prot = true → s.cpl ≤ s.flags.iopl.toNat) → (w = .byte ∨ s.regs.dx ≠ 0xFFFF#16) →
    (s.writeFault .es s.regs.di w.bytes = none →
      ∃ u, exec (.ins w) s = .next (s.afterIteration u false) ∧ s.DataOnly u ∧ u.flags = s.flags ∧
        u.regs = { s.regs with di := s.advanced w s.regs.di } ∧
        (∀ v, s.pins.portData = some v → w = .byte ∨ s.LowDecoded → u.load w s.es s.regs.di = w.trunc v) ∧
        s.MemoryKept u (s.cells w s.es s.regs.di)) ∧
    (s.readFault (s.overridden .ds) s.regs.si w.bytes = none →
      ∃ u, exec (.outs w) s = .next (s.afterIteration u false) ∧ u = { s with regs := u.regs, out := u.out } ∧
        u.regs = { s.regs with si := s.advanced w s.regs.si } ∧
        let v := s.load w (s.seg (s.overridden .ds)) s.regs.si
        u.out = match w with
          | .byte => .byte s.regs.dx.toNat (v.extractLsb' 0 8) :: s.out
          | .word =>
            if s.regs.dx.toNat % 2 = 0 then .word s.regs.dx.toNat v :: s.out
            else .byte (s.regs.dx.toNat + 1) (v.extractLsb' 8 8) :: .byte s.regs.dx.toNat (v.extractLsb' 0 8) :: s.out)

/-- Prefixes and the repeat count (30 R181, R183; 43 R380; 47 R494, R495): REP, REPNE and a segment override set what
the following instruction reads and nothing else; LOCK does so where the I/O privilege test passes; a repeated string
instruction with CX = 0 does nothing. That the last prefix of a class decides, whatever stood before it, is the spec's
decision D22, general knowledge (R183 (b); logs 44, 45), that the pass with CX = 0 is one whole step log 19: the model's
choices. -/
def Obligations.PrefixResult : Prop :=
  ∀ s : State,
    exec .rep s = .next { s with inst := { s.inst with rep := some .repe } } ∧
    exec .repne s = .next { s with inst := { s.inst with rep := some .repne } } ∧
    (∀ sr, exec (.seg sr) s = .next { s with inst := { s.inst with seg := some sr } }) ∧
    ((s.prot = true → s.cpl ≤ s.flags.iopl.toNat) →
      exec .lock s = .next { s with inst := { s.inst with lock := true } }) ∧
    (s.inst.rep ≠ none → s.regs.cx = 0 → ∀ (w : Width) (i : Instr),
      (i = .movs w ∨ i = .cmps w ∨ i = .stos w ∨ i = .lods w ∨ i = .scas w ∨ i = .ins w ∨ i = .outs w) →
      exec i s = .next s)

/-! ### Control transfer -/

/-- The conditional jumps and JCXZ (44 R391-R394): with the condition met and the target within the code segment, IP
is the following instruction's offset plus the signed displacement modulo 2^16; not met, nothing changes; met with
the target beyond the limit, #GP(0) from the state before. -/
def Obligations.ConditionalJumpResult : Prop :=
  ∀ (j : Jump) (cb : Byte) (s : State),
    let target := BitVec.ofInt 16 (s.ip.toNat + cb.toInt)
    (j.taken s → s.InCode target → exec (j.instr cb) s = .next (s.at target)) ∧
    (¬ j.taken s → exec (j.instr cb) s = .next s) ∧
    (j.taken s → ¬ s.InCode target →
      exec (j.instr cb) s = s.trap 13 (some 0))

/-- LOOP, LOOPE and LOOPNE (44 R395-R397): CX goes down by one, no flag changes, and the jump is taken when CX is then
not 0 and ZF has the value the form names; a target beyond the limit is #GP(0) with CX as it was. That CX stays as it
was is the spec's decision D7 (log 45). -/
def Obligations.LoopResult : Prop :=
  ∀ (i : Instr) (c : Prop) (cb : Byte) (s : State),
    ((i = .loop cb ∧ c = True) ∨ (i = .loope cb ∧ c = (s.flags.zf = true)) ∨
      (i = .loopne cb ∧ c = (s.flags.zf = false))) →
    let target := BitVec.ofInt 16 (s.ip.toNat + cb.toInt)
    let t := { s with regs := { s.regs with cx := s.regs.cx - 1 } }
    (s.regs.cx ≠ 1 → c → s.InCode target → exec i s = .next (t.at target)) ∧
    (s.regs.cx = 1 ∨ ¬ c → exec i s = .next t) ∧
    (s.regs.cx ≠ 1 → c → ¬ s.InCode target →
      exec i s = s.trap 13 (some 0))

/-- The near JMP, CALL and RET forms (44 R391, R392, R398-R402): IP takes the target, relative or absolute; CALL stores
the offset of the following instruction below SP; RET takes the word at the top of the stack and SP goes up by 2 and by
the immediate; a target beyond the limit is #GP(0) before anything changes. A word that CALL cannot push is that
exception from the state before; one that RET cannot pop is, in protected mode, that exception from the state before, in
real mode, at SP = FFFFH, shutdown or interrupt 13, which is left open (20 R103, log 11). That both checks of CALL come
before any change is the spec's decision D7 (log 45), what the registers hold at the shutdown D16 (log 27). -/
def Obligations.NearTransferResult : Prop :=
  (∀ (i : Instr) (calls : Bool) (target : Word) (s : State), s.Quiet →
    ((∃ cb, i = .jmpShort cb ∧ calls = false ∧ target = BitVec.ofInt 16 (s.ip.toNat + cb.toInt)) ∨
      (∃ cw, i = .jmpNear cw ∧ calls = false ∧ target = s.ip + cw) ∨
      (∃ rm, i = .jmpRm rm ∧ calls = false ∧ s.rmReadFault .word rm = none ∧ target = s.rmValue .word rm) ∨
      (∃ cw, i = .callNear cw ∧ calls = true ∧ target = s.ip + cw) ∨
      (∃ rm, i = .callRm rm ∧ calls = true ∧ s.rmReadFault .word rm = none ∧ target = s.rmValue .word rm)) →
    (s.InCode target → calls = false → exec i s = .next (s.at target)) ∧
    (s.InCode target → calls = true → s.writeFault .ss (s.regs.sp - 2) 2 = none →
      ∃ t, exec i s = .next t ∧
        t = { s.at target with regs := s.regs.set .sp (s.regs.sp - 2), mem := t.mem, writes := t.writes } ∧
        (s.LowDecoded → t.load .word s.ss (s.regs.sp - 2) = s.ip) ∧
        s.MemoryKept t (s.cells .word s.ss (s.regs.sp - 2))) ∧
    (s.InCode target → calls = true → ∀ e, s.writeFault .ss (s.regs.sp - 2) 2 = some e →
      exec i s = s.trap e.vector e.code) ∧
    (¬ s.InCode target → exec i s = s.trap 13 (some 0))) ∧
  (∀ (i : Instr) (n : Word) (s : State), ((i = .retNear ∧ n = 0) ∨ i = .retNearImm n) →
    let target := s.load .word s.ss s.regs.sp
    (s.readFault .ss s.regs.sp 2 = none →
      (s.InCode target →
        exec i s = .next { s.at target with regs := s.regs.set .sp (s.regs.sp + 2 + n) }) ∧
      (¬ s.InCode target → exec i s = s.trap 13 (some 0))) ∧
    (s.prot = true → ∀ e, s.readFault .ss s.regs.sp 2 = some e → exec i s = s.trap e.vector e.code) ∧
    (s.prot = false → s.regs.sp = 0xFFFF#16 → exec i s = s.down ∨ exec i s = s.trap 13 (some 0)))

/-- The far JMP, CALL and RET forms in real mode (44 R403-R405): CS:IP takes the pointer; CALL stores CS, then the
offset of the following instruction; RET takes the offset, then the selector, and releases the immediate's bytes; the
limit of CS stays 64K and its rights (93H, log 29) stay those of every real-mode segment. Without room for both words
CALL is interrupt 13 from the state before: the spec's decision D7 at R404, with D9 at 20 R103 (logs 24, 45). With one
of RET's words at offset FFFFH it is shutdown or interrupt 13, which is left open (20 R103, log 11; the registers at the
shutdown D16, log 27). -/
def Obligations.FarTransferReal : Prop :=
  ∀ (s : State), s.prot = false → s.Quiet →
    (∀ (i : Instr) (calls : Bool) (off sel : Word),
      s.FarForm i calls off sel →
      (calls = false → ∃ g, exec i s = .next { s.at off with cs := g } ∧ g.RealLoad sel) ∧
      (calls = true → s.writeFault .ss (s.regs.sp - 2) 2 = none → s.writeFault .ss (s.regs.sp - 4) 2 = none →
        ∃ t g, exec i s = .next t ∧
          t = { s.at off with cs := g, regs := s.regs.set .sp (s.regs.sp - 4), mem := t.mem, writes := t.writes } ∧
          g.RealLoad sel ∧
          (s.LowDecoded →
            t.load .word s.ss (s.regs.sp - 2) = s.cs.sel ∧ t.load .word s.ss (s.regs.sp - 4) = s.ip) ∧
          s.MemoryKept t (s.stackCells (s.regs.sp - 4) 2)) ∧
      (calls = true → s.regs.sp = 1 ∨ s.regs.sp = 3 → exec i s = s.trap 13 (some 0))) ∧
    (∀ (i : Instr) (n : Word), ((i = .retFar ∧ n = 0) ∨ i = .retFarImm n) → s.regs.sp = 0xFFFF#16 ∨ s.regs.sp = 0xFFFD#16 →
      exec i s = s.down ∨ exec i s = s.trap 13 (some 0)) ∧
    (∀ (i : Instr) (n : Word), ((i = .retFar ∧ n = 0) ∨ i = .retFarImm n) →
      s.readFault .ss s.regs.sp 2 = none → s.readFault .ss (s.regs.sp + 2) 2 = none →
      let sel := s.load .word s.ss (s.regs.sp + 2)
      ∃ g, exec i s = .next
          { s.at (s.load .word s.ss s.regs.sp) with cs := g, regs := s.regs.set .sp (s.regs.sp + 4 + n) } ∧
        g.RealLoad sel)

/-- Far JMP and CALL to a code segment in protected mode (44 R408, R411, R415, R416; 20 R96, R107): CS takes the
selector with RPL = CPL and the descriptor, IP the offset, CALL stores CS and the offset of the following instruction;
the accessed bit is set. The privilege rule, presence, stack room and limit fail with the exceptions of the listings,
each from the state before. A system descriptor that is no task state segment, call gate or task gate to go through is
#GP(selector), present or not. That the room for the two words is checked word by word, also where SP wraps through 0000H,
is log 32: the model's choice. -/
def Obligations.FarTransferProtected : Prop :=
  ∀ (i : Instr) (calls : Bool) (off sel : Word) (s : State), s.FarForm i calls off sel → s.prot = true →
    s.Quiet →
    (sel.toNat < 4 → exec i s = s.trap 13 (some 0)) ∧
    (4 ≤ sel.toNat → s.fetchDesc sel = none → exec i s = s.trap 13 (some (sel &&& 0xFFFC#16))) ∧
    (∀ d, s.Named sel d → d.ar.getLsbD 4 = false → d.ar.extractLsb' 0 4 ∉ [1#4, 3#4, 4#4, 5#4] →
      exec i s = s.trap 13 (some (sel &&& 0xFFFC#16))) ∧
    (∀ d, s.Named sel d → d.ar.getLsbD 4 = true →
      let allowed :=
        if d.ar.getLsbD 2 = true then rightsDpl d.ar ≤ s.cpl else sel.toNat % 4 ≤ s.cpl ∧ rightsDpl d.ar = s.cpl
      let room := s.writeFault .ss (s.regs.sp - 2) 2 = none ∧ s.writeFault .ss (s.regs.sp - 4) 2 = none
      (d.ar.getLsbD 3 = false → exec i s = s.trap 13 (some (sel &&& 0xFFFC#16))) ∧
      (d.ar.getLsbD 3 = true → ¬ allowed → exec i s = s.trap 13 (some (sel &&& 0xFFFC#16))) ∧
      (d.ar.getLsbD 3 = true → allowed → d.ar.getLsbD 7 = false →
        exec i s = s.trap 11 (some (sel &&& 0xFFFC#16))) ∧
      (d.ar.getLsbD 3 = true → allowed → d.ar.getLsbD 7 = true →
        (calls = true → ¬ room → exec i s = s.trap 12 (some 0)) ∧
        ((calls = true → room) → d.word0.toNat < off.toNat → exec i s = s.trap 13 (some 0)) ∧
        (calls = false → off.toNat ≤ d.word0.toNat →
          ∃ t, exec i s = .next t ∧
            t = { s.at off with cs := d.cached (withLevel sel s.cpl), mem := t.mem, writes := t.writes } ∧
            t.byteAt (d.addr + 5) = d.ar ||| 1#8 ∧ s.MemoryKept t [s.physAddr (d.addr + 5)]) ∧
        (calls = true → room → off.toNat ≤ d.word0.toNat →
          ∃ t, exec i s = .next t ∧
            t = { s.at off with
                  cs := d.cached (withLevel sel s.cpl), regs := s.regs.set .sp (s.regs.sp - 4)
                  mem := t.mem, writes := t.writes } ∧
            (t.byteAt (d.addr + 5)).getLsbD 0 = true ∧
            (s.physAddr (d.addr + 5) ∉ s.stackCells (s.regs.sp - 4) 2 →
              t.byteAt (d.addr + 5) = d.ar ||| 1#8 ∧
              (s.LowDecoded →
                t.load .word s.ss (s.regs.sp - 2) = s.cs.sel ∧ t.load .word s.ss (s.regs.sp - 4) = s.ip)) ∧
            s.MemoryKept t (s.physAddr (d.addr + 5) :: s.stackCells (s.regs.sp - 4) 2))))

/-- CALL through a call gate to a more privileged level (44 R417, R418; 20 R90, R114): CS:IP comes from the gate, the
offset of the instruction is ignored, SS:SP comes from the task state segment for the new level, and the old SS:SP, the
parameter words, CS and the offset of the following instruction lie on the new stack; the accessed bits of the two
descriptors are set (20 R96). A new stack that cannot take them (`State.InnerStackFault`), parameter words that cannot
be read (#SS(0)) and an offset beyond the code segment (#GP(0)) are their exceptions from the state before. That the
room and the parameter words are checked word by word (log 32), that and in which order they are copied (K20, D30), that
all are read before the first push (log 48), where the task state segment holds the inner SS:SP (K4) and that its limit
is checked (log 25) are the model's choice: passages the spec marks as general knowledge or decides, or its own (logs
44, 45). -/
def Obligations.CallGateToInnerLevel : Prop :=
  ∀ (i : Instr) (off sel : Word) (gate code : Desc) (s : State), s.FarForm i true off sel → s.prot = true →
    s.Quiet → s.Named sel gate → gate.System 4 → s.cpl ≤ rightsDpl gate.ar → sel.toNat % 4 ≤ rightsDpl gate.ar →
    s.Named gate.word1 code →
    let level := rightsDpl code.ar
    code.RunsAt level → code.ar.getLsbD 2 = false → level < s.cpl →
    let sp := s.wordAt (s.tr.base.toNat + 4 * level + 2)
    let ssSel := s.wordAt (s.tr.base.toNat + 4 * level + 4)
    let n := gate.high.toNat % 32
    let new := sp - 8 - BitVec.ofNat 16 (2 * n)
    (∀ e, s.InnerStackFault level (4 + n) false e → exec i s = s.trap e.vector e.code) ∧
    ∀ stack : Desc, 4 * level + 5 ≤ s.tr.limit.toNat → s.Named ssSel stack → stack.StackOf ssSel level →
      (∀ k < 4 + n, (stack.cached ssSel).inLimit (sp - 2 - BitVec.ofNat 16 (2 * k)) 2 = true) →
      ((∃ k < n, s.readFault .ss (s.regs.sp + BitVec.ofNat 16 (2 * k)) 2 ≠ none) → exec i s = s.trap 12 (some 0)) ∧
      ((∀ k < n, s.readFault .ss (s.regs.sp + BitVec.ofNat 16 (2 * k)) 2 = none) →
        (code.word0.toNat < gate.word0.toNat → exec i s = s.trap 13 (some 0)) ∧
        (gate.word0.toNat ≤ code.word0.toNat →
          ∃ t, exec i s = .next t ∧
            t = { s.at gate.word0 with
                  cs := code.cached (withLevel gate.word1 level), ss := stack.cached ssSel,
                  regs := s.regs.set .sp new, mem := t.mem, writes := t.writes } ∧
            (s.LowDecoded →
              t.load .word t.ss new = s.ip ∧ t.load .word t.ss (new + 2) = s.cs.sel ∧
              (∀ k < n, t.load .word t.ss (new + 4 + BitVec.ofNat 16 (2 * k)) =
                s.load .word s.ss (s.regs.sp + BitVec.ofNat 16 (2 * k))) ∧
              t.load .word t.ss (sp - 4) = s.regs.sp ∧ t.load .word t.ss (sp - 2) = s.ss.sel) ∧
            (∀ d, d = code ∨ d = stack → s.physAddr (d.addr + 5) ∉ t.stackCells new (4 + n) →
              t.byteAt (d.addr + 5) = d.ar ||| 1#8) ∧
            s.MemoryKept t
              (s.physAddr (code.addr + 5) :: s.physAddr (stack.addr + 5) :: t.stackCells new (4 + n))))

/-- JMP and CALL through a call gate without a change of level, and the faults of the gate and of its target (44 R412,
R417; 20 R90): the gate must be at least as privileged as CPL and RPL and present; its selector must name a present code
segment, for JMP one that runs at CPL, for CALL one with DPL at most CPL; the gate's offset must lie within it. Then
CS:IP comes from the gate, the offset of the instruction and the gate's word count are not used, the level stays, and
CALL stores CS and the offset of the following instruction on the same stack. That the room for the two words is checked
word by word, also where SP wraps through 0000H, is log 32: the model's choice. -/
def Obligations.CallGateToSameLevel : Prop :=
  ∀ (i : Instr) (calls : Bool) (off sel : Word) (gate : Desc) (s : State), s.FarForm i calls off sel → s.prot = true →
    s.Quiet → s.Named sel gate → gate.ar.getLsbD 4 = false → gate.ar.extractLsb' 0 4 = 4#4 →
    let usable := s.cpl ≤ rightsDpl gate.ar ∧ sel.toNat % 4 ≤ rightsDpl gate.ar
    let csSel := gate.word1
    let wrong := s.trap 13 (some (csSel &&& 0xFFFC#16))
    (¬ usable → exec i s = s.trap 13 (some (sel &&& 0xFFFC#16))) ∧
    (usable → gate.ar.getLsbD 7 = false → exec i s = s.trap 11 (some (sel &&& 0xFFFC#16))) ∧
    (usable → gate.ar.getLsbD 7 = true →
      (csSel.toNat < 4 → exec i s = s.trap 13 (some 0)) ∧
      (4 ≤ csSel.toNat → s.fetchDesc csSel = none → exec i s = wrong) ∧
      ∀ code, s.Named csSel code →
        let isCode := code.ar.getLsbD 4 = true ∧ code.ar.getLsbD 3 = true
        let same := code.ar.getLsbD 2 = true ∨ rightsDpl code.ar = s.cpl
        let reached := rightsDpl code.ar ≤ s.cpl ∧ (calls = false → same)
        let room := s.writeFault .ss (s.regs.sp - 2) 2 = none ∧ s.writeFault .ss (s.regs.sp - 4) 2 = none
        (¬ isCode → exec i s = wrong) ∧
        (isCode → ¬ reached → exec i s = wrong) ∧
        (isCode → reached → code.ar.getLsbD 7 = false → exec i s = s.trap 11 (some (csSel &&& 0xFFFC#16))) ∧
        (isCode → reached → same → code.ar.getLsbD 7 = true →
          (calls = true → ¬ room → exec i s = s.trap 12 (some 0)) ∧
          ((calls = true → room) → code.word0.toNat < gate.word0.toNat → exec i s = s.trap 13 (some 0)) ∧
          (calls = false → gate.word0.toNat ≤ code.word0.toNat →
            ∃ t, exec i s = .next t ∧
              t = { s.at gate.word0 with
                    cs := code.cached (withLevel csSel s.cpl), mem := t.mem, writes := t.writes } ∧
              t.byteAt (code.addr + 5) = code.ar ||| 1#8 ∧ s.MemoryKept t [s.physAddr (code.addr + 5)]) ∧
          (calls = true → room → gate.word0.toNat ≤ code.word0.toNat →
            ∃ t, exec i s = .next t ∧
              t = { s.at gate.word0 with
                    cs := code.cached (withLevel csSel s.cpl), regs := s.regs.set .sp (s.regs.sp - 4)
                    mem := t.mem, writes := t.writes } ∧
              (s.physAddr (code.addr + 5) ∉ s.stackCells (s.regs.sp - 4) 2 →
                t.byteAt (code.addr + 5) = code.ar ||| 1#8 ∧
                (s.LowDecoded →
                  t.load .word s.ss (s.regs.sp - 2) = s.cs.sel ∧ t.load .word s.ss (s.regs.sp - 4) = s.ip)) ∧
              s.MemoryKept t (s.physAddr (code.addr + 5) :: s.stackCells (s.regs.sp - 4) 2))))

/-- Far RET in protected mode (44 R420-R422): to the same level CS:IP is loaded and SP goes up by 4 and the immediate;
to an outer level SS:SP is loaded from above the released bytes as well, and DS and ES are kept only where that level
may use them; the accessed bits of the descriptors loaded are set (20 R96). Whether the SP loaded is adjusted by the
immediate is left open (log 12). Which of DS and ES are kept, both DPL conditions taken together and read from the
cached descriptor, is the spec's decision D48 (log 45): the model's choice. -/
def Obligations.FarReturnProtected : Prop :=
  ∀ (i : Instr) (n : Word) (code : Desc) (s : State), ((i = .retFar ∧ n = 0) ∨ i = .retFarImm n) → s.prot = true →
    s.Quiet →
    let sp := s.regs.sp
    let ip := s.load .word s.ss sp
    let sel := s.load .word s.ss (sp + 2)
    s.Named sel code → code.RunsAt (sel.toNat % 4) → ip.toNat ≤ code.word0.toNat →
    (sel.toNat % 4 = s.cpl → s.readFault .ss sp 2 = none → s.readFault .ss (sp + 2) 2 = none →
      ∃ t, exec i s = .next t ∧
        t = { s.at ip with
              cs := code.cached sel, regs := s.regs.set .sp (sp + 4 + n), mem := t.mem, writes := t.writes } ∧
        t.byteAt (code.addr + 5) = code.ar ||| 1#8 ∧ s.MemoryKept t [s.physAddr (code.addr + 5)]) ∧
    (∀ stack : Desc, s.cpl < sel.toNat % 4 → s.readFault .ss sp (8 + n.toNat) = none →
      let ssSel := s.load .word s.ss (sp + 6 + n)
      s.Named ssSel stack → stack.StackOf ssSel (sel.toNat % 4) →
      ∃ t, exec i s = .next t ∧ s.ReturnedOuter t code sel ip stack ssSel ∧
        (t.regs.sp = s.load .word s.ss (sp + 4 + n) ∨ t.regs.sp = s.load .word s.ss (sp + 4 + n) + n))

/-- Where far RET and IRET fail in protected mode (44 R420, R421; 45 R455-R458), each fault from the state before, in
the listings' order: the selector beyond the stack's limit, a return to a more privileged level, the frame beyond the
limit, the code selector null, beyond its table, of the wrong kind or level or not present, for an outer level the
same of the stack selector (not present is #NP), the offset beyond the segment; with NT = 1 the back link's task state
segment. `n` is the immediate, and 2 for IRET, whose frame holds the flags there. That the words of a frame are
checked as one contiguous range is log 32, the order of the checks of an IRET or RET D7 (log 45). -/
def Obligations.ReturnFaults : Prop :=
  (∀ (i : Instr) (iret : Bool) (n : Word) (s : State),
    ((i = .retFar ∧ iret = false ∧ n = 0) ∨ (i = .retFarImm n ∧ iret = false) ∨
      (i = .iret ∧ iret = true ∧ n = 2 ∧ s.flags.nt = false)) → s.prot = true → s.Quiet →
    let sp := s.regs.sp
    let ip := s.load .word s.ss sp
    let sel := s.load .word s.ss (sp + 2)
    let level := sel.toNat % 4
    let wrong := s.trap 13 (some (sel &&& 0xFFFC#16))
    (∀ e, s.readFault .ss (sp + 2) 2 = some e → exec i s = s.trap e.vector e.code) ∧
    (s.readFault .ss (sp + 2) 2 = none →
      let holds :=
        if level = s.cpl then iret = true → s.readFault .ss sp 6 = none else s.readFault .ss sp (8 + n.toNat) = none
      (level < s.cpl → exec i s = wrong) ∧
      (s.cpl ≤ level → ¬ holds → exec i s = s.trap 12 (some 0)) ∧
      (s.cpl ≤ level → holds →
        (sel.toNat < 4 → exec i s = s.trap 13 (some 0)) ∧
        (4 ≤ sel.toNat → s.fetchDesc sel = none → exec i s = wrong) ∧
        ∀ code, s.Named sel code →
          let fits := code.ar.getLsbD 4 = true ∧ code.ar.getLsbD 3 = true ∧
            if code.ar.getLsbD 2 = true then rightsDpl code.ar ≤ level else rightsDpl code.ar = level
          (¬ fits → exec i s = wrong) ∧
          (fits → code.ar.getLsbD 7 = false → exec i s = s.trap 11 (some (sel &&& 0xFFFC#16))) ∧
          (code.RunsAt level → level = s.cpl →
            (iret = false → ∀ e, s.readFault .ss sp 2 = some e → exec i s = s.trap e.vector e.code) ∧
            ((iret = false → s.readFault .ss sp 2 = none) → code.word0.toNat < ip.toNat →
              exec i s = s.trap 13 (some 0))) ∧
          (code.RunsAt level → s.cpl < level →
            let ssSel := s.load .word s.ss (sp + 6 + n)
            let wrongStack := s.trap 13 (some (ssSel &&& 0xFFFC#16))
            (ssSel.toNat < 4 → exec i s = s.trap 13 (some 0)) ∧
            (4 ≤ ssSel.toNat → s.fetchDesc ssSel = none → exec i s = wrongStack) ∧
            ∀ stack, s.Named ssSel stack →
              let fitsStack := ssSel.toNat % 4 = level ∧ stack.ar.getLsbD 4 = true ∧ stack.ar.getLsbD 3 = false ∧
                stack.ar.getLsbD 1 = true ∧ rightsDpl stack.ar = level
              (¬ fitsStack → exec i s = wrongStack) ∧
              (fitsStack → stack.ar.getLsbD 7 = false → exec i s = s.trap 11 (some (ssSel &&& 0xFFFC#16))) ∧
              (stack.StackOf ssSel level → code.word0.toNat < ip.toNat → exec i s = s.trap 13 (some 0)))))) ∧
  (∀ s : State, s.prot = true → s.Quiet → s.flags.nt = true → 1 ≤ s.tr.limit.toNat →
    let link := s.wordAt s.tr.base.toNat
    let wrong := s.trap 10 (some (link &&& 0xFFFC#16))
    (link.toNat < 4 ∨ link.getLsbD 2 = true ∨ s.fetchDesc link = none → exec .iret s = wrong) ∧
    ∀ d, s.Named link d → link.getLsbD 2 = false →
      (d.ar.getLsbD 4 = true ∨ d.ar.extractLsb' 0 4 ≠ 3#4 → exec .iret s = wrong) ∧
      (d.ar.getLsbD 4 = false → d.ar.extractLsb' 0 4 = 3#4 → d.ar.getLsbD 7 = false →
        exec .iret s = s.trap 11 (some (link &&& 0xFFFC#16))))

/-! ### Interrupts, exceptions and returns from them -/

/-- Interrupts in real mode (45 R451-R453; 60 R561, R562, R571): FLAGS, CS and the return address go on the stack, IF
and TF are cleared, CS:IP comes from entry v of the table (the rights 93H of CS are log 29); a push at offset FFFFH
shuts the shuts the processor down; INTO does nothing when OF is 0. An INT n, INT 3 or INTO whose entry's last byte is beyond the
table's limit is interrupt 8 with the saved IP at it, shutdown for vectors 8 and 13 and where entry 8 is beyond the limit
too (60 R547). That the entry ends at 4v + 3 is the spec's decision D31 (log 45). That every register and all memory stay as they were at the
shutdown is the spec's decision D16 with D9 and D7 (log 27): the model's choice, on which no proof about a program may
rely (R574). -/
def Obligations.InterruptReal : Prop :=
  (∀ (a : Answer) (v : Byte) (code : Option Word) (ra : Word) (soft nmi : Bool) (s : State), s.Entry a v code ra soft nmi →
    s.prot = false → s.Quiet → 4 * v.toNat + 3 ≤ s.idtr.limit.toNat →
    let sp := s.regs.sp
    (sp ≠ 1 → sp ≠ 3 → sp ≠ 5 →
      ∃ t g, a = .next t ∧
        t = { s.at t.ip with
              cs := g, regs := s.regs.set .sp (sp - 6), flags := { s.flags with tf := false, ifl := false },
              mem := t.mem, writes := t.writes, inst := { s.inst with active := t.inst.active } } ∧
        (t.inst.active = if soft then s.inst.active else false) ∧
        t.ip = t.wordAt (s.idtr.base.toNat + 4 * v.toNat) ∧ g.RealLoad (t.wordAt (s.idtr.base.toNat + 4 * v.toNat + 2)) ∧
        (s.LowDecoded →
          t.load .word s.ss (sp - 2) = s.flagImage ∧ t.load .word s.ss (sp - 4) = s.cs.sel ∧
          t.load .word s.ss (sp - 6) = ra) ∧
        s.MemoryKept t (s.stackCells (sp - 6) 3)) ∧
    (sp = 1 ∨ sp = 3 ∨ sp = 5 → a = .next { s with
      run := .shutdown, stepTrap := false, inst := { s.inst with active := false } })) ∧
  (∀ (i : Instr) (v : Byte) (s : State), s.SoftInt i v → s.prot = false → s.idtr.limit.toNat < 4 * v.toNat + 3 →
    (v = 8 ∨ v = 13 → exec i s = s.down) ∧
    (v ≠ 8 → v ≠ 13 → exec i s = s.trap 8 (some 0) ∧
      (s.Quiet → s.idtr.limit.toNat < 4 * 8 + 3 → exec i s = s.unlocked.down))) ∧
  (∀ s : State, s.flags.of = false → exec .into s = .next s)

/-- Interrupts in protected mode through an interrupt or trap gate to the same level (60 R560, R562): FLAGS, CS, the
return address and the error code, where there is one, go on the current stack; TF and NT are cleared, IF too by an
interrupt gate or, whatever the gate, by an NMI (R554; D37, log 36); CS:IP comes from the gate; the accessed bit of its
descriptor is set before the error code is pushed. No room on the stack (#SS(0)) and an offset beyond the code segment
(#GP(0)) are exceptions of the delivery; that their error code carries EXT is the spec's decision D18 at R548 (log 45),
that the room is checked word by word, also where SP wraps through 0000H, log 32: the model's choices. -/
def Obligations.InterruptGateToSameLevel : Prop :=
  (∀ (a : Answer) (v : Byte) (code : Option Word) (ra : Word) (soft nmi : Bool) (target : Desc) (s : State),
    s.Entry a v code ra soft nmi → s.prot = true → s.Quiet → 8 * v.toNat + 7 ≤ s.idtr.limit.toNat →
    let gate := s.descAt (s.idtr.base.toNat + 8 * v.toNat)
    (gate.System 6 ∨ gate.System 7) → (soft = true → s.cpl ≤ rightsDpl gate.ar) →
    s.Named gate.word1 target → target.RunsAt s.cpl → gate.word0.toNat ≤ target.word0.toNat →
    let n := 3 + codeCount code
    let new := s.regs.sp - BitVec.ofNat 16 (2 * n)
    (∀ k < n, s.writeFault .ss (s.regs.sp - 2 - BitVec.ofNat 16 (2 * k)) 2 = none) →
    ∃ t, a = .next t ∧
      t = { s.at gate.word0 with
            cs := target.cached (withLevel gate.word1 s.cpl), regs := s.regs.set .sp new
            flags := { s.flags with
              tf := false, nt := false, ifl := if gate.ar.extractLsb' 0 4 = 6#4 ∨ nmi = true then false else s.flags.ifl }
            mem := t.mem, writes := t.writes, inst := { s.inst with active := t.inst.active } } ∧
      (t.inst.active = if soft then s.inst.active else false) ∧
      (s.LowDecoded → s.physAddr (target.addr + 5) ∉ s.stackCells new n →
        t.load .word s.ss (s.regs.sp - 2) = s.flagImage ∧ t.load .word s.ss (s.regs.sp - 4) = s.cs.sel ∧
        t.load .word s.ss (s.regs.sp - 6) = ra ∧ ∀ c, code = some c → t.load .word s.ss new = c) ∧
      (s.physAddr (target.addr + 5) ∉ s.stackCells new (codeCount code) →
        (t.byteAt (target.addr + 5)).getLsbD 0 = true) ∧
      (s.physAddr (target.addr + 5) ∉ s.stackCells new n → t.byteAt (target.addr + 5) = target.ar ||| 1#8) ∧
      s.MemoryKept t (s.physAddr (target.addr + 5) :: s.stackCells new n)) ∧
  (∀ (ev : Event) (ra : Word) (target : Desc) (s : State), s.prot = true → s.Quiet →
    8 * ev.vector.toNat + 7 ≤ s.idtr.limit.toNat →
    let gate := s.descAt (s.idtr.base.toNat + 8 * ev.vector.toNat)
    (gate.System 6 ∨ gate.System 7) → (ev.soft = true → s.cpl ≤ rightsDpl gate.ar) →
    s.Named gate.word1 target → target.RunsAt s.cpl →
    let room := ∀ k < 3 + codeCount ev.code, s.writeFault .ss (s.regs.sp - 2 - BitVec.ofNat 16 (2 * k)) 2 = none
    (¬ room → s.DeliveryFails ev ra (Exc.ss (errorCode 0 ev.ext))) ∧
    (room → target.word0.toNat < gate.word0.toNat → s.DeliveryFails ev ra (Exc.gp (errorCode 0 ev.ext))))

/-- Interrupts in protected mode through an interrupt or trap gate to a more privileged level (60 R560, R562; 20 R114):
SS:SP comes from the task state segment, the old SS:SP goes on the new stack first, and the new level is the DPL of the
handler's segment; the accessed bits of the two descriptors are set; an NMI clears IF whatever the gate (R554; D37, log
36). A new stack that cannot take the words (`State.InnerStackFault`) and an offset beyond the code segment (#GP(0)) are
exceptions of the delivery. The room of 12 bytes with an error code and EXT in the error code of #SS(0) and #GP(0) are
the spec's decision D18 (R560, R548; log 45), where the task state segment holds the inner SS:SP is a passage it marks
as general knowledge (K4, D28; log 44), that its limit is checked log 25, that the room is checked word by word log 32:
the model's choices. -/
def Obligations.InterruptGateToInnerLevel : Prop :=
  (∀ (a : Answer) (v : Byte) (code : Option Word) (ra : Word) (soft nmi : Bool) (target stack : Desc) (s : State),
    s.Entry a v code ra soft nmi → s.prot = true → s.Quiet → 8 * v.toNat + 7 ≤ s.idtr.limit.toNat →
    let gate := s.descAt (s.idtr.base.toNat + 8 * v.toNat)
    (gate.System 6 ∨ gate.System 7) → (soft = true → s.cpl ≤ rightsDpl gate.ar) →
    s.Named gate.word1 target →
    let level := rightsDpl target.ar
    target.RunsAt level → target.ar.getLsbD 2 = false → level < s.cpl → gate.word0.toNat ≤ target.word0.toNat →
    4 * level + 5 ≤ s.tr.limit.toNat →
    let sp := s.wordAt (s.tr.base.toNat + 4 * level + 2)
    let ssSel := s.wordAt (s.tr.base.toNat + 4 * level + 4)
    let n := 5 + codeCount code
    let new := sp - BitVec.ofNat 16 (2 * n)
    s.Named ssSel stack → stack.StackOf ssSel level →
    (∀ k < n, (stack.cached ssSel).inLimit (sp - 2 - BitVec.ofNat 16 (2 * k)) 2 = true) →
    ∃ t, a = .next t ∧
      t = { s.at gate.word0 with
            cs := target.cached (withLevel gate.word1 level), ss := stack.cached ssSel
            regs := s.regs.set .sp new
            flags := { s.flags with
              tf := false, nt := false, ifl := if gate.ar.extractLsb' 0 4 = 6#4 ∨ nmi = true then false else s.flags.ifl }
            mem := t.mem, writes := t.writes, inst := { s.inst with active := t.inst.active } } ∧
      (t.inst.active = if soft then s.inst.active else false) ∧
      (s.LowDecoded →
        t.load .word t.ss (sp - 2) = s.ss.sel ∧ t.load .word t.ss (sp - 4) = s.regs.sp ∧
        t.load .word t.ss (sp - 6) = s.flagImage ∧ t.load .word t.ss (sp - 8) = s.cs.sel ∧
        t.load .word t.ss (sp - 10) = ra ∧ (∀ c, code = some c → t.load .word t.ss new = c)) ∧
      (∀ d, d = target ∨ d = stack → s.physAddr (d.addr + 5) ∉ t.stackCells new n →
        t.byteAt (d.addr + 5) = d.ar ||| 1#8) ∧
      s.MemoryKept t (s.physAddr (target.addr + 5) :: s.physAddr (stack.addr + 5) :: t.stackCells new n)) ∧
  (∀ (ev : Event) (ra : Word) (target : Desc) (s : State), s.prot = true → s.Quiet →
    8 * ev.vector.toNat + 7 ≤ s.idtr.limit.toNat →
    let gate := s.descAt (s.idtr.base.toNat + 8 * ev.vector.toNat)
    (gate.System 6 ∨ gate.System 7) → (ev.soft = true → s.cpl ≤ rightsDpl gate.ar) →
    s.Named gate.word1 target →
    let level := rightsDpl target.ar
    target.RunsAt level → target.ar.getLsbD 2 = false → level < s.cpl →
    let sp := s.wordAt (s.tr.base.toNat + 4 * level + 2)
    let ssSel := s.wordAt (s.tr.base.toNat + 4 * level + 4)
    let n := 5 + codeCount ev.code
    (∀ e, s.InnerStackFault level n ev.ext e → s.DeliveryFails ev ra e) ∧
    (∀ stack : Desc, 4 * level + 5 ≤ s.tr.limit.toNat → s.Named ssSel stack → stack.StackOf ssSel level →
      (∀ k < n, (stack.cached ssSel).inLimit (sp - 2 - BitVec.ofNat 16 (2 * k)) 2 = true) →
      target.word0.toNat < gate.word0.toNat → s.DeliveryFails ev ra (Exc.gp (errorCode 0 ev.ext))))

/-- Interrupts in protected mode where their own gate fails (45 R451; 60 R548, R560): beyond the table, of the wrong
kind or, for INT n, INT 3 and INTO alone, less privileged than CPL the gate is #GP(vector * 8 + 2), not present
#NP(vector * 8 + 2); a target selector that is null is #GP(0), one beyond its table, not of a code segment or of a less
privileged one #GP(selector), one not present #NP(selector), each with EXT in its error code. It is an exception of the
delivery, and of INT n, INT 3 and INTO the first exception of the instruction, with the saved IP at it. -/
def Obligations.InterruptGateFaults : Prop :=
  ∀ (ev : Event) (ra : Word) (s : State), s.prot = true → s.Quiet →
    let v := ev.vector.toNat
    let fails := s.DeliveryFails ev ra
    let bad := BitVec.ofNat 16 (8 * v + 2 + ev.ext.toNat)
    let gate := s.descAt (s.idtr.base.toNat + 8 * v)
    let type := gate.ar.extractLsb' 0 4
    let kind := gate.ar.getLsbD 4 = false ∧ (type = 5#4 ∨ type = 6#4 ∨ type = 7#4)
    let mayUse := ev.soft = true → s.cpl ≤ rightsDpl gate.ar
    let sel := gate.word1
    let wrong := Exc.gp (errorCode sel ev.ext)
    (s.idtr.limit.toNat < 8 * v + 7 → fails (Exc.gp bad)) ∧
    (8 * v + 7 ≤ s.idtr.limit.toNat →
      (¬ kind → fails (Exc.gp bad)) ∧
      (kind → ¬ mayUse → fails (Exc.gp bad)) ∧
      (kind → mayUse → gate.ar.getLsbD 7 = false → fails (Exc.np bad)) ∧
      (kind → mayUse → gate.ar.getLsbD 7 = true → type ≠ 5#4 →
        (sel.toNat < 4 → fails (Exc.gp (errorCode 0 ev.ext))) ∧
        (4 ≤ sel.toNat → s.fetchDesc sel = none → fails wrong) ∧
        ∀ code, s.Named sel code →
          let isCode := code.ar.getLsbD 4 = true ∧ code.ar.getLsbD 3 = true
          (¬ isCode → fails wrong) ∧
          (isCode → code.ar.getLsbD 7 = false → fails (Exc.np (errorCode sel ev.ext))) ∧
          (isCode → code.ar.getLsbD 7 = true → code.ar.getLsbD 2 = false → s.cpl < rightsDpl code.ar → fails wrong)))

/-- Failed deliveries (60 R547, R570, R574): an exception met while an exception or external event is delivered brings
interrupt 8 instead, and whatever is met while interrupt 8 is delivered shuts the processor down. Beyond the interrupt
table both happen: in protected mode always when entry 8 is beyond it too, in real mode for vectors 8 and 13 at once. An
INT instruction is no such event (`soft`): its delivery's fault is its own first exception. A fault of the new task of a
delivery through a task gate waits there, but for the error code that does not fit its stack, which is vector 8 there.
That every pair of exceptions escalates is the spec's decision D17 (log 45), what the registers hold at the shutdown D16
(log 27), that the vector 8 after a failed NMI is no NMI log 46, what becomes of a fault in the new task, of the first
delivery and of vector 8's (`excAt`, `doubleAt`), log 26: the model's choices. -/
def Obligations.DoubleFaultAndShutdown : Prop :=
  let down := fun u : State =>
    Host.Outcome.next { u with run := .shutdown, stepTrap := false, inst := { u.inst with active := false } }
  (∀ (ev : Event) (e : Exc) (ra : Word) (s : State), s.Quiet → ev.soft = false →
    (s.deliver ev ra = .error (.exc e) ∨ s.deliver ev ra = .error (.after e s)) →
    let double : Event := { vector := 8, code := some 0, ext := ev.ext, soft := false, nmi := false }
    (∀ t, s.deliver double ra = .ok t → raise ev ra s = .next { t with inst := { t.inst with active := false } }) ∧
    (∀ e', s.deliver double ra = .error (.exc e') → raise ev ra s = down s) ∧
    (∀ e' t, s.deliver double ra = .error (.after e' t) → raise ev ra s = down t) ∧
    (∀ e' t, s.deliver double ra = .error (.excAt e' t) → raise ev ra s = down t) ∧
    (∀ e' t, s.deliver double ra = .error (.doubleAt e' t) → raise ev ra s = down t) ∧
    (∀ t, s.deliver double ra = .error (.shutdown t) → raise ev ra s = down t)) ∧
  (∀ (ev : Event) (e : Exc) (ra : Word) (s t : State), s.Quiet →
    (s.deliver ev ra = .error (.excAt e t) →
      raise ev ra s = .next { t with pendingExc := some e, inst := { t.inst with active := false } }) ∧
    (s.deliver ev ra = .error (.doubleAt e t) → t.Quiet →
      ∀ u, t.deliver { vector := 8, code := some 0, ext := ev.ext, soft := false, nmi := false } t.ip = .ok u →
        raise ev ra s = .next { u with inst := { u.inst with active := false } })) ∧
  (∀ (ev : Event) (ra : Word) (s : State), s.Quiet → s.prot = true → s.idtr.limit.toNat < 8 * ev.vector.toNat + 7 →
    s.idtr.limit.toNat < 8 * 8 + 7 → raise ev ra s = down s) ∧
  (∀ (ev : Event) (ra : Word) (s : State), s.Quiet → s.prot = false → s.idtr.limit.toNat < 4 * ev.vector.toNat + 3 →
    (ev.vector = 8 ∨ ev.vector = 13 ∨ s.idtr.limit.toNat < 4 * 8 + 3 → raise ev ra s = down s) ∧
    (ev.vector ≠ 8 → ev.vector ≠ 13 →
      raise ev ra s = raise { vector := 8, code := some 0, ext := ev.ext, soft := false, nmi := false } ra s))

/-- IRET (45 R454-R457, R459): IP, CS and FLAGS are popped. In real mode IOPL and NT stay; in protected mode IF needs
CPL <= IOPL, IOPL needs CPL = 0, both by the values before; to an outer level SS:SP is popped too. The masking an NMI
began ends (60 R554). The rights 93H of a real-mode CS are log 29, the checks of the stack before anything is loaded are
the spec's decision D7 (log 45), the contiguous check of the words in protected mode is log 32, which of DS and ES an
outer level keeps is D48 at R422 (log 45): the model's choices. In real mode with one of the three words at offset FFFFH
it is shutdown or interrupt 13, which is left open (20 R103, log 11; the registers at the shutdown D16, log 27). -/
def Obligations.InterruptReturn : Prop :=
  ∀ s : State, s.Quiet →
    let sp := s.regs.sp
    let ip := s.load .word s.ss sp
    let sel := s.load .word s.ss (sp + 2)
    let v := s.load .word s.ss (sp + 4)
    let f : Flags :=
      { cf := v.getLsbD 0, pf := v.getLsbD 2, af := v.getLsbD 4, zf := v.getLsbD 6, sf := v.getLsbD 7,
        tf := v.getLsbD 8, df := v.getLsbD 10, of := v.getLsbD 11
        ifl := if s.prot = true ∧ s.flags.iopl.toNat < s.cpl then s.flags.ifl else v.getLsbD 9
        iopl := if s.prot = true ∧ s.cpl = 0 then v.extractLsb' 12 2 else s.flags.iopl
        nt := if s.prot = true then v.getLsbD 14 else s.flags.nt }
    let s' := { s with flags := f, nmiInService := false }
    (s.prot = false → s.readFault .ss sp 2 = none → s.readFault .ss (sp + 2) 2 = none →
      s.readFault .ss (sp + 4) 2 = none →
      ∃ g, exec .iret s = .next { s'.at ip with cs := g, regs := s.regs.set .sp (sp + 6) } ∧ g.RealLoad sel) ∧
    (s.prot = false → sp = 0xFFFF#16 ∨ sp = 0xFFFD#16 ∨ sp = 0xFFFB#16 →
      exec .iret s = s.down ∨ exec .iret s = s.trap 13 (some 0)) ∧
    (s.prot = true → s.flags.nt = false → ∀ code : Desc, s.Named sel code → code.RunsAt (sel.toNat % 4) →
      ip.toNat ≤ code.word0.toNat →
      (sel.toNat % 4 = s.cpl → s.readFault .ss sp 6 = none → s.readFault .ss (sp + 2) 2 = none →
        ∃ t, exec .iret s = .next t ∧
          t = { s'.at ip with
                cs := code.cached sel, regs := s.regs.set .sp (sp + 6), mem := t.mem, writes := t.writes } ∧
          t.byteAt (code.addr + 5) = code.ar ||| 1#8 ∧ s.MemoryKept t [s.physAddr (code.addr + 5)]) ∧
      (∀ stack : Desc, s.cpl < sel.toNat % 4 → s.readFault .ss sp 10 = none →
        s.readFault .ss (sp + 2) 2 = none →
        let ssSel := s.load .word s.ss (sp + 8)
        s.Named ssSel stack → stack.StackOf ssSel (sel.toNat % 4) →
        ∃ t, exec .iret s = .next t ∧ s'.ReturnedOuter t code sel ip stack ssSel ∧
          t.regs.sp = s.load .word s.ss (sp + 6)))

/-- A task switch (44 R440-R443; 45 R458; 60 R563; 20 R114), by an instruction or by the delivery of an event through a
task gate: the old task's registers, selectors, flags and the offset it goes on at (the following instruction's, for an
event its return address) lie in its TSS; TR names the new TSS and MSW.TS is set; the registers, IP and flags are those
of the new TSS; CALL, INT and events nest, with the back link and NT = 1, and IRET saves NT as 0; the busy and accessed
bits are set, JMP and IRET clear the old busy bit (`State.Switched`). An event's error code is pushed on the new task's
stack. The checks made in the old task fail with their exceptions from the state before: the privilege and presence of a
task gate or TSS descriptor (R413, R414), what the TSS selector names and the TSS limits (`State.TssFault`; 45 R458 for
the back link); those of a delivery are exceptions of the delivery (60 R563). A selector (`State.NewTaskFault`) or the
IP of the new task that fails its check is an exception taken in the new task, with the saved CS:IP of its image (R444);
for an event, where also the error code may find no room, what becomes of it is log 26. The places of the fields in the
TSS, the order of the steps, the checks of step 7 with their vectors and NT's 0 are passages the spec marks as general
knowledge (K4, K21, D29; log 44), EXT in the error codes is its inference (R563; D18, log 45), the segment limits
checked are log 25: the model's choices. -/
def Obligations.TaskSwitchResult : Prop :=
  (∀ (i : Instr) (calls : Bool) (off sel : Word) (d : Desc) (s : State), s.FarForm i calls off sel → s.prot = true →
    s.Quiet → s.Named sel d → d.ar.getLsbD 4 = false →
    let usable := s.cpl ≤ rightsDpl d.ar ∧ sel.toNat % 4 ≤ rightsDpl d.ar
    let type := d.ar.extractLsb' 0 4
    ((type = 1#4 ∨ type = 3#4 ∨ type = 5#4) → ¬ usable → exec i s = s.trap 13 (some (sel &&& 0xFFFC#16))) ∧
    ((type = 1#4 ∨ type = 3#4) → usable → ∀ e, s.TssFault sel false e → exec i s = s.trap e.vector e.code) ∧
    (type = 5#4 → usable →
      (d.ar.getLsbD 7 = false → exec i s = s.trap 11 (some (sel &&& 0xFFFC#16))) ∧
      (d.ar.getLsbD 7 = true → ∀ e, s.TssFault d.word1 false e → exec i s = s.trap e.vector e.code))) ∧
  (∀ s : State, s.prot = true → s.Quiet → s.flags.nt = true →
    let wrongTss := s.trap 10 (some (s.tr.sel &&& 0xFFFC#16))
    (s.tr.limit.toNat < 1 → exec .iret s = wrongTss) ∧
    (1 ≤ s.tr.limit.toNat →
      let link := s.wordAt s.tr.base.toNat
      ∀ d, s.Named link d → d.System 3 → link.getLsbD 2 = false →
        (d.word0.toNat < 0x2B → exec .iret s = s.trap 10 (some (link &&& 0xFFFC#16))) ∧
        (0x2B ≤ d.word0.toNat → s.tr.limit.toNat < 41 → exec .iret s = wrongTss))) ∧
  (∀ (i : Instr) (kind : SwitchKind) (tss : Word) (d : Desc) (s : State), s.SwitchForm i kind tss d →
    s.prot = true → s.Quiet → s.Named tss d → d.System (if kind = .iret then 3 else 1) → tss.getLsbD 2 = false →
    0x2B ≤ d.word0.toNat → 41 ≤ s.tr.limit.toNat →
    let before := if kind = .iret then { s with nmiInService := false } else s
    let c := before.commitSwitch kind tss d s.ip
    c.inst.ipInst = c.ip ∧
    (∀ e u, c.NewTaskFault false e u → u.inst.ipInst = c.ip ∧ exec i s = u.trap e.vector e.code) ∧
    ∀ t, c.enterTask false = .ok t →
      (t.cs.limit.toNat < t.ip.toNat → t.inst.ipInst = c.ip ∧ exec i s = t.trap 13 (some 0)) ∧
      (t.ip.toNat ≤ t.cs.limit.toNat → exec i s = .next (t.at t.ip) ∧ s.Switched c t kind tss d s.ip)) ∧
  (∀ (ev : Event) (ra : Word) (s : State), s.prot = true → s.Quiet → 8 * ev.vector.toNat + 7 ≤ s.idtr.limit.toNat →
    let gate := s.descAt (s.idtr.base.toNat + 8 * ev.vector.toNat)
    let tss := gate.word1
    gate.System 5 → (ev.soft = true → s.cpl ≤ rightsDpl gate.ar) →
    (∀ e, s.TssFault tss ev.ext e → s.DeliveryFails ev ra e) ∧
    ∀ d, s.Named tss d → d.System 1 → tss.getLsbD 2 = false → 0x2B ≤ d.word0.toNat → 41 ≤ s.tr.limit.toNat →
      let c := s.commitSwitch .nest tss d ra
      (∀ e u, c.NewTaskFault ev.ext e u → s.deliver ev ra = .error (.excAt e u)) ∧
      ∀ t, c.enterTask false = .ok t →
        let sp := t.regs.sp
        let room := ev.code = none ∨ t.writeFault .ss (sp - 2) 2 = none
        (¬ room → s.deliver ev ra = .error (.doubleAt (Exc.ss (errorCode 0 ev.ext)) t)) ∧
        (room → t.cs.limit.toNat < t.ip.toNat → ∃ u,
          s.deliver ev ra = .error (.excAt (Exc.gp (errorCode 0 ev.ext)) u) ∧
          u = { t with
                regs := t.regs.set .sp (sp - BitVec.ofNat 16 (2 * codeCount ev.code)), mem := u.mem, writes := u.writes
                fetch := u.fetch })) ∧
  ∀ (a : Answer) (v : Byte) (code : Option Word) (ra : Word) (soft nmi : Bool) (d : Desc) (s t : State),
    s.Entry a v code ra soft nmi → s.prot = true → s.Quiet → 8 * v.toNat + 7 ≤ s.idtr.limit.toNat →
    let gate := s.descAt (s.idtr.base.toNat + 8 * v.toNat)
    let tss := gate.word1
    gate.System 5 → (soft = true → s.cpl ≤ rightsDpl gate.ar) →
    s.Named tss d → d.System 1 → tss.getLsbD 2 = false → 0x2B ≤ d.word0.toNat → 41 ≤ s.tr.limit.toNat →
    let c := s.commitSwitch .nest tss d ra
    let sp := t.regs.sp
    c.enterTask false = .ok t → (code = none ∨ t.writeFault .ss (sp - 2) 2 = none) → t.ip.toNat ≤ t.cs.limit.toNat →
    s.Switched c t .nest tss d ra ∧
    ∃ u, a = .next u ∧
      u = { t.at t.ip with
            regs := t.regs.set .sp (sp - BitVec.ofNat 16 (2 * codeCount code)), mem := u.mem, writes := u.writes
            inst := { t.inst with active := if soft then t.inst.active else false } } ∧
      (s.LowDecoded → ∀ x, code = some x → u.load .word t.ss (sp - 2) = x) ∧
      t.MemoryKept u (t.stackCells (sp - 2) (codeCount code))

/-! ### ENTER, LEAVE, BOUND -/

/-- ENTER, LEAVE and BOUND (46 R471-R473): ENTER pushes BP, for a level of 1 or more (taken modulo 32) copies level - 1
words from below the old frame and pushes the new frame pointer, leaves BP at the word first pushed and SP below the
frame; the first word that ENTER cannot push or read is the exception of that word's own check, in real mode interrupt
13, in protected mode #SS(0) where SS holds a writable data segment, with every register as before and the words already
pushed in memory (the spec's decision D9, log 35); LEAVE undoes it, a word it cannot read is in protected mode that exception
from the state before (D7 at R472, log 24), and in real mode, with BP = FFFFH, shutdown or interrupt 13, which is left
open (20 R103, log 11; the registers at the shutdown D16, log 27); BOUND completes within its signed bounds, both
inclusive, and is interrupt 5 outside them. ENTER's operation and BOUND's signed comparison are passages the spec marks
as general knowledge (log 44). -/
def Obligations.FrameInstructionsResult : Prop :=
  (∀ (size : Word) (level : Byte) (s : State),
    let sp := s.regs.sp
    let bp := s.regs.bp
    let n := level.toNat % 32
    s.Quiet → (∀ k, k < n + 1 → s.writeFault .ss (sp - 2 - BitVec.ofNat 16 (2 * k)) 2 = none) →
    (∀ k, 1 ≤ k → k < n → s.readFault .ss (bp - BitVec.ofNat 16 (2 * k)) 2 = none) →
    ∃ t, exec (.enter size level) s = .next t ∧ s.DataOnly t ∧ t.flags = s.flags ∧
      (n = 0 → t.regs = { s.regs with bp := sp - 2, sp := sp - 2 - size }) ∧
      (n ≠ 0 → t.regs = { s.regs with bp := sp - 2, sp := sp - 2 - BitVec.ofNat 16 (2 * n) - size } ∧
        (s.LowDecoded → t.load .word s.ss (sp - 2 - BitVec.ofNat 16 (2 * n)) = sp - 2)) ∧
      (s.LowDecoded → t.load .word s.ss (sp - 2) = bp) ∧
      (s.LowDecoded → ∀ k, 1 ≤ k → k < n → 2 * n + 2 ≤ sp.toNat → sp.toNat + 2 * n ≤ bp.toNat →
        t.load .word s.ss (sp - 2 - BitVec.ofNat 16 (2 * k)) =
          s.load .word s.ss (bp - BitVec.ofNat 16 (2 * k))) ∧
      (s.LowDecoded → ∀ j w, (s.enterWords n (n + 1))[j]? = some w →
        t.load .word s.ss (sp - 2 - BitVec.ofNat 16 (2 * j)) = w) ∧
      s.MemoryKept t (s.stackCells (sp - 2 - BitVec.ofNat 16 (2 * n)) (n + 1))) ∧
  (∀ s : State, s.readFault .ss s.regs.bp 2 = none →
    exec .leave s = .next { s with regs :=
      { s.regs with sp := s.regs.bp + 2, bp := s.load .word s.ss s.regs.bp } }) ∧
  (∀ (size : Word) (level : Byte) (s : State) (k : Nat) (e : Exc),
    let sp := s.regs.sp
    let bp := s.regs.bp
    let n := level.toNat % 32
    let push := fun j => s.writeFault .ss (sp - 2 - BitVec.ofNat 16 (2 * j)) 2
    let read := fun j => if 1 ≤ j ∧ j < n then s.readFault .ss (bp - BitVec.ofNat 16 (2 * j)) 2 else none
    s.Quiet → k ≤ n → (∀ j < k, read j = none ∧ push j = none) → [read k, push k].findSome? id = some e →
    (s.prot = false → e = Exc.gp 0) ∧
    (s.prot = true → s.ss.valid = true → s.ss.rights.getLsbD 3 = false → s.ss.rights.getLsbD 1 = true →
      e = Exc.ss 0) ∧
    ∃ t, exec (.enter size level) s = t.trap e.vector e.code ∧ s.DataOnly t ∧ t.regs = s.regs ∧ t.flags = s.flags ∧
      (s.LowDecoded → ∀ j w, (s.enterWords n k)[j]? = some w →
        t.load .word s.ss (sp - 2 - BitVec.ofNat 16 (2 * j)) = w) ∧
      s.MemoryKept t (s.stackCells (sp - BitVec.ofNat 16 (2 * k)) k)) ∧
  (∀ (e : Exc) (s : State), s.prot = true → s.readFault .ss s.regs.bp 2 = some e →
    exec .leave s = s.trap e.vector e.code) ∧
  (∀ s : State, s.prot = false → s.regs.bp = 0xFFFF#16 →
    exec .leave s = s.down ∨ exec .leave s = s.trap 13 (some 0)) ∧
  (∀ (r : Reg) (m : Mem) (s : State), s.Quiet → s.readFault (s.eaSeg m) (s.ea m) 2 = none →
    s.readPart (s.eaSeg m) (s.ea m) 2 = none →
    let lo := (s.load .word (s.seg (s.eaSeg m)) (s.ea m)).toInt
    let hi := (s.load .word (s.seg (s.eaSeg m)) (s.ea m + 2)).toInt
    (lo ≤ (s.reg16 r).toInt → (s.reg16 r).toInt ≤ hi → exec (.bound r m) s = .next s) ∧
    ((s.reg16 r).toInt < lo ∨ hi < (s.reg16 r).toInt → exec (.bound r m) s = s.trap 5 none))

/-! ### Processor and protection control -/

/-- HLT, WAIT and ESC (47 R490-R493; 60 R545, R558): HLT halts; WAIT raises interrupt 7 with MP = TS = 1, waits at the
instruction while BUSY is active, then raises interrupt 16 if ERROR is; ESC raises interrupt 7 with EM or TS set, else
hands its opcode and the operand's address to the extension. An absent extension is left out: the model declines
(log 14). Which ESC forms wait for BUSY or test ERROR is left open (log 15). That a later ESC ends the transfers an
earlier one enabled, a register form leaving none and a memory form putting its own in their place, is log 15, the form
of WAIT's stall, IP back at the instruction, log 18, the saved IP of vector 16 the spec's decision D19 (R493, R546 (d))
and its EXT log 38: the model's choices. -/
def Obligations.HaltWaitEscapeResult : Prop :=
  ∀ s : State,
    ((s.prot = true → s.cpl = 0) → exec .hlt s = .next { s with run := .halted }) ∧
    (s.msw.getLsbD 1 = true → s.msw.getLsbD 3 = true → exec .wait s = s.trap 7 none) ∧
    (s.msw.getLsbD 1 = false ∨ s.msw.getLsbD 3 = false →
      (s.npxPresent = false ∨ (s.pins.busy = false ∧ s.pins.error = false) → exec .wait s = .next s) ∧
      (s.npxPresent = true → s.pins.busy = true →
        exec .wait s = .next { s with
          ip := s.inst.ipInst, inst := { s.inst with progress := .stall },
          fetch := { s.fetch with wrapped := false } }) ∧
      (s.npxPresent = true → s.pins.busy = false → s.pins.error = true →
        exec .wait s =
          raise { vector := 16, code := none, ext := true, soft := false, nmi := false } s.inst.ipInst
            s.unlocked)) ∧
    (∀ (ttt lll : BitVec 3) (rm : Rm),
      (s.msw.getLsbD 2 = true ∨ s.msw.getLsbD 3 = true → exec (.esc ttt lll rm) s = s.trap 7 none) ∧
      (s.msw.getLsbD 2 = false → s.msw.getLsbD 3 = false → s.npxPresent = true → s.pins.busy = false →
        s.pins.error = false → s.rmReadFault .word rm = none → s.rmWriteFault .word rm = none →
        ∃ (a : Option (Word × Word)) (x : Option NpxTransfer),
          exec (.esc ttt lll rm) s = .next { s with out := .esc ttt lll rm a :: s.out, npx := x } ∧
          (∀ r, rm = .reg r → a = none ∧ x = none) ∧
          (∀ m, rm = .mem m → a = some ((s.seg (s.eaSeg m)).sel, s.ea m) ∧
            ∃ b, x = some { seg := s.seg (s.eaSeg m), offset := (s.ea m).toNat, toMemory := b })))

/-- LMSW and CLTS (47 R497; 48 R529; 60 R581): at CPL 0 or in real mode LMSW loads MP, EM and TS and can set PE but not
clear it; CLTS clears TS; every other bit of MSW and everything else is unchanged, but for the queue's mark of the
instruction that set PE (log 21). CLTS's operation is a passage the spec marks as general knowledge (log 44); that LMSW
leaves bits 15-4 of MSW unchanged is the spec's decision D6 (log 8): the model's choice. -/
def Obligations.StatusWordResult : Prop :=
  ∀ (rm : Rm) (s : State), (s.prot = true → s.cpl = 0) →
    (s.rmReadFault .word rm = none →
      let v := s.rmValue .word rm
      ∃ t, exec (.lmsw rm) s = .next t ∧
        t = { s with msw := t.msw, fetch := { s.fetch with lmswAt := t.fetch.lmswAt } } ∧
        (s.msw.getLsbD 0 = true → t.fetch = s.fetch) ∧
        ∀ k, t.msw.getLsbD k =
          if k = 0 then s.msw.getLsbD 0 || v.getLsbD 0
          else if k < 4 then v.getLsbD k
          else s.msw.getLsbD k) ∧
    (∃ t, exec .clts s = .next t ∧ t = { s with msw := t.msw } ∧
      ∀ k, t.msw.getLsbD k = (s.msw.getLsbD k && decide (k ≠ 3)))

/-- LGDT, LIDT, SGDT and SIDT (48 R512-R515; 60 R581): the six bytes are the limit word, 24 bits of base and a byte the
loads ignore; what the stores leave in it is not determined. Nothing else changes. The check of the operand as three
words is the spec's decision D47 (log 45). -/
def Obligations.DescriptorTableRegisters : Prop :=
  ∀ (m : Mem) (s : State),
    let g := s.seg (s.eaSeg m)
    let a := s.ea m
    let value := fun u : State =>
      ({ base := (u.load .word g (a + 4)).extractLsb' 0 8 ++ u.load .word g (a + 2), limit := u.load .word g a } :
        TableReg)
    (s.Quiet → (s.prot = true → s.cpl = 0) → s.readFault (s.eaSeg m) a 2 = none →
      s.readPart (s.eaSeg m) a 2 = none → s.readPart (s.eaSeg m) a 4 = none →
      exec (.lgdt m) s = .next { s with gdtr := value s } ∧ exec (.lidt m) s = .next { s with idtr := value s }) ∧
    (s.Quiet → s.writeFault (s.eaSeg m) a 2 = none → s.writePart (s.eaSeg m) a 2 = none →
      s.writePart (s.eaSeg m) a 4 = none → ∀ i x, (i = .sgdt m ∧ x = s.gdtr) ∨ (i = .sidt m ∧ x = s.idtr) →
      ∃ t, exec i s = .next t ∧ s.DataOnly t ∧ t.regs = s.regs ∧ t.flags = s.flags ∧ (s.LowDecoded → value t = x) ∧
        s.MemoryKept t (s.cells .word g a ++ s.cells .word g (a + 2) ++ s.cells .word g (a + 4)))

/-- LLDT and LTR at CPL 0 (48 R516, R518): LLDT loads LDTR from an LDT descriptor of the GDT, a null selector leaves it
invalid; LTR loads TR from an available TSS descriptor of the GDT and marks it busy; a selector that names nothing of
the kind is #GP(selector), one not present #NP(selector). Nothing else changes. -/
def Obligations.LdtrTrResult : Prop :=
  ∀ (rm : Rm) (s : State), s.prot = true → s.cpl = 0 → s.Quiet → s.rmReadFault .word rm = none →
    let sel := s.rmValue .word rm
    let bad := some (sel &&& 0xFFFC#16)
    (sel.toNat < 4 → exec (.lldt rm) s = .next { s with ldtr := { s.ldtr with sel := sel, valid := false } } ∧
      exec (.ltr rm) s = s.trap 13 bad) ∧
    (4 ≤ sel.toNat → (sel.getLsbD 2 = true ∨ s.fetchDesc sel = none) →
      exec (.lldt rm) s = s.trap 13 bad ∧ exec (.ltr rm) s = s.trap 13 bad) ∧
    (∀ d, s.Named sel d → sel.getLsbD 2 = false →
      (d.System 2 → exec (.lldt rm) s =
        .next { s with ldtr := { sel := sel, base := d.high ++ d.word1, limit := d.word0, valid := true } }) ∧
      (d.System 1 → ∃ t, exec (.ltr rm) s = .next t ∧
        t = { s with
              tr := { sel := sel, base := d.high ++ d.word1, limit := d.word0 }, mem := t.mem, writes := t.writes,
              fetch := { s.fetch with stale := t.fetch.stale } } ∧
        t.byteAt (d.addr + 5) = d.ar ||| 2#8 ∧ s.MemoryKept t [s.physAddr (d.addr + 5)]) ∧
      (d.ar.getLsbD 4 = true ∨ d.ar.extractLsb' 0 4 ≠ 2#4 → exec (.lldt rm) s = s.trap 13 bad) ∧
      (d.ar.getLsbD 4 = true ∨ d.ar.extractLsb' 0 4 ≠ 1#4 → exec (.ltr rm) s = s.trap 13 bad) ∧
      (d.ar.getLsbD 4 = false → d.ar.getLsbD 7 = false →
        (d.ar.extractLsb' 0 4 = 2#4 → exec (.lldt rm) s = s.trap 11 bad) ∧
        (d.ar.extractLsb' 0 4 = 1#4 → exec (.ltr rm) s = s.trap 11 bad)))

/-- LAR, LSL, VERR, VERW and ARPL (48 R520-R525): ZF tells whether the descriptor is visible at CPL and RPL and of a
type the instruction accepts, and LAR and LSL then load its access byte or limit, else leave the register alone; no
other flag changes. ARPL raises the operand's RPL to the register's, and ZF tells whether it did. Whether a test sets
the descriptor's accessed bit is left open (log 33). The types LAR accepts, ZF = 0 for a null selector and the
exemption of conforming segments are the spec's decision D46 (R520 (c), R521, R522; log 45), ARPL's encoding and its
clearing of ZF general knowledge of the spec (log 44): the model's choices. -/
def Obligations.SelectorTestResult : Prop :=
  (∀ (r : Reg) (rm : Rm) (s : State), s.prot = true → s.Quiet → s.rmReadFault .word rm = none →
    let sel := s.rmValue .word rm
    let seen := fun type : Byte → Prop =>
      ∃ d, s.Named sel d ∧ type d.ar ∧
        ((d.ar.getLsbD 4 = true ∧ d.ar.getLsbD 3 = true ∧ d.ar.getLsbD 2 = true) ∨
          (s.cpl ≤ rightsDpl d.ar ∧ sel.toNat % 4 ≤ rightsDpl d.ar))
    ∀ (i : Instr) (type : Byte → Prop) (value : Option (Desc → Word)),
      ((i = .lar r rm ∧ value = some (fun d => d.ar ++ 0#8) ∧
          type = fun ar => ar.getLsbD 4 = true ∨ (1 ≤ ar.toNat % 16 ∧ ar.toNat % 16 ≤ 7)) ∨
        (i = .lsl r rm ∧ value = some (fun d => d.word0) ∧
          type = fun ar => ar.getLsbD 4 = true ∨ (1 ≤ ar.toNat % 16 ∧ ar.toNat % 16 ≤ 3)) ∨
        (i = .verr rm ∧ value = none ∧
          type = fun ar => ar.getLsbD 4 = true ∧ (ar.getLsbD 3 = true → ar.getLsbD 1 = true)) ∨
        (i = .verw rm ∧ value = none ∧
          type = fun ar => ar.getLsbD 4 = true ∧ ar.getLsbD 3 = false ∧ ar.getLsbD 1 = true)) →
      ∃ t, exec i s = .next t ∧ s.DataOnly t ∧ t.flags = { s.flags with zf := t.flags.zf } ∧
        (t.flags.zf = true ↔ seen type) ∧
        (t.flags.zf = false → t.regs = s.regs) ∧
        (t.flags.zf = true → ∀ d, s.fetchDesc sel = some d →
          t.regs = match value with
            | some f => s.regs.set r (f d)
            | none => s.regs) ∧
        (∀ d, s.fetchDesc sel = some d → s.MemoryKept t [s.physAddr (d.addr + 5)]) ∧
        (s.fetchDesc sel = none → t.mem = s.mem)) ∧
  (∀ (rm : Rm) (r : Reg) (s : State), s.prot = true → s.rmWriteFault .word rm = none →
    let d := s.rmValue .word rm
    let rpl := (s.reg16 r).toNat % 4
    let v := s.beforeWrite rm
    (d.toNat % 4 < rpl → ∃ t, exec (.arpl rm r) s = .next t ∧ v.DataOnly t ∧
      t.flags = { s.flags with zf := true } ∧ v.Writes t .word rm (BitVec.ofNat 16 (d.toNat / 4 * 4 + rpl))) ∧
    (rpl ≤ d.toNat % 4 → exec (.arpl rm r) s = .next { s with flags := { s.flags with zf := false } }))

/-- Where instructions trap for want of privilege or of protected mode (60 R581, 20 R111, 47 R494, 30 R197): beyond
level 0 the privileged instructions are #GP(0); with CPL above IOPL the I/O sensitive ones are; in real mode the
instructions of protected mode alone are interrupt 6. That ARPL is one of these is a passage the spec marks as general
knowledge (48 R525, K26; log 44), that the tests of mode and privilege come before the operand's its decision D7 (R565,
log 24): the model's choices. -/
def Obligations.PrivilegeTraps : Prop :=
  ∀ s : State,
    (s.prot = true → s.cpl ≠ 0 →
      ∀ i, (i = .hlt ∨ i = .clts ∨ (∃ rm, i = .lmsw rm ∨ i = .lldt rm ∨ i = .ltr rm) ∨
        (∃ m, i = .lgdt m ∨ i = .lidt m)) → exec i s = s.trap 13 (some 0)) ∧
    (s.prot = true → s.flags.iopl.toNat < s.cpl →
      ∀ i, (i = .cli ∨ i = .sti ∨ i = .lock ∨
        (∃ w p, i = .inImm w p ∨ i = .outImm w p ∨ i = .inDx w ∨ i = .outDx w)) → exec i s = s.trap 13 (some 0)) ∧
    (s.prot = true → s.flags.iopl.toNat < s.cpl → s.inst.rep = none ∨ s.regs.cx ≠ 0 →
      ∀ w, exec (.ins w) s = s.trap 13 (some 0) ∧ exec (.outs w) s = s.trap 13 (some 0)) ∧
    (s.prot = false →
      ∀ i, (∃ rm r, i = .lldt rm ∨ i = .sldt rm ∨ i = .ltr rm ∨ i = .str rm ∨ i = .verr rm ∨ i = .verw rm ∨
        i = .lar r rm ∨ i = .lsl r rm ∨ i = .arpl rm r) → exec i s = s.trap 6 none)

/-- The checks of a memory operand (20 R84, R92, R97-R101): in real mode only a word at offset FFFFH fails, with
interrupt 13; in protected mode an invalid segment or one whose rights do not allow the access is #GP(0), and an offset
outside its limit is #SS(0) through SS and #GP(0) else; an expand-down segment has the offsets above its limit. An
instruction whose operand fails takes that exception from the state before, string instructions included, whose failing
iteration changes nothing (43 R361, R386). An operand of several words does not wrap in protected mode (30 R185); in
real mode each word is checked by itself. That a failing iteration changes nothing and that the check of a source comes
before that of a destination is the spec's decision D7 (R361, R565; log 24), the expand-down segment's upper end and the
extent of an operand are D8 and D47 (log 45). That ARPL's operand must be writable also where nothing would be written
is a passage the spec marks as general knowledge (48 R525, K26; log 44): the model's choice. -/
def Obligations.OperandAccessFaults : Prop :=
  (∀ (i : Instr) (e : Exc) (s : State), s.OperandFault i e ∨ s.WordFault i e ∨ s.WideFault i e →
    exec i s = s.trap e.vector e.code) ∧
  (∀ (i : Instr) (e : Exc) (s : State), s.StringFault i e → s.Quiet → exec i s = s.trap e.vector e.code) ∧
  (∀ (r : SReg) (off : Word) (w : Width) (s : State), s.prot = false →
    let faults := fun a : Word => if w = .word ∧ a = 0xFFFF#16 then some (Exc.gp 0) else none
    s.readFault r off w.bytes = faults off ∧ s.writeFault r off w.bytes = faults off ∧
    (w = .word → ∀ k, s.readPart r off k = faults (off + BitVec.ofNat 16 k) ∧
      s.writePart r off k = faults (off + BitVec.ofNat 16 k))) ∧
  ∀ (r : SReg) (off : Word) (n : Nat) (s : State),
    let g := s.seg r
    let limit := some (if r = .ss then Exc.ss 0 else Exc.gp 0)
    (s.prot = true →
      (∀ k, n = k + 2 → s.readPart r off k = s.readFault r off n ∧ s.writePart r off k = s.writeFault r off n) ∧
      (g.valid = false → s.readFault r off n = some (Exc.gp 0) ∧ s.writeFault r off n = some (Exc.gp 0)) ∧
      (g.rights.getLsbD 3 = true → s.writeFault r off n = some (Exc.gp 0)) ∧
      (g.rights.getLsbD 3 = true → g.rights.getLsbD 1 = false → s.readFault r off n = some (Exc.gp 0)) ∧
      (g.rights.getLsbD 3 = false → g.rights.getLsbD 1 = false → s.writeFault r off n = some (Exc.gp 0)) ∧
      (g.valid = true → g.rights.getLsbD 3 = true → g.rights.getLsbD 1 = true →
        s.readFault r off n = if off.toNat + n ≤ g.limit.toNat + 1 then none else limit) ∧
      (g.valid = true → g.rights.getLsbD 3 = false → g.rights.getLsbD 2 = false →
        (s.readFault r off n = if off.toNat + n ≤ g.limit.toNat + 1 then none else limit) ∧
        (g.rights.getLsbD 1 = true → s.writeFault r off n = s.readFault r off n)) ∧
      (g.valid = true → g.rights.getLsbD 3 = false → g.rights.getLsbD 2 = true →
        (s.readFault r off n =
          if g.limit.toNat < off.toNat ∧ off.toNat + n ≤ 2 ^ 16 then none else limit) ∧
        (g.rights.getLsbD 1 = true → s.writeFault r off n = s.readFault r off n)))

/-! ### Encoding -/

/-- Decoding and encoding agree (30 R181-R201): the bytes of every well-formed instruction or prefix decode to it,
whatever follows them, and bytes that decode to an instruction are that instruction's bytes: it is well formed and no
second encoding of it exists. -/
def Obligations.DecodeEncodeAgree : Prop :=
  ∀ (i : Instr) (bs rest : List Byte),
    (i.wf = true → decodeInstr (encode i ++ rest) = .ok (i, rest)) ∧
    (decodeInstr bs = .ok (i, rest) → i.wf = true ∧ bs = encode i ++ rest)

/-- A few instructions' bytes, written out from their encodings (30 R191, R192, R201), decode to them. That 0F 04 is an
undefined opcode follows R195 and the spec's decision D36, from which the silicon is known to differ (log 23): the
model's choice. -/
def Obligations.SampleBytesDecode : Prop :=
  decodeInstr [0x01#8, 0xD8#8] = .ok (.addRmReg .toRm .word (.reg .ax) .bx, []) ∧
  decodeInstr [0x83#8, 0x6F#8, 0xFE#8, 0x80#8] = .ok (.subRmImm8 (.mem (.disp8 .bx 0xFE#8)) 0x80#8, []) ∧
  decodeInstr [0x0F#8, 0x01#8, 0x16#8, 0x34#8, 0x12#8] = .ok (.lgdt (.direct 0x1234#16), []) ∧
  decodeInstr [0xEA#8, 0x05#8, 0x00#8, 0x08#8, 0x00#8] = .ok (.jmpFar 0x0005#16 0x0008#16, []) ∧
  decodeInstr [0xD1#8, 0xF8#8] = .ok (.sarOne .word (.reg .ax), []) ∧
  decodeInstr [0x0F#8, 0x04#8] = .error .undefinedOpcode

/-! ### The machine -/

/-- A step runs the decoded instruction with its prefixes (00 R11; 30 R193): with no instruction in progress, nothing
that the queue holds beside memory, no RESET, no HOLD and nothing to deliver at the boundary, the bytes at CS:IP are
decoded, the prefixes and the instruction run in order with IP past them, and the step ends with a single-step trap
pending if TF was set and the processor is not shut down (the spec's decision D13, log 40). The inputs of the step
have been sampled in `s.sample`; between the fetch and the instruction's own accesses another master may write
(`yieldBus`, 20 R117, log 42). A repeat prefix before a non-string instruction is included where REP_NONSTRING is
not refuse (log 13). With an instruction in progress, a repeated string instruction between its iterations or a WAIT or
ESC that waits (43 R380; 47 R492, R493), nothing is fetched: the step runs its prefixes and the instruction again, with
IP past them, under the mode rules it began with. The fields of the fetch and of the instruction in progress are the
model's own (logs 18, 19, 20, 22). -/
def Obligations.StepRunsDecodedInstruction : Prop :=
  (∀ (s : State) (ps : List Instr) (i : Instr) (rest : List Byte),
    let t := s.sample
    let n := (ps.flatMap encode).length + (encode i).length
    let begun := { t with
      ip := t.ip + BitVec.ofNat 16 n, inhibit := .none
      fetch := { t.fetch with wrapped := !t.pe && decide (t.ip.toNat + n = 2 ^ 16) }
      inst := { InstState.idle with
        ipInst := t.ip
        code := some { prefixes := ps, instr := i, length := n }
        active := true } }
    t.pins.reset = none → t.onHold = false → t.run = .running → (∀ q, t.request q = none) → t.inst.code = none →
    t.fetch = FetchState.empty → (∀ p ∈ ps, p.wf = true ∧ p.isPrefix = true) → i.wf = true → i.isPrefix = false →
    (t.platform.repIgnored = true ∨ (.rep ∉ ps ∧ .repne ∉ ps) ∨ isString i = true) →
    t.fetchBytes (min t.fetchable 10) = ps.flatMap encode ++ encode i ++ rest →
    step s =
      match runItems (ps ++ [i]) begun.yieldBus with
      | .next u => .next { u with
          stepTrap := u.stepTrap || (t.flags.tf && decide (u.inst.progress ≠ .stall) && decide (u.run ≠ .shutdown))
          inhibit := if u.inst.progress = .complete then u.inhibit else t.inhibit
          inst := u.inst.carried }
      | .fault f => .fault f
      | .refused r => .refused r) ∧
  (∀ (s : State) (d : Decoded),
    let t := s.sample
    let begun := { t with
      ip := t.ip + BitVec.ofNat 16 d.length, inhibit := .none
      fetch := { t.fetch with
        wrapped := !(t.pe && !t.inst.realRules) && decide (t.ip.toNat + d.length = 2 ^ 16) }
      inst := { InstState.idle with ipInst := t.ip, code := some d, active := true, realRules := t.inst.realRules } }
    t.pins.reset = none → t.onHold = false → t.run = .running → (∀ q, t.request q = none) → t.inst.code = some d →
    step s =
      match runItems (d.prefixes ++ [d.instr]) begun with
      | .next u => .next { u with
          stepTrap := u.stepTrap || (t.flags.tf && decide (u.inst.progress ≠ .stall) && decide (u.run ≠ .shutdown))
          inhibit := if u.inst.progress = .complete then u.inhibit else t.inhibit
          inst := u.inst.carried }
      | .fault f => .fault f
      | .refused r => .refused r)

/-- A step at bytes that are no instruction (30 R183, R193, R195-R199; 20 R100; 60 R545): under the conditions of a
step that fetches, an undefined encoding, a register where memory is required, or an instruction with its prefixes
longer than 10 bytes takes interrupt 6, an undefined PUSH or POP encoding interrupt 13, and so does an instruction
that runs past the end of the code segment; the saved IP is that of the first prefix. That undefined encodings are
interrupt 6, from which the silicon is known to differ (D36, log 23), the reading of the length limit (D40), the fetch
check and its place before all others (D10, D7; log 45) and the single-step trap after the exception (D13, log 40) are
the spec's decisions: the model's choices. -/
def Obligations.StepTakesDecodeFault : Prop :=
  ∀ (s : State) (e : DecodeError),
    let t := s.sample
    let takes := fun e : Exc =>
      step s =
        match raise { vector := e.vector, code := e.code, ext := false, soft := false, nmi := false } t.ip
            { t with inhibit := .none, inst := { InstState.idle with ipInst := t.ip, active := true } } with
        | .next u => .next { u with
            stepTrap := u.stepTrap || (t.flags.tf && decide (u.inst.progress ≠ .stall) && decide (u.run ≠ .shutdown))
            inhibit := if u.inst.progress = .complete then u.inhibit else t.inhibit
            inst := u.inst.carried }
        | .fault f => .fault f
        | .refused r => .refused r
    t.pins.reset = none → t.onHold = false → t.run = .running → (∀ q, t.request q = none) → t.inst.code = none →
    t.fetch = FetchState.empty →
    (∀ (ps : List Instr) (bs : List Byte), (∀ p ∈ ps, p.wf = true ∧ p.isPrefix = true) →
      t.fetchBytes (min t.fetchable 10) = ps.flatMap encode ++ bs → decodeInstr bs = .error e →
      (e = .undefinedOpcode ∨ e = .memoryRequired → takes { vector := 6, code := none }) ∧
      (e = .undefinedPushPop → takes { vector := 13, code := some 0 }) ∧
      (e = .needMore → t.fetchable ≤ 10 → takes { vector := 13, code := some 0 }) ∧
      (e = .needMore → 10 < t.fetchable → takes { vector := 6, code := none })) ∧
    (∀ (ps : List Instr) (i : Instr), (∀ p ∈ ps, p.wf = true ∧ p.isPrefix = true) → i.wf = true →
      10 < (ps.flatMap encode ++ encode i).length → 10 < t.fetchable →
      t.fetchBytes 10 = (ps.flatMap encode ++ encode i).take 10 → takes { vector := 6, code := none })

/-- Every step keeps the invariant: memory stays in its canonical form, IOPL and NT stay 0 in real mode (10 R36, R37),
bits 15-4 of MSW keep their reset value (10 R42), and what stands before an instruction in progress are prefixes (30
R181). That nothing writes bits 15-4 of MSW is the spec's decision D6 (log 8). -/
def Obligations.StepKeepsInvariant : Prop :=
  ∀ s t : State, s.Inv → step s = .next t → t.Inv

/-- The invariant holds right after reset. -/
def Obligations.ResetHasInvariant : Prop := State.reset.Inv

/-- Protected mode is left by RESET alone; taking an interrupt or exception, and an instruction executed at an outer
level, change neither GDTR nor IDTR nor the PE, MP and EM bits of MSW (10 R40; 47 R497; 60 R581). The outer level runs
under protected-mode rules: no instruction decoded before PE was set is left (70 R610). -/
def Obligations.SystemRegistersProtected : Prop :=
  let kept := fun s t : State =>
    t.gdtr = s.gdtr ∧ t.idtr = s.idtr ∧ t.pe = s.pe ∧ t.msw.getLsbD 1 = s.msw.getLsbD 1 ∧
      t.msw.getLsbD 2 = s.msw.getLsbD 2
  (∀ s t : State, s.Inv → step s = .next t → s.sample.pins.reset = none → s.pe = true → t.pe = true) ∧
  (∀ (ev : Event) (ra : Word) (s t : State), raise ev ra s = .next t → kept s t) ∧
  (∀ s t : State, s.PrefixesOnly → s.pe = true → s.cpl ≠ 0 → s.inst.realRules = false → s.fetch.lmswAt = none →
    s.runInstruction = .next t → kept s t)

/-- What happens at an instruction boundary (10 R50, R51; 60 R544, R553-R557, R575): while running or halted an
exception left to a new task is delivered first, then a pending single-step trap, NMI, the extension's overrun (vector
9) and INTR, each followed by those after it as the delivery leaves them (`onward`), and then by one instruction. A load
of SS holds off all but the exception, STI INTR alone, an NMI in service NMI and vector 9, IF = 0 INTR; with everything
held off one instruction runs. A halted processor without an event stays halted. In shutdown only an NMI that may be
taken does anything: with the registers at free values (93 U11, log 27) vector 2 is delivered, in real mode only if the
table and the stack allow it. What each inhibit holds off is the spec's decision D13 (log 40), that a single-step trap
wakes a halted processor D15 (log 40), that an NMI in service does not hold off INTR D37 with C19 (R554, log 36),
several deliveries and one instruction in one step log 18, the exception left to the next boundary log 26: the model's
choices. -/
def Obligations.BoundaryInterrupts : Prop :=
  ∀ s : State,
    let t := s.sample
    let taken := fun (v : Byte) (nmi : Bool) (u : State) =>
      raise { vector := v, code := none, ext := true, soft := false, nmi := nmi } u.ip
        { u with run := .running, inst := InstState.idle }
    let onward := fun (qs : List Source) (a : Answer) =>
      match a with
      | .next u => if u.run = .running ∧ u.pendingExc = none then deliverEach State.runInstruction qs u.yieldBus else .next u
      | .fault f => .fault f
      | .refused r => .refused r
    let noTrap := t.stepTrap = false ∨ t.inhibit = .all
    let noNmi := t.nmiPending = false ∨ t.nmiInService = true ∨ t.inhibit = .all
    let noOverrun := t.overrunPending = false ∨ t.nmiInService = true ∨ t.inhibit = .all
    let noIntr := t.pins.intr = none ∨ t.flags.ifl = false ∨ t.inhibit ≠ .none
    t.pins.reset = none → t.onHold = false →
    (t.run ≠ .shutdown → ∀ e, t.pendingExc = some e → step s =
      onward [.step, .nmi, .overrun, .intr]
        (raise { vector := e.vector, code := e.code, ext := decide (e.vector = 16), soft := false, nmi := false } t.ip
          { t with pendingExc := none, run := .running, inst := InstState.idle })) ∧
    (t.run ≠ .shutdown → t.pendingExc = none →
      (t.stepTrap = true → t.inhibit ≠ .all →
        step s = onward [.nmi, .overrun, .intr] (taken 1 false { t with stepTrap := false })) ∧
      (noTrap → t.nmiPending = true → t.nmiInService = false → t.inhibit ≠ .all →
        step s = onward [.overrun, .intr] (taken 2 true { t with nmiPending := false, nmiInService := true })) ∧
      (noTrap → noNmi → t.overrunPending = true → t.nmiInService = false → t.inhibit ≠ .all →
        step s = onward [.intr] (taken 9 false { t with overrunPending := false })) ∧
      (noTrap → noNmi → noOverrun → t.flags.ifl = true → t.inhibit = .none → ∀ v, t.pins.intr = some v →
        step s = onward [] (taken v false t)) ∧
      (noTrap → noNmi → noOverrun → noIntr →
        (t.run = .running → step s = t.runInstruction) ∧ (t.run = .halted → step s = .next t))) ∧
    (t.run = .shutdown →
      (t.nmiPending = false ∨ t.nmiInService = true → step s = .next t) ∧
      (t.nmiPending = true → t.nmiInService = false → ∃ u : State,
        u = { t with
              regs := u.regs, ip := u.ip, flags := u.flags, es := u.es, cs := u.cs, ss := u.ss, ds := u.ds,
              ldtr := u.ldtr, tr := u.tr, gdtr := u.gdtr, idtr := u.idtr, msw := u.msw, fetch := FetchState.empty
              draws := u.draws } ∧
        (∀ k, k = 0 ∨ 4 ≤ k → u.msw.getLsbD k = t.msw.getLsbD k) ∧
        (t.pe = false → u.flags.iopl = t.flags.iopl ∧ u.flags.nt = t.flags.nt) ∧
        (t.prot = true ∨ (0x0F ≤ u.idtr.limit.toNat ∧ 5 < u.regs.sp.toNat) →
          step s = onward [.overrun, .intr]
            (taken 2 true { u with inhibit := .none, nmiPending := false, nmiInService := true })) ∧
        (t.prot = false → (u.idtr.limit.toNat < 0x0F ∨ u.regs.sp.toNat ≤ 5) →
          step s = .next { t with nmiPending := false, draws := u.draws })))

/-- Reset (10 R56; 70 R600, R601): the values the spec gives, and a step that samples RESET leaves the reset state but
for memory, inputs, outputs, the platform and the extension's presence; of the bytes the processor would have written
in that step the first k have reached memory, none for k = 0. That the reset general registers, SP, GDTR, LDTR and TR,
which R56 calls a draw, are the zeros of State.reset is logs 1 to 4, what a sampled RESET leaves of the model's own
fields and that k counts bytes is log 39: the model's choices. -/
def Obligations.ResetState : Prop :=
  (let s := State.reset
   s.ip = 0xFFF0#16 ∧ s.flagImage = 0x0002#16 ∧ s.msw = 0xFFF0#16 ∧
   s.cs.sel = 0xF000#16 ∧ s.cs.base = 0xFF0000#24 ∧ s.cs.limit = 0xFFFF#16 ∧
   s.ds.sel = 0 ∧ s.ds.base = 0 ∧ s.ds.limit = 0xFFFF#16 ∧ s.es.sel = 0 ∧ s.es.base = 0 ∧ s.es.limit = 0xFFFF#16 ∧
   s.ss.sel = 0 ∧ s.ss.base = 0 ∧ s.ss.limit = 0xFFFF#16 ∧ s.idtr.base = 0 ∧ s.idtr.limit = 0x03FF#16 ∧
   s.pe = false ∧ s.run = .running) ∧
  (∀ (s : State) (k : Nat), s.sample.pins.reset = some k →
    let t := s.sample
    ∃ u, step s = .next u ∧
      u = { State.reset with
            mem := u.mem, bus := u.bus, platform := t.platform, pins := t.pins, env := t.env, out := u.out
            draws := u.draws, npxPresent := t.npxPresent } ∧
      (k = 0 → u.mem = t.mem ∧ u.out = t.out) ∧
      (∀ v, t.proceed = .next v →
        u.mem = (v.writes.reverse.take k).foldl (fun m c => m.set c.1 c.2) t.mem))
end

