-- ==== Sys2Proof/Laws/State.lean ====
section
/-! SUPPORT. The field lemmas of the state: what each update leaves in each field it does not touch. -/

namespace Sys2Proof.Machine

/-! ### `State.setReg` -/

@[simp] theorem State.setReg_ip (s : State) (w : Width) (r : Reg) (v : Word) :
    (s.setReg w r v).ip = s.ip := by cases w <;> rfl
@[simp] theorem State.setReg_flags (s : State) (w : Width) (r : Reg) (v : Word) :
    (s.setReg w r v).flags = s.flags := by cases w <;> rfl
@[simp] theorem State.setReg_msw (s : State) (w : Width) (r : Reg) (v : Word) :
    (s.setReg w r v).msw = s.msw := by cases w <;> rfl
@[simp] theorem State.setReg_es (s : State) (w : Width) (r : Reg) (v : Word) :
    (s.setReg w r v).es = s.es := by cases w <;> rfl
@[simp] theorem State.setReg_cs (s : State) (w : Width) (r : Reg) (v : Word) :
    (s.setReg w r v).cs = s.cs := by cases w <;> rfl
@[simp] theorem State.setReg_ss (s : State) (w : Width) (r : Reg) (v : Word) :
    (s.setReg w r v).ss = s.ss := by cases w <;> rfl
@[simp] theorem State.setReg_ds (s : State) (w : Width) (r : Reg) (v : Word) :
    (s.setReg w r v).ds = s.ds := by cases w <;> rfl
@[simp] theorem State.setReg_gdtr (s : State) (w : Width) (r : Reg) (v : Word) :
    (s.setReg w r v).gdtr = s.gdtr := by cases w <;> rfl
@[simp] theorem State.setReg_idtr (s : State) (w : Width) (r : Reg) (v : Word) :
    (s.setReg w r v).idtr = s.idtr := by cases w <;> rfl
@[simp] theorem State.setReg_ldtr (s : State) (w : Width) (r : Reg) (v : Word) :
    (s.setReg w r v).ldtr = s.ldtr := by cases w <;> rfl
@[simp] theorem State.setReg_tr (s : State) (w : Width) (r : Reg) (v : Word) :
    (s.setReg w r v).tr = s.tr := by cases w <;> rfl
@[simp] theorem State.setReg_run (s : State) (w : Width) (r : Reg) (v : Word) :
    (s.setReg w r v).run = s.run := by cases w <;> rfl
@[simp] theorem State.setReg_inhibit (s : State) (w : Width) (r : Reg) (v : Word) :
    (s.setReg w r v).inhibit = s.inhibit := by cases w <;> rfl
@[simp] theorem State.setReg_nmiInService (s : State) (w : Width) (r : Reg) (v : Word) :
    (s.setReg w r v).nmiInService = s.nmiInService := by cases w <;> rfl
@[simp] theorem State.setReg_nmiPending (s : State) (w : Width) (r : Reg) (v : Word) :
    (s.setReg w r v).nmiPending = s.nmiPending := by cases w <;> rfl
@[simp] theorem State.setReg_stepTrap (s : State) (w : Width) (r : Reg) (v : Word) :
    (s.setReg w r v).stepTrap = s.stepTrap := by cases w <;> rfl
@[simp] theorem State.setReg_overrunPending (s : State) (w : Width) (r : Reg) (v : Word) :
    (s.setReg w r v).overrunPending = s.overrunPending := by cases w <;> rfl
@[simp] theorem State.setReg_npxPresent (s : State) (w : Width) (r : Reg) (v : Word) :
    (s.setReg w r v).npxPresent = s.npxPresent := by cases w <;> rfl
@[simp] theorem State.setReg_npx (s : State) (w : Width) (r : Reg) (v : Word) :
    (s.setReg w r v).npx = s.npx := by cases w <;> rfl
@[simp] theorem State.setReg_pendingExc (s : State) (w : Width) (r : Reg) (v : Word) :
    (s.setReg w r v).pendingExc = s.pendingExc := by cases w <;> rfl
@[simp] theorem State.setReg_fetch (s : State) (w : Width) (r : Reg) (v : Word) :
    (s.setReg w r v).fetch = s.fetch := by cases w <;> rfl
@[simp] theorem State.setReg_inst (s : State) (w : Width) (r : Reg) (v : Word) :
    (s.setReg w r v).inst = s.inst := by cases w <;> rfl
@[simp] theorem State.setReg_mem (s : State) (w : Width) (r : Reg) (v : Word) :
    (s.setReg w r v).mem = s.mem := by cases w <;> rfl
@[simp] theorem State.setReg_writes (s : State) (w : Width) (r : Reg) (v : Word) :
    (s.setReg w r v).writes = s.writes := by cases w <;> rfl
@[simp] theorem State.setReg_bus (s : State) (w : Width) (r : Reg) (v : Word) :
    (s.setReg w r v).bus = s.bus := by cases w <;> rfl
@[simp] theorem State.setReg_platform (s : State) (w : Width) (r : Reg) (v : Word) :
    (s.setReg w r v).platform = s.platform := by cases w <;> rfl
@[simp] theorem State.setReg_pins (s : State) (w : Width) (r : Reg) (v : Word) :
    (s.setReg w r v).pins = s.pins := by cases w <;> rfl
@[simp] theorem State.setReg_env (s : State) (w : Width) (r : Reg) (v : Word) :
    (s.setReg w r v).env = s.env := by cases w <;> rfl
@[simp] theorem State.setReg_out (s : State) (w : Width) (r : Reg) (v : Word) :
    (s.setReg w r v).out = s.out := by cases w <;> rfl
@[simp] theorem State.setReg_draws (s : State) (w : Width) (r : Reg) (v : Word) :
    (s.setReg w r v).draws = s.draws := by cases w <;> rfl

/-! ### `State.setReg16` -/

@[simp] theorem State.setReg16_regs (s : State) (r : Reg) (v : Word) : (s.setReg16 r v).regs = s.regs.set r v := rfl
@[simp] theorem State.setReg16_ip (s : State) (r : Reg) (v : Word) : (s.setReg16 r v).ip = s.ip := rfl
@[simp] theorem State.setReg16_flags (s : State) (r : Reg) (v : Word) : (s.setReg16 r v).flags = s.flags := rfl
@[simp] theorem State.setReg16_msw (s : State) (r : Reg) (v : Word) : (s.setReg16 r v).msw = s.msw := rfl
@[simp] theorem State.setReg16_es (s : State) (r : Reg) (v : Word) : (s.setReg16 r v).es = s.es := rfl
@[simp] theorem State.setReg16_cs (s : State) (r : Reg) (v : Word) : (s.setReg16 r v).cs = s.cs := rfl
@[simp] theorem State.setReg16_ss (s : State) (r : Reg) (v : Word) : (s.setReg16 r v).ss = s.ss := rfl
@[simp] theorem State.setReg16_ds (s : State) (r : Reg) (v : Word) : (s.setReg16 r v).ds = s.ds := rfl
@[simp] theorem State.setReg16_gdtr (s : State) (r : Reg) (v : Word) : (s.setReg16 r v).gdtr = s.gdtr := rfl
@[simp] theorem State.setReg16_idtr (s : State) (r : Reg) (v : Word) : (s.setReg16 r v).idtr = s.idtr := rfl
@[simp] theorem State.setReg16_ldtr (s : State) (r : Reg) (v : Word) : (s.setReg16 r v).ldtr = s.ldtr := rfl
@[simp] theorem State.setReg16_tr (s : State) (r : Reg) (v : Word) : (s.setReg16 r v).tr = s.tr := rfl
@[simp] theorem State.setReg16_run (s : State) (r : Reg) (v : Word) : (s.setReg16 r v).run = s.run := rfl
@[simp] theorem State.setReg16_inhibit (s : State) (r : Reg) (v : Word) : (s.setReg16 r v).inhibit = s.inhibit := rfl
@[simp] theorem State.setReg16_nmiInService (s : State) (r : Reg) (v : Word) :
    (s.setReg16 r v).nmiInService = s.nmiInService := rfl
@[simp] theorem State.setReg16_nmiPending (s : State) (r : Reg) (v : Word) :
    (s.setReg16 r v).nmiPending = s.nmiPending := rfl
@[simp] theorem State.setReg16_stepTrap (s : State) (r : Reg) (v : Word) :
    (s.setReg16 r v).stepTrap = s.stepTrap := rfl
@[simp] theorem State.setReg16_overrunPending (s : State) (r : Reg) (v : Word) :
    (s.setReg16 r v).overrunPending = s.overrunPending := rfl
@[simp] theorem State.setReg16_npxPresent (s : State) (r : Reg) (v : Word) :
    (s.setReg16 r v).npxPresent = s.npxPresent := rfl
@[simp] theorem State.setReg16_npx (s : State) (r : Reg) (v : Word) : (s.setReg16 r v).npx = s.npx := rfl
@[simp] theorem State.setReg16_pendingExc (s : State) (r : Reg) (v : Word) :
    (s.setReg16 r v).pendingExc = s.pendingExc := rfl
@[simp] theorem State.setReg16_fetch (s : State) (r : Reg) (v : Word) : (s.setReg16 r v).fetch = s.fetch := rfl
@[simp] theorem State.setReg16_inst (s : State) (r : Reg) (v : Word) : (s.setReg16 r v).inst = s.inst := rfl
@[simp] theorem State.setReg16_mem (s : State) (r : Reg) (v : Word) : (s.setReg16 r v).mem = s.mem := rfl
@[simp] theorem State.setReg16_writes (s : State) (r : Reg) (v : Word) : (s.setReg16 r v).writes = s.writes := rfl
@[simp] theorem State.setReg16_bus (s : State) (r : Reg) (v : Word) : (s.setReg16 r v).bus = s.bus := rfl
@[simp] theorem State.setReg16_platform (s : State) (r : Reg) (v : Word) :
    (s.setReg16 r v).platform = s.platform := rfl
@[simp] theorem State.setReg16_pins (s : State) (r : Reg) (v : Word) : (s.setReg16 r v).pins = s.pins := rfl
@[simp] theorem State.setReg16_env (s : State) (r : Reg) (v : Word) : (s.setReg16 r v).env = s.env := rfl
@[simp] theorem State.setReg16_out (s : State) (r : Reg) (v : Word) : (s.setReg16 r v).out = s.out := rfl
@[simp] theorem State.setReg16_draws (s : State) (r : Reg) (v : Word) : (s.setReg16 r v).draws = s.draws := rfl

/-! ### `State.setIp` -/

@[simp] theorem State.setIp_regs (s : State) (v : Word) : (s.setIp v).regs = s.regs := rfl
@[simp] theorem State.setIp_ip (s : State) (v : Word) : (s.setIp v).ip = v := rfl
@[simp] theorem State.setIp_flags (s : State) (v : Word) : (s.setIp v).flags = s.flags := rfl
@[simp] theorem State.setIp_msw (s : State) (v : Word) : (s.setIp v).msw = s.msw := rfl
@[simp] theorem State.setIp_es (s : State) (v : Word) : (s.setIp v).es = s.es := rfl
@[simp] theorem State.setIp_cs (s : State) (v : Word) : (s.setIp v).cs = s.cs := rfl
@[simp] theorem State.setIp_ss (s : State) (v : Word) : (s.setIp v).ss = s.ss := rfl
@[simp] theorem State.setIp_ds (s : State) (v : Word) : (s.setIp v).ds = s.ds := rfl
@[simp] theorem State.setIp_gdtr (s : State) (v : Word) : (s.setIp v).gdtr = s.gdtr := rfl
@[simp] theorem State.setIp_idtr (s : State) (v : Word) : (s.setIp v).idtr = s.idtr := rfl
@[simp] theorem State.setIp_ldtr (s : State) (v : Word) : (s.setIp v).ldtr = s.ldtr := rfl
@[simp] theorem State.setIp_tr (s : State) (v : Word) : (s.setIp v).tr = s.tr := rfl
@[simp] theorem State.setIp_run (s : State) (v : Word) : (s.setIp v).run = s.run := rfl
@[simp] theorem State.setIp_inhibit (s : State) (v : Word) : (s.setIp v).inhibit = s.inhibit := rfl
@[simp] theorem State.setIp_nmiInService (s : State) (v : Word) : (s.setIp v).nmiInService = s.nmiInService := rfl
@[simp] theorem State.setIp_nmiPending (s : State) (v : Word) : (s.setIp v).nmiPending = s.nmiPending := rfl
@[simp] theorem State.setIp_stepTrap (s : State) (v : Word) : (s.setIp v).stepTrap = s.stepTrap := rfl
@[simp] theorem State.setIp_overrunPending (s : State) (v : Word) :
    (s.setIp v).overrunPending = s.overrunPending := rfl
@[simp] theorem State.setIp_npxPresent (s : State) (v : Word) : (s.setIp v).npxPresent = s.npxPresent := rfl
@[simp] theorem State.setIp_npx (s : State) (v : Word) : (s.setIp v).npx = s.npx := rfl
@[simp] theorem State.setIp_pendingExc (s : State) (v : Word) : (s.setIp v).pendingExc = s.pendingExc := rfl
@[simp] theorem State.setIp_fetch (s : State) (v : Word) : (s.setIp v).fetch = s.fetch := rfl
@[simp] theorem State.setIp_inst (s : State) (v : Word) : (s.setIp v).inst = s.inst := rfl
@[simp] theorem State.setIp_mem (s : State) (v : Word) : (s.setIp v).mem = s.mem := rfl
@[simp] theorem State.setIp_writes (s : State) (v : Word) : (s.setIp v).writes = s.writes := rfl
@[simp] theorem State.setIp_bus (s : State) (v : Word) : (s.setIp v).bus = s.bus := rfl
@[simp] theorem State.setIp_platform (s : State) (v : Word) : (s.setIp v).platform = s.platform := rfl
@[simp] theorem State.setIp_pins (s : State) (v : Word) : (s.setIp v).pins = s.pins := rfl
@[simp] theorem State.setIp_env (s : State) (v : Word) : (s.setIp v).env = s.env := rfl
@[simp] theorem State.setIp_out (s : State) (v : Word) : (s.setIp v).out = s.out := rfl
@[simp] theorem State.setIp_draws (s : State) (v : Word) : (s.setIp v).draws = s.draws := rfl

/-! ### `State.setFlags` -/

@[simp] theorem State.setFlags_regs (s : State) (f : Flags) : (s.setFlags f).regs = s.regs := rfl
@[simp] theorem State.setFlags_ip (s : State) (f : Flags) : (s.setFlags f).ip = s.ip := rfl
@[simp] theorem State.setFlags_flags (s : State) (f : Flags) : (s.setFlags f).flags = f := rfl
@[simp] theorem State.setFlags_msw (s : State) (f : Flags) : (s.setFlags f).msw = s.msw := rfl
@[simp] theorem State.setFlags_es (s : State) (f : Flags) : (s.setFlags f).es = s.es := rfl
@[simp] theorem State.setFlags_cs (s : State) (f : Flags) : (s.setFlags f).cs = s.cs := rfl
@[simp] theorem State.setFlags_ss (s : State) (f : Flags) : (s.setFlags f).ss = s.ss := rfl
@[simp] theorem State.setFlags_ds (s : State) (f : Flags) : (s.setFlags f).ds = s.ds := rfl
@[simp] theorem State.setFlags_gdtr (s : State) (f : Flags) : (s.setFlags f).gdtr = s.gdtr := rfl
@[simp] theorem State.setFlags_idtr (s : State) (f : Flags) : (s.setFlags f).idtr = s.idtr := rfl
@[simp] theorem State.setFlags_ldtr (s : State) (f : Flags) : (s.setFlags f).ldtr = s.ldtr := rfl
@[simp] theorem State.setFlags_tr (s : State) (f : Flags) : (s.setFlags f).tr = s.tr := rfl
@[simp] theorem State.setFlags_run (s : State) (f : Flags) : (s.setFlags f).run = s.run := rfl
@[simp] theorem State.setFlags_inhibit (s : State) (f : Flags) : (s.setFlags f).inhibit = s.inhibit := rfl
@[simp] theorem State.setFlags_nmiInService (s : State) (f : Flags) :
    (s.setFlags f).nmiInService = s.nmiInService := rfl
@[simp] theorem State.setFlags_nmiPending (s : State) (f : Flags) : (s.setFlags f).nmiPending = s.nmiPending := rfl
@[simp] theorem State.setFlags_stepTrap (s : State) (f : Flags) : (s.setFlags f).stepTrap = s.stepTrap := rfl
@[simp] theorem State.setFlags_overrunPending (s : State) (f : Flags) :
    (s.setFlags f).overrunPending = s.overrunPending := rfl
@[simp] theorem State.setFlags_npxPresent (s : State) (f : Flags) : (s.setFlags f).npxPresent = s.npxPresent := rfl
@[simp] theorem State.setFlags_npx (s : State) (f : Flags) : (s.setFlags f).npx = s.npx := rfl
@[simp] theorem State.setFlags_pendingExc (s : State) (f : Flags) : (s.setFlags f).pendingExc = s.pendingExc := rfl
@[simp] theorem State.setFlags_fetch (s : State) (f : Flags) : (s.setFlags f).fetch = s.fetch := rfl
@[simp] theorem State.setFlags_inst (s : State) (f : Flags) : (s.setFlags f).inst = s.inst := rfl
@[simp] theorem State.setFlags_mem (s : State) (f : Flags) : (s.setFlags f).mem = s.mem := rfl
@[simp] theorem State.setFlags_writes (s : State) (f : Flags) : (s.setFlags f).writes = s.writes := rfl
@[simp] theorem State.setFlags_bus (s : State) (f : Flags) : (s.setFlags f).bus = s.bus := rfl
@[simp] theorem State.setFlags_platform (s : State) (f : Flags) : (s.setFlags f).platform = s.platform := rfl
@[simp] theorem State.setFlags_pins (s : State) (f : Flags) : (s.setFlags f).pins = s.pins := rfl
@[simp] theorem State.setFlags_env (s : State) (f : Flags) : (s.setFlags f).env = s.env := rfl
@[simp] theorem State.setFlags_out (s : State) (f : Flags) : (s.setFlags f).out = s.out := rfl
@[simp] theorem State.setFlags_draws (s : State) (f : Flags) : (s.setFlags f).draws = s.draws := rfl

/-! ### `State.tick` -/

@[simp] theorem State.tick_regs (s : State) (n : Nat) : (s.tick n).regs = s.regs := rfl
@[simp] theorem State.tick_ip (s : State) (n : Nat) : (s.tick n).ip = s.ip := rfl
@[simp] theorem State.tick_flags (s : State) (n : Nat) : (s.tick n).flags = s.flags := rfl
@[simp] theorem State.tick_msw (s : State) (n : Nat) : (s.tick n).msw = s.msw := rfl
@[simp] theorem State.tick_es (s : State) (n : Nat) : (s.tick n).es = s.es := rfl
@[simp] theorem State.tick_cs (s : State) (n : Nat) : (s.tick n).cs = s.cs := rfl
@[simp] theorem State.tick_ss (s : State) (n : Nat) : (s.tick n).ss = s.ss := rfl
@[simp] theorem State.tick_ds (s : State) (n : Nat) : (s.tick n).ds = s.ds := rfl
@[simp] theorem State.tick_gdtr (s : State) (n : Nat) : (s.tick n).gdtr = s.gdtr := rfl
@[simp] theorem State.tick_idtr (s : State) (n : Nat) : (s.tick n).idtr = s.idtr := rfl
@[simp] theorem State.tick_ldtr (s : State) (n : Nat) : (s.tick n).ldtr = s.ldtr := rfl
@[simp] theorem State.tick_tr (s : State) (n : Nat) : (s.tick n).tr = s.tr := rfl
@[simp] theorem State.tick_run (s : State) (n : Nat) : (s.tick n).run = s.run := rfl
@[simp] theorem State.tick_inhibit (s : State) (n : Nat) : (s.tick n).inhibit = s.inhibit := rfl
@[simp] theorem State.tick_nmiInService (s : State) (n : Nat) : (s.tick n).nmiInService = s.nmiInService := rfl
@[simp] theorem State.tick_nmiPending (s : State) (n : Nat) : (s.tick n).nmiPending = s.nmiPending := rfl
@[simp] theorem State.tick_stepTrap (s : State) (n : Nat) : (s.tick n).stepTrap = s.stepTrap := rfl
@[simp] theorem State.tick_overrunPending (s : State) (n : Nat) : (s.tick n).overrunPending = s.overrunPending := rfl
@[simp] theorem State.tick_npxPresent (s : State) (n : Nat) : (s.tick n).npxPresent = s.npxPresent := rfl
@[simp] theorem State.tick_npx (s : State) (n : Nat) : (s.tick n).npx = s.npx := rfl
@[simp] theorem State.tick_pendingExc (s : State) (n : Nat) : (s.tick n).pendingExc = s.pendingExc := rfl
@[simp] theorem State.tick_fetch (s : State) (n : Nat) : (s.tick n).fetch = s.fetch := rfl
@[simp] theorem State.tick_inst (s : State) (n : Nat) : (s.tick n).inst = s.inst := rfl
@[simp] theorem State.tick_mem (s : State) (n : Nat) : (s.tick n).mem = s.mem := rfl
@[simp] theorem State.tick_writes (s : State) (n : Nat) : (s.tick n).writes = s.writes := rfl
@[simp] theorem State.tick_bus (s : State) (n : Nat) : (s.tick n).bus = s.bus := rfl
@[simp] theorem State.tick_platform (s : State) (n : Nat) : (s.tick n).platform = s.platform := rfl
@[simp] theorem State.tick_pins (s : State) (n : Nat) : (s.tick n).pins = s.pins := rfl
@[simp] theorem State.tick_env (s : State) (n : Nat) : (s.tick n).env = s.env := rfl
@[simp] theorem State.tick_out (s : State) (n : Nat) : (s.tick n).out = s.out := rfl
@[simp] theorem State.tick_draws (s : State) (n : Nat) : (s.tick n).draws = s.draws + n := rfl

/-! ### `State.setSp` -/

@[simp] theorem State.setSp_regs (s : State) (v : Word) : (s.setSp v).regs = s.regs.set .sp v := rfl
@[simp] theorem State.setSp_ip (s : State) (v : Word) : (s.setSp v).ip = s.ip := rfl
@[simp] theorem State.setSp_flags (s : State) (v : Word) : (s.setSp v).flags = s.flags := rfl
@[simp] theorem State.setSp_msw (s : State) (v : Word) : (s.setSp v).msw = s.msw := rfl
@[simp] theorem State.setSp_es (s : State) (v : Word) : (s.setSp v).es = s.es := rfl
@[simp] theorem State.setSp_cs (s : State) (v : Word) : (s.setSp v).cs = s.cs := rfl
@[simp] theorem State.setSp_ss (s : State) (v : Word) : (s.setSp v).ss = s.ss := rfl
@[simp] theorem State.setSp_ds (s : State) (v : Word) : (s.setSp v).ds = s.ds := rfl
@[simp] theorem State.setSp_gdtr (s : State) (v : Word) : (s.setSp v).gdtr = s.gdtr := rfl
@[simp] theorem State.setSp_idtr (s : State) (v : Word) : (s.setSp v).idtr = s.idtr := rfl
@[simp] theorem State.setSp_ldtr (s : State) (v : Word) : (s.setSp v).ldtr = s.ldtr := rfl
@[simp] theorem State.setSp_tr (s : State) (v : Word) : (s.setSp v).tr = s.tr := rfl
@[simp] theorem State.setSp_run (s : State) (v : Word) : (s.setSp v).run = s.run := rfl
@[simp] theorem State.setSp_inhibit (s : State) (v : Word) : (s.setSp v).inhibit = s.inhibit := rfl
@[simp] theorem State.setSp_nmiInService (s : State) (v : Word) : (s.setSp v).nmiInService = s.nmiInService := rfl
@[simp] theorem State.setSp_nmiPending (s : State) (v : Word) : (s.setSp v).nmiPending = s.nmiPending := rfl
@[simp] theorem State.setSp_stepTrap (s : State) (v : Word) : (s.setSp v).stepTrap = s.stepTrap := rfl
@[simp] theorem State.setSp_overrunPending (s : State) (v : Word) :
    (s.setSp v).overrunPending = s.overrunPending := rfl
@[simp] theorem State.setSp_npxPresent (s : State) (v : Word) : (s.setSp v).npxPresent = s.npxPresent := rfl
@[simp] theorem State.setSp_npx (s : State) (v : Word) : (s.setSp v).npx = s.npx := rfl
@[simp] theorem State.setSp_pendingExc (s : State) (v : Word) : (s.setSp v).pendingExc = s.pendingExc := rfl
@[simp] theorem State.setSp_fetch (s : State) (v : Word) : (s.setSp v).fetch = s.fetch := rfl
@[simp] theorem State.setSp_inst (s : State) (v : Word) : (s.setSp v).inst = s.inst := rfl
@[simp] theorem State.setSp_mem (s : State) (v : Word) : (s.setSp v).mem = s.mem := rfl
@[simp] theorem State.setSp_writes (s : State) (v : Word) : (s.setSp v).writes = s.writes := rfl
@[simp] theorem State.setSp_bus (s : State) (v : Word) : (s.setSp v).bus = s.bus := rfl
@[simp] theorem State.setSp_platform (s : State) (v : Word) : (s.setSp v).platform = s.platform := rfl
@[simp] theorem State.setSp_pins (s : State) (v : Word) : (s.setSp v).pins = s.pins := rfl
@[simp] theorem State.setSp_env (s : State) (v : Word) : (s.setSp v).env = s.env := rfl
@[simp] theorem State.setSp_out (s : State) (v : Word) : (s.setSp v).out = s.out := rfl
@[simp] theorem State.setSp_draws (s : State) (v : Word) : (s.setSp v).draws = s.draws := rfl

/-! ### `State.setSeg` -/

@[simp] theorem State.setSeg_regs (s : State) (r : SReg) (g : Segment) :
    (s.setSeg r g).regs = s.regs := by cases r <;> rfl
@[simp] theorem State.setSeg_ip (s : State) (r : SReg) (g : Segment) : (s.setSeg r g).ip = s.ip := by cases r <;> rfl
@[simp] theorem State.setSeg_flags (s : State) (r : SReg) (g : Segment) :
    (s.setSeg r g).flags = s.flags := by cases r <;> rfl
@[simp] theorem State.setSeg_msw (s : State) (r : SReg) (g : Segment) :
    (s.setSeg r g).msw = s.msw := by cases r <;> rfl
@[simp] theorem State.setSeg_gdtr (s : State) (r : SReg) (g : Segment) :
    (s.setSeg r g).gdtr = s.gdtr := by cases r <;> rfl
@[simp] theorem State.setSeg_idtr (s : State) (r : SReg) (g : Segment) :
    (s.setSeg r g).idtr = s.idtr := by cases r <;> rfl
@[simp] theorem State.setSeg_ldtr (s : State) (r : SReg) (g : Segment) :
    (s.setSeg r g).ldtr = s.ldtr := by cases r <;> rfl
@[simp] theorem State.setSeg_tr (s : State) (r : SReg) (g : Segment) : (s.setSeg r g).tr = s.tr := by cases r <;> rfl
@[simp] theorem State.setSeg_run (s : State) (r : SReg) (g : Segment) :
    (s.setSeg r g).run = s.run := by cases r <;> rfl
@[simp] theorem State.setSeg_inhibit (s : State) (r : SReg) (g : Segment) :
    (s.setSeg r g).inhibit = s.inhibit := by cases r <;> rfl
@[simp] theorem State.setSeg_nmiInService (s : State) (r : SReg) (g : Segment) :
    (s.setSeg r g).nmiInService = s.nmiInService := by cases r <;> rfl
@[simp] theorem State.setSeg_nmiPending (s : State) (r : SReg) (g : Segment) :
    (s.setSeg r g).nmiPending = s.nmiPending := by cases r <;> rfl
@[simp] theorem State.setSeg_stepTrap (s : State) (r : SReg) (g : Segment) :
    (s.setSeg r g).stepTrap = s.stepTrap := by cases r <;> rfl
@[simp] theorem State.setSeg_overrunPending (s : State) (r : SReg) (g : Segment) :
    (s.setSeg r g).overrunPending = s.overrunPending := by cases r <;> rfl
@[simp] theorem State.setSeg_npxPresent (s : State) (r : SReg) (g : Segment) :
    (s.setSeg r g).npxPresent = s.npxPresent := by cases r <;> rfl
@[simp] theorem State.setSeg_npx (s : State) (r : SReg) (g : Segment) :
    (s.setSeg r g).npx = s.npx := by cases r <;> rfl
@[simp] theorem State.setSeg_pendingExc (s : State) (r : SReg) (g : Segment) :
    (s.setSeg r g).pendingExc = s.pendingExc := by cases r <;> rfl
@[simp] theorem State.setSeg_fetch (s : State) (r : SReg) (g : Segment) :
    (s.setSeg r g).fetch = s.fetch := by cases r <;> rfl
@[simp] theorem State.setSeg_inst (s : State) (r : SReg) (g : Segment) :
    (s.setSeg r g).inst = s.inst := by cases r <;> rfl
@[simp] theorem State.setSeg_mem (s : State) (r : SReg) (g : Segment) :
    (s.setSeg r g).mem = s.mem := by cases r <;> rfl
@[simp] theorem State.setSeg_writes (s : State) (r : SReg) (g : Segment) :
    (s.setSeg r g).writes = s.writes := by cases r <;> rfl
@[simp] theorem State.setSeg_bus (s : State) (r : SReg) (g : Segment) :
    (s.setSeg r g).bus = s.bus := by cases r <;> rfl
@[simp] theorem State.setSeg_platform (s : State) (r : SReg) (g : Segment) :
    (s.setSeg r g).platform = s.platform := by cases r <;> rfl
@[simp] theorem State.setSeg_pins (s : State) (r : SReg) (g : Segment) :
    (s.setSeg r g).pins = s.pins := by cases r <;> rfl
@[simp] theorem State.setSeg_env (s : State) (r : SReg) (g : Segment) :
    (s.setSeg r g).env = s.env := by cases r <;> rfl
@[simp] theorem State.setSeg_out (s : State) (r : SReg) (g : Segment) :
    (s.setSeg r g).out = s.out := by cases r <;> rfl
@[simp] theorem State.setSeg_draws (s : State) (r : SReg) (g : Segment) :
    (s.setSeg r g).draws = s.draws := by cases r <;> rfl

/-! ### `State.dropStack` -/

@[simp] theorem State.dropStack_regs (s : State) (n : Word) :
    (s.dropStack n).regs = s.regs.set .sp (s.regs.sp + n) := rfl
@[simp] theorem State.dropStack_ip (s : State) (n : Word) : (s.dropStack n).ip = s.ip := rfl
@[simp] theorem State.dropStack_flags (s : State) (n : Word) : (s.dropStack n).flags = s.flags := rfl
@[simp] theorem State.dropStack_msw (s : State) (n : Word) : (s.dropStack n).msw = s.msw := rfl
@[simp] theorem State.dropStack_es (s : State) (n : Word) : (s.dropStack n).es = s.es := rfl
@[simp] theorem State.dropStack_cs (s : State) (n : Word) : (s.dropStack n).cs = s.cs := rfl
@[simp] theorem State.dropStack_ss (s : State) (n : Word) : (s.dropStack n).ss = s.ss := rfl
@[simp] theorem State.dropStack_ds (s : State) (n : Word) : (s.dropStack n).ds = s.ds := rfl
@[simp] theorem State.dropStack_gdtr (s : State) (n : Word) : (s.dropStack n).gdtr = s.gdtr := rfl
@[simp] theorem State.dropStack_idtr (s : State) (n : Word) : (s.dropStack n).idtr = s.idtr := rfl
@[simp] theorem State.dropStack_ldtr (s : State) (n : Word) : (s.dropStack n).ldtr = s.ldtr := rfl
@[simp] theorem State.dropStack_tr (s : State) (n : Word) : (s.dropStack n).tr = s.tr := rfl
@[simp] theorem State.dropStack_run (s : State) (n : Word) : (s.dropStack n).run = s.run := rfl
@[simp] theorem State.dropStack_inhibit (s : State) (n : Word) : (s.dropStack n).inhibit = s.inhibit := rfl
@[simp] theorem State.dropStack_nmiInService (s : State) (n : Word) :
    (s.dropStack n).nmiInService = s.nmiInService := rfl
@[simp] theorem State.dropStack_nmiPending (s : State) (n : Word) : (s.dropStack n).nmiPending = s.nmiPending := rfl
@[simp] theorem State.dropStack_stepTrap (s : State) (n : Word) : (s.dropStack n).stepTrap = s.stepTrap := rfl
@[simp] theorem State.dropStack_overrunPending (s : State) (n : Word) :
    (s.dropStack n).overrunPending = s.overrunPending := rfl
@[simp] theorem State.dropStack_npxPresent (s : State) (n : Word) : (s.dropStack n).npxPresent = s.npxPresent := rfl
@[simp] theorem State.dropStack_npx (s : State) (n : Word) : (s.dropStack n).npx = s.npx := rfl
@[simp] theorem State.dropStack_pendingExc (s : State) (n : Word) : (s.dropStack n).pendingExc = s.pendingExc := rfl
@[simp] theorem State.dropStack_fetch (s : State) (n : Word) : (s.dropStack n).fetch = s.fetch := rfl
@[simp] theorem State.dropStack_inst (s : State) (n : Word) : (s.dropStack n).inst = s.inst := rfl
@[simp] theorem State.dropStack_mem (s : State) (n : Word) : (s.dropStack n).mem = s.mem := rfl
@[simp] theorem State.dropStack_writes (s : State) (n : Word) : (s.dropStack n).writes = s.writes := rfl
@[simp] theorem State.dropStack_bus (s : State) (n : Word) : (s.dropStack n).bus = s.bus := rfl
@[simp] theorem State.dropStack_platform (s : State) (n : Word) : (s.dropStack n).platform = s.platform := rfl
@[simp] theorem State.dropStack_pins (s : State) (n : Word) : (s.dropStack n).pins = s.pins := rfl
@[simp] theorem State.dropStack_env (s : State) (n : Word) : (s.dropStack n).env = s.env := rfl
@[simp] theorem State.dropStack_out (s : State) (n : Word) : (s.dropStack n).out = s.out := rfl
@[simp] theorem State.dropStack_draws (s : State) (n : Word) : (s.dropStack n).draws = s.draws := rfl

/-! ### `State.jumpTo` -/

@[simp] theorem State.jumpTo_regs (s : State) (off : Word) : (s.jumpTo off).regs = s.regs := rfl
@[simp] theorem State.jumpTo_ip (s : State) (off : Word) : (s.jumpTo off).ip = off := rfl
@[simp] theorem State.jumpTo_flags (s : State) (off : Word) : (s.jumpTo off).flags = s.flags := rfl
@[simp] theorem State.jumpTo_msw (s : State) (off : Word) : (s.jumpTo off).msw = s.msw := rfl
@[simp] theorem State.jumpTo_es (s : State) (off : Word) : (s.jumpTo off).es = s.es := rfl
@[simp] theorem State.jumpTo_cs (s : State) (off : Word) : (s.jumpTo off).cs = s.cs := rfl
@[simp] theorem State.jumpTo_ss (s : State) (off : Word) : (s.jumpTo off).ss = s.ss := rfl
@[simp] theorem State.jumpTo_ds (s : State) (off : Word) : (s.jumpTo off).ds = s.ds := rfl
@[simp] theorem State.jumpTo_gdtr (s : State) (off : Word) : (s.jumpTo off).gdtr = s.gdtr := rfl
@[simp] theorem State.jumpTo_idtr (s : State) (off : Word) : (s.jumpTo off).idtr = s.idtr := rfl
@[simp] theorem State.jumpTo_ldtr (s : State) (off : Word) : (s.jumpTo off).ldtr = s.ldtr := rfl
@[simp] theorem State.jumpTo_tr (s : State) (off : Word) : (s.jumpTo off).tr = s.tr := rfl
@[simp] theorem State.jumpTo_run (s : State) (off : Word) : (s.jumpTo off).run = s.run := rfl
@[simp] theorem State.jumpTo_inhibit (s : State) (off : Word) : (s.jumpTo off).inhibit = s.inhibit := rfl
@[simp] theorem State.jumpTo_nmiInService (s : State) (off : Word) :
    (s.jumpTo off).nmiInService = s.nmiInService := rfl
@[simp] theorem State.jumpTo_nmiPending (s : State) (off : Word) : (s.jumpTo off).nmiPending = s.nmiPending := rfl
@[simp] theorem State.jumpTo_stepTrap (s : State) (off : Word) : (s.jumpTo off).stepTrap = s.stepTrap := rfl
@[simp] theorem State.jumpTo_overrunPending (s : State) (off : Word) :
    (s.jumpTo off).overrunPending = s.overrunPending := rfl
@[simp] theorem State.jumpTo_npxPresent (s : State) (off : Word) : (s.jumpTo off).npxPresent = s.npxPresent := rfl
@[simp] theorem State.jumpTo_npx (s : State) (off : Word) : (s.jumpTo off).npx = s.npx := rfl
@[simp] theorem State.jumpTo_pendingExc (s : State) (off : Word) : (s.jumpTo off).pendingExc = s.pendingExc := rfl
@[simp] theorem State.jumpTo_fetch (s : State) (off : Word) : (s.jumpTo off).fetch = FetchState.empty := rfl
@[simp] theorem State.jumpTo_inst (s : State) (off : Word) : (s.jumpTo off).inst = s.inst := rfl
@[simp] theorem State.jumpTo_mem (s : State) (off : Word) : (s.jumpTo off).mem = s.mem := rfl
@[simp] theorem State.jumpTo_writes (s : State) (off : Word) : (s.jumpTo off).writes = s.writes := rfl
@[simp] theorem State.jumpTo_bus (s : State) (off : Word) : (s.jumpTo off).bus = s.bus := rfl
@[simp] theorem State.jumpTo_platform (s : State) (off : Word) : (s.jumpTo off).platform = s.platform := rfl
@[simp] theorem State.jumpTo_pins (s : State) (off : Word) : (s.jumpTo off).pins = s.pins := rfl
@[simp] theorem State.jumpTo_env (s : State) (off : Word) : (s.jumpTo off).env = s.env := rfl
@[simp] theorem State.jumpTo_out (s : State) (off : Word) : (s.jumpTo off).out = s.out := rfl
@[simp] theorem State.jumpTo_draws (s : State) (off : Word) : (s.jumpTo off).draws = s.draws := rfl

/-! ### `State.enterReal` -/

@[simp] theorem State.enterReal_regs (s : State) (sel off : Word) : (s.enterReal sel off).regs = s.regs := rfl
@[simp] theorem State.enterReal_ip (s : State) (sel off : Word) : (s.enterReal sel off).ip = off := rfl
@[simp] theorem State.enterReal_flags (s : State) (sel off : Word) : (s.enterReal sel off).flags = s.flags := rfl
@[simp] theorem State.enterReal_msw (s : State) (sel off : Word) : (s.enterReal sel off).msw = s.msw := rfl
@[simp] theorem State.enterReal_es (s : State) (sel off : Word) : (s.enterReal sel off).es = s.es := rfl
@[simp] theorem State.enterReal_cs (s : State) (sel off : Word) : (s.enterReal sel off).cs = Segment.ofReal sel := rfl
@[simp] theorem State.enterReal_ss (s : State) (sel off : Word) : (s.enterReal sel off).ss = s.ss := rfl
@[simp] theorem State.enterReal_ds (s : State) (sel off : Word) : (s.enterReal sel off).ds = s.ds := rfl
@[simp] theorem State.enterReal_gdtr (s : State) (sel off : Word) : (s.enterReal sel off).gdtr = s.gdtr := rfl
@[simp] theorem State.enterReal_idtr (s : State) (sel off : Word) : (s.enterReal sel off).idtr = s.idtr := rfl
@[simp] theorem State.enterReal_ldtr (s : State) (sel off : Word) : (s.enterReal sel off).ldtr = s.ldtr := rfl
@[simp] theorem State.enterReal_tr (s : State) (sel off : Word) : (s.enterReal sel off).tr = s.tr := rfl
@[simp] theorem State.enterReal_run (s : State) (sel off : Word) : (s.enterReal sel off).run = s.run := rfl
@[simp] theorem State.enterReal_inhibit (s : State) (sel off : Word) :
    (s.enterReal sel off).inhibit = s.inhibit := rfl
@[simp] theorem State.enterReal_nmiInService (s : State) (sel off : Word) :
    (s.enterReal sel off).nmiInService = s.nmiInService := rfl
@[simp] theorem State.enterReal_nmiPending (s : State) (sel off : Word) :
    (s.enterReal sel off).nmiPending = s.nmiPending := rfl
@[simp] theorem State.enterReal_stepTrap (s : State) (sel off : Word) :
    (s.enterReal sel off).stepTrap = s.stepTrap := rfl
@[simp] theorem State.enterReal_overrunPending (s : State) (sel off : Word) :
    (s.enterReal sel off).overrunPending = s.overrunPending := rfl
@[simp] theorem State.enterReal_npxPresent (s : State) (sel off : Word) :
    (s.enterReal sel off).npxPresent = s.npxPresent := rfl
@[simp] theorem State.enterReal_npx (s : State) (sel off : Word) : (s.enterReal sel off).npx = s.npx := rfl
@[simp] theorem State.enterReal_pendingExc (s : State) (sel off : Word) :
    (s.enterReal sel off).pendingExc = s.pendingExc := rfl
@[simp] theorem State.enterReal_fetch (s : State) (sel off : Word) :
    (s.enterReal sel off).fetch = FetchState.empty := rfl
@[simp] theorem State.enterReal_inst (s : State) (sel off : Word) : (s.enterReal sel off).inst = s.inst := rfl
@[simp] theorem State.enterReal_mem (s : State) (sel off : Word) : (s.enterReal sel off).mem = s.mem := rfl
@[simp] theorem State.enterReal_writes (s : State) (sel off : Word) : (s.enterReal sel off).writes = s.writes := rfl
@[simp] theorem State.enterReal_bus (s : State) (sel off : Word) : (s.enterReal sel off).bus = s.bus := rfl
@[simp] theorem State.enterReal_platform (s : State) (sel off : Word) :
    (s.enterReal sel off).platform = s.platform := rfl
@[simp] theorem State.enterReal_pins (s : State) (sel off : Word) : (s.enterReal sel off).pins = s.pins := rfl
@[simp] theorem State.enterReal_env (s : State) (sel off : Word) : (s.enterReal sel off).env = s.env := rfl
@[simp] theorem State.enterReal_out (s : State) (sel off : Word) : (s.enterReal sel off).out = s.out := rfl
@[simp] theorem State.enterReal_draws (s : State) (sel off : Word) : (s.enterReal sel off).draws = s.draws := rfl

/-! ### `State.goOn` -/

@[simp] theorem State.goOn_regs (s : State) (p : Progress) : (s.goOn p).regs = s.regs := rfl
@[simp] theorem State.goOn_ip (s : State) (p : Progress) : (s.goOn p).ip = s.inst.ipInst := rfl
@[simp] theorem State.goOn_flags (s : State) (p : Progress) : (s.goOn p).flags = s.flags := rfl
@[simp] theorem State.goOn_msw (s : State) (p : Progress) : (s.goOn p).msw = s.msw := rfl
@[simp] theorem State.goOn_es (s : State) (p : Progress) : (s.goOn p).es = s.es := rfl
@[simp] theorem State.goOn_cs (s : State) (p : Progress) : (s.goOn p).cs = s.cs := rfl
@[simp] theorem State.goOn_ss (s : State) (p : Progress) : (s.goOn p).ss = s.ss := rfl
@[simp] theorem State.goOn_ds (s : State) (p : Progress) : (s.goOn p).ds = s.ds := rfl
@[simp] theorem State.goOn_gdtr (s : State) (p : Progress) : (s.goOn p).gdtr = s.gdtr := rfl
@[simp] theorem State.goOn_idtr (s : State) (p : Progress) : (s.goOn p).idtr = s.idtr := rfl
@[simp] theorem State.goOn_ldtr (s : State) (p : Progress) : (s.goOn p).ldtr = s.ldtr := rfl
@[simp] theorem State.goOn_tr (s : State) (p : Progress) : (s.goOn p).tr = s.tr := rfl
@[simp] theorem State.goOn_run (s : State) (p : Progress) : (s.goOn p).run = s.run := rfl
@[simp] theorem State.goOn_inhibit (s : State) (p : Progress) : (s.goOn p).inhibit = s.inhibit := rfl
@[simp] theorem State.goOn_nmiInService (s : State) (p : Progress) : (s.goOn p).nmiInService = s.nmiInService := rfl
@[simp] theorem State.goOn_nmiPending (s : State) (p : Progress) : (s.goOn p).nmiPending = s.nmiPending := rfl
@[simp] theorem State.goOn_stepTrap (s : State) (p : Progress) : (s.goOn p).stepTrap = s.stepTrap := rfl
@[simp] theorem State.goOn_overrunPending (s : State) (p : Progress) :
    (s.goOn p).overrunPending = s.overrunPending := rfl
@[simp] theorem State.goOn_npxPresent (s : State) (p : Progress) : (s.goOn p).npxPresent = s.npxPresent := rfl
@[simp] theorem State.goOn_npx (s : State) (p : Progress) : (s.goOn p).npx = s.npx := rfl
@[simp] theorem State.goOn_pendingExc (s : State) (p : Progress) : (s.goOn p).pendingExc = s.pendingExc := rfl
@[simp] theorem State.goOn_mem (s : State) (p : Progress) : (s.goOn p).mem = s.mem := rfl
@[simp] theorem State.goOn_writes (s : State) (p : Progress) : (s.goOn p).writes = s.writes := rfl
@[simp] theorem State.goOn_bus (s : State) (p : Progress) : (s.goOn p).bus = s.bus := rfl
@[simp] theorem State.goOn_platform (s : State) (p : Progress) : (s.goOn p).platform = s.platform := rfl
@[simp] theorem State.goOn_pins (s : State) (p : Progress) : (s.goOn p).pins = s.pins := rfl
@[simp] theorem State.goOn_env (s : State) (p : Progress) : (s.goOn p).env = s.env := rfl
@[simp] theorem State.goOn_out (s : State) (p : Progress) : (s.goOn p).out = s.out := rfl
@[simp] theorem State.goOn_draws (s : State) (p : Progress) : (s.goOn p).draws = s.draws := rfl

/-! ### `State.setTaskSwitched` -/

@[simp] theorem State.setTaskSwitched_regs (s : State) (b : Bool) : (s.setTaskSwitched b).regs = s.regs := rfl
@[simp] theorem State.setTaskSwitched_ip (s : State) (b : Bool) : (s.setTaskSwitched b).ip = s.ip := rfl
@[simp] theorem State.setTaskSwitched_flags (s : State) (b : Bool) : (s.setTaskSwitched b).flags = s.flags := rfl
@[simp] theorem State.setTaskSwitched_es (s : State) (b : Bool) : (s.setTaskSwitched b).es = s.es := rfl
@[simp] theorem State.setTaskSwitched_cs (s : State) (b : Bool) : (s.setTaskSwitched b).cs = s.cs := rfl
@[simp] theorem State.setTaskSwitched_ss (s : State) (b : Bool) : (s.setTaskSwitched b).ss = s.ss := rfl
@[simp] theorem State.setTaskSwitched_ds (s : State) (b : Bool) : (s.setTaskSwitched b).ds = s.ds := rfl
@[simp] theorem State.setTaskSwitched_gdtr (s : State) (b : Bool) : (s.setTaskSwitched b).gdtr = s.gdtr := rfl
@[simp] theorem State.setTaskSwitched_idtr (s : State) (b : Bool) : (s.setTaskSwitched b).idtr = s.idtr := rfl
@[simp] theorem State.setTaskSwitched_ldtr (s : State) (b : Bool) : (s.setTaskSwitched b).ldtr = s.ldtr := rfl
@[simp] theorem State.setTaskSwitched_tr (s : State) (b : Bool) : (s.setTaskSwitched b).tr = s.tr := rfl
@[simp] theorem State.setTaskSwitched_run (s : State) (b : Bool) : (s.setTaskSwitched b).run = s.run := rfl
@[simp] theorem State.setTaskSwitched_inhibit (s : State) (b : Bool) :
    (s.setTaskSwitched b).inhibit = s.inhibit := rfl
@[simp] theorem State.setTaskSwitched_nmiInService (s : State) (b : Bool) :
    (s.setTaskSwitched b).nmiInService = s.nmiInService := rfl
@[simp] theorem State.setTaskSwitched_nmiPending (s : State) (b : Bool) :
    (s.setTaskSwitched b).nmiPending = s.nmiPending := rfl
@[simp] theorem State.setTaskSwitched_stepTrap (s : State) (b : Bool) :
    (s.setTaskSwitched b).stepTrap = s.stepTrap := rfl
@[simp] theorem State.setTaskSwitched_overrunPending (s : State) (b : Bool) :
    (s.setTaskSwitched b).overrunPending = s.overrunPending := rfl
@[simp] theorem State.setTaskSwitched_npxPresent (s : State) (b : Bool) :
    (s.setTaskSwitched b).npxPresent = s.npxPresent := rfl
@[simp] theorem State.setTaskSwitched_npx (s : State) (b : Bool) : (s.setTaskSwitched b).npx = s.npx := rfl
@[simp] theorem State.setTaskSwitched_pendingExc (s : State) (b : Bool) :
    (s.setTaskSwitched b).pendingExc = s.pendingExc := rfl
@[simp] theorem State.setTaskSwitched_fetch (s : State) (b : Bool) : (s.setTaskSwitched b).fetch = s.fetch := rfl
@[simp] theorem State.setTaskSwitched_inst (s : State) (b : Bool) : (s.setTaskSwitched b).inst = s.inst := rfl
@[simp] theorem State.setTaskSwitched_mem (s : State) (b : Bool) : (s.setTaskSwitched b).mem = s.mem := rfl
@[simp] theorem State.setTaskSwitched_writes (s : State) (b : Bool) : (s.setTaskSwitched b).writes = s.writes := rfl
@[simp] theorem State.setTaskSwitched_bus (s : State) (b : Bool) : (s.setTaskSwitched b).bus = s.bus := rfl
@[simp] theorem State.setTaskSwitched_platform (s : State) (b : Bool) :
    (s.setTaskSwitched b).platform = s.platform := rfl
@[simp] theorem State.setTaskSwitched_pins (s : State) (b : Bool) : (s.setTaskSwitched b).pins = s.pins := rfl
@[simp] theorem State.setTaskSwitched_env (s : State) (b : Bool) : (s.setTaskSwitched b).env = s.env := rfl
@[simp] theorem State.setTaskSwitched_out (s : State) (b : Bool) : (s.setTaskSwitched b).out = s.out := rfl
@[simp] theorem State.setTaskSwitched_draws (s : State) (b : Bool) : (s.setTaskSwitched b).draws = s.draws := rfl

/-! ### `State.inhibitAll` -/

@[simp] theorem State.inhibitAll_regs (s : State) : (s.inhibitAll).regs = s.regs := rfl
@[simp] theorem State.inhibitAll_ip (s : State) : (s.inhibitAll).ip = s.ip := rfl
@[simp] theorem State.inhibitAll_flags (s : State) : (s.inhibitAll).flags = s.flags := rfl
@[simp] theorem State.inhibitAll_msw (s : State) : (s.inhibitAll).msw = s.msw := rfl
@[simp] theorem State.inhibitAll_es (s : State) : (s.inhibitAll).es = s.es := rfl
@[simp] theorem State.inhibitAll_cs (s : State) : (s.inhibitAll).cs = s.cs := rfl
@[simp] theorem State.inhibitAll_ss (s : State) : (s.inhibitAll).ss = s.ss := rfl
@[simp] theorem State.inhibitAll_ds (s : State) : (s.inhibitAll).ds = s.ds := rfl
@[simp] theorem State.inhibitAll_gdtr (s : State) : (s.inhibitAll).gdtr = s.gdtr := rfl
@[simp] theorem State.inhibitAll_idtr (s : State) : (s.inhibitAll).idtr = s.idtr := rfl
@[simp] theorem State.inhibitAll_ldtr (s : State) : (s.inhibitAll).ldtr = s.ldtr := rfl
@[simp] theorem State.inhibitAll_tr (s : State) : (s.inhibitAll).tr = s.tr := rfl
@[simp] theorem State.inhibitAll_run (s : State) : (s.inhibitAll).run = s.run := rfl
@[simp] theorem State.inhibitAll_inhibit (s : State) : (s.inhibitAll).inhibit = .all := rfl
@[simp] theorem State.inhibitAll_nmiInService (s : State) : (s.inhibitAll).nmiInService = s.nmiInService := rfl
@[simp] theorem State.inhibitAll_nmiPending (s : State) : (s.inhibitAll).nmiPending = s.nmiPending := rfl
@[simp] theorem State.inhibitAll_stepTrap (s : State) : (s.inhibitAll).stepTrap = s.stepTrap := rfl
@[simp] theorem State.inhibitAll_overrunPending (s : State) : (s.inhibitAll).overrunPending = s.overrunPending := rfl
@[simp] theorem State.inhibitAll_npxPresent (s : State) : (s.inhibitAll).npxPresent = s.npxPresent := rfl
@[simp] theorem State.inhibitAll_npx (s : State) : (s.inhibitAll).npx = s.npx := rfl
@[simp] theorem State.inhibitAll_pendingExc (s : State) : (s.inhibitAll).pendingExc = s.pendingExc := rfl
@[simp] theorem State.inhibitAll_fetch (s : State) : (s.inhibitAll).fetch = s.fetch := rfl
@[simp] theorem State.inhibitAll_inst (s : State) : (s.inhibitAll).inst = s.inst := rfl
@[simp] theorem State.inhibitAll_mem (s : State) : (s.inhibitAll).mem = s.mem := rfl
@[simp] theorem State.inhibitAll_writes (s : State) : (s.inhibitAll).writes = s.writes := rfl
@[simp] theorem State.inhibitAll_bus (s : State) : (s.inhibitAll).bus = s.bus := rfl
@[simp] theorem State.inhibitAll_platform (s : State) : (s.inhibitAll).platform = s.platform := rfl
@[simp] theorem State.inhibitAll_pins (s : State) : (s.inhibitAll).pins = s.pins := rfl
@[simp] theorem State.inhibitAll_env (s : State) : (s.inhibitAll).env = s.env := rfl
@[simp] theorem State.inhibitAll_out (s : State) : (s.inhibitAll).out = s.out := rfl
@[simp] theorem State.inhibitAll_draws (s : State) : (s.inhibitAll).draws = s.draws := rfl

/-! ### `State.taken` -/

@[simp] theorem State.taken_regs (s : State) : (s.taken).regs = s.regs := rfl
@[simp] theorem State.taken_ip (s : State) : (s.taken).ip = s.ip := rfl
@[simp] theorem State.taken_flags (s : State) : (s.taken).flags = s.flags := rfl
@[simp] theorem State.taken_msw (s : State) : (s.taken).msw = s.msw := rfl
@[simp] theorem State.taken_es (s : State) : (s.taken).es = s.es := rfl
@[simp] theorem State.taken_cs (s : State) : (s.taken).cs = s.cs := rfl
@[simp] theorem State.taken_ss (s : State) : (s.taken).ss = s.ss := rfl
@[simp] theorem State.taken_ds (s : State) : (s.taken).ds = s.ds := rfl
@[simp] theorem State.taken_gdtr (s : State) : (s.taken).gdtr = s.gdtr := rfl
@[simp] theorem State.taken_idtr (s : State) : (s.taken).idtr = s.idtr := rfl
@[simp] theorem State.taken_ldtr (s : State) : (s.taken).ldtr = s.ldtr := rfl
@[simp] theorem State.taken_tr (s : State) : (s.taken).tr = s.tr := rfl
@[simp] theorem State.taken_run (s : State) : (s.taken).run = s.run := rfl
@[simp] theorem State.taken_inhibit (s : State) : (s.taken).inhibit = s.inhibit := rfl
@[simp] theorem State.taken_nmiInService (s : State) : (s.taken).nmiInService = s.nmiInService := rfl
@[simp] theorem State.taken_nmiPending (s : State) : (s.taken).nmiPending = s.nmiPending := rfl
@[simp] theorem State.taken_stepTrap (s : State) : (s.taken).stepTrap = s.stepTrap := rfl
@[simp] theorem State.taken_overrunPending (s : State) : (s.taken).overrunPending = s.overrunPending := rfl
@[simp] theorem State.taken_npxPresent (s : State) : (s.taken).npxPresent = s.npxPresent := rfl
@[simp] theorem State.taken_npx (s : State) : (s.taken).npx = s.npx := rfl
@[simp] theorem State.taken_pendingExc (s : State) : (s.taken).pendingExc = s.pendingExc := rfl
@[simp] theorem State.taken_fetch (s : State) : (s.taken).fetch = s.fetch := rfl
@[simp] theorem State.taken_mem (s : State) : (s.taken).mem = s.mem := rfl
@[simp] theorem State.taken_writes (s : State) : (s.taken).writes = s.writes := rfl
@[simp] theorem State.taken_bus (s : State) : (s.taken).bus = s.bus := rfl
@[simp] theorem State.taken_platform (s : State) : (s.taken).platform = s.platform := rfl
@[simp] theorem State.taken_pins (s : State) : (s.taken).pins = s.pins := rfl
@[simp] theorem State.taken_env (s : State) : (s.taken).env = s.env := rfl
@[simp] theorem State.taken_out (s : State) : (s.taken).out = s.out := rfl
@[simp] theorem State.taken_draws (s : State) : (s.taken).draws = s.draws := rfl

/-! ### `State.shutDown` -/

@[simp] theorem State.shutDown_regs (s : State) : (s.shutDown).regs = s.regs := rfl
@[simp] theorem State.shutDown_ip (s : State) : (s.shutDown).ip = s.ip := rfl
@[simp] theorem State.shutDown_flags (s : State) : (s.shutDown).flags = s.flags := rfl
@[simp] theorem State.shutDown_msw (s : State) : (s.shutDown).msw = s.msw := rfl
@[simp] theorem State.shutDown_es (s : State) : (s.shutDown).es = s.es := rfl
@[simp] theorem State.shutDown_cs (s : State) : (s.shutDown).cs = s.cs := rfl
@[simp] theorem State.shutDown_ss (s : State) : (s.shutDown).ss = s.ss := rfl
@[simp] theorem State.shutDown_ds (s : State) : (s.shutDown).ds = s.ds := rfl
@[simp] theorem State.shutDown_gdtr (s : State) : (s.shutDown).gdtr = s.gdtr := rfl
@[simp] theorem State.shutDown_idtr (s : State) : (s.shutDown).idtr = s.idtr := rfl
@[simp] theorem State.shutDown_ldtr (s : State) : (s.shutDown).ldtr = s.ldtr := rfl
@[simp] theorem State.shutDown_tr (s : State) : (s.shutDown).tr = s.tr := rfl
@[simp] theorem State.shutDown_run (s : State) : (s.shutDown).run = .shutdown := rfl
@[simp] theorem State.shutDown_inhibit (s : State) : (s.shutDown).inhibit = s.inhibit := rfl
@[simp] theorem State.shutDown_nmiInService (s : State) : (s.shutDown).nmiInService = s.nmiInService := rfl
@[simp] theorem State.shutDown_nmiPending (s : State) : (s.shutDown).nmiPending = s.nmiPending := rfl
@[simp] theorem State.shutDown_stepTrap (s : State) : (s.shutDown).stepTrap = false := rfl
@[simp] theorem State.shutDown_overrunPending (s : State) : (s.shutDown).overrunPending = s.overrunPending := rfl
@[simp] theorem State.shutDown_npxPresent (s : State) : (s.shutDown).npxPresent = s.npxPresent := rfl
@[simp] theorem State.shutDown_npx (s : State) : (s.shutDown).npx = s.npx := rfl
@[simp] theorem State.shutDown_pendingExc (s : State) : (s.shutDown).pendingExc = s.pendingExc := rfl
@[simp] theorem State.shutDown_fetch (s : State) : (s.shutDown).fetch = s.fetch := rfl
@[simp] theorem State.shutDown_inst (s : State) : (s.shutDown).inst = s.inst := rfl
@[simp] theorem State.shutDown_mem (s : State) : (s.shutDown).mem = s.mem := rfl
@[simp] theorem State.shutDown_writes (s : State) : (s.shutDown).writes = s.writes := rfl
@[simp] theorem State.shutDown_bus (s : State) : (s.shutDown).bus = s.bus := rfl
@[simp] theorem State.shutDown_platform (s : State) : (s.shutDown).platform = s.platform := rfl
@[simp] theorem State.shutDown_pins (s : State) : (s.shutDown).pins = s.pins := rfl
@[simp] theorem State.shutDown_env (s : State) : (s.shutDown).env = s.env := rfl
@[simp] theorem State.shutDown_out (s : State) : (s.shutDown).out = s.out := rfl
@[simp] theorem State.shutDown_draws (s : State) : (s.shutDown).draws = s.draws := rfl

/-! ### `State.unlocked` -/

@[simp] theorem State.unlocked_regs (s : State) : (s.unlocked).regs = s.regs := rfl
@[simp] theorem State.unlocked_ip (s : State) : (s.unlocked).ip = s.ip := rfl
@[simp] theorem State.unlocked_flags (s : State) : (s.unlocked).flags = s.flags := rfl
@[simp] theorem State.unlocked_msw (s : State) : (s.unlocked).msw = s.msw := rfl
@[simp] theorem State.unlocked_es (s : State) : (s.unlocked).es = s.es := rfl
@[simp] theorem State.unlocked_cs (s : State) : (s.unlocked).cs = s.cs := rfl
@[simp] theorem State.unlocked_ss (s : State) : (s.unlocked).ss = s.ss := rfl
@[simp] theorem State.unlocked_ds (s : State) : (s.unlocked).ds = s.ds := rfl
@[simp] theorem State.unlocked_gdtr (s : State) : (s.unlocked).gdtr = s.gdtr := rfl
@[simp] theorem State.unlocked_idtr (s : State) : (s.unlocked).idtr = s.idtr := rfl
@[simp] theorem State.unlocked_ldtr (s : State) : (s.unlocked).ldtr = s.ldtr := rfl
@[simp] theorem State.unlocked_tr (s : State) : (s.unlocked).tr = s.tr := rfl
@[simp] theorem State.unlocked_run (s : State) : (s.unlocked).run = s.run := rfl
@[simp] theorem State.unlocked_inhibit (s : State) : (s.unlocked).inhibit = s.inhibit := rfl
@[simp] theorem State.unlocked_nmiInService (s : State) : (s.unlocked).nmiInService = s.nmiInService := rfl
@[simp] theorem State.unlocked_nmiPending (s : State) : (s.unlocked).nmiPending = s.nmiPending := rfl
@[simp] theorem State.unlocked_stepTrap (s : State) : (s.unlocked).stepTrap = s.stepTrap := rfl
@[simp] theorem State.unlocked_overrunPending (s : State) : (s.unlocked).overrunPending = s.overrunPending := rfl
@[simp] theorem State.unlocked_npxPresent (s : State) : (s.unlocked).npxPresent = s.npxPresent := rfl
@[simp] theorem State.unlocked_npx (s : State) : (s.unlocked).npx = s.npx := rfl
@[simp] theorem State.unlocked_pendingExc (s : State) : (s.unlocked).pendingExc = s.pendingExc := rfl
@[simp] theorem State.unlocked_fetch (s : State) : (s.unlocked).fetch = s.fetch := rfl
@[simp] theorem State.unlocked_mem (s : State) : (s.unlocked).mem = s.mem := rfl
@[simp] theorem State.unlocked_writes (s : State) : (s.unlocked).writes = s.writes := rfl
@[simp] theorem State.unlocked_bus (s : State) : (s.unlocked).bus = s.bus := rfl
@[simp] theorem State.unlocked_platform (s : State) : (s.unlocked).platform = s.platform := rfl
@[simp] theorem State.unlocked_pins (s : State) : (s.unlocked).pins = s.pins := rfl
@[simp] theorem State.unlocked_env (s : State) : (s.unlocked).env = s.env := rfl
@[simp] theorem State.unlocked_out (s : State) : (s.unlocked).out = s.out := rfl
@[simp] theorem State.unlocked_draws (s : State) : (s.unlocked).draws = s.draws := rfl

/-! ### `State.leavePending` -/

@[simp] theorem State.leavePending_regs (s : State) (e : Exc) : (s.leavePending e).regs = s.regs := rfl
@[simp] theorem State.leavePending_ip (s : State) (e : Exc) : (s.leavePending e).ip = s.ip := rfl
@[simp] theorem State.leavePending_flags (s : State) (e : Exc) : (s.leavePending e).flags = s.flags := rfl
@[simp] theorem State.leavePending_msw (s : State) (e : Exc) : (s.leavePending e).msw = s.msw := rfl
@[simp] theorem State.leavePending_es (s : State) (e : Exc) : (s.leavePending e).es = s.es := rfl
@[simp] theorem State.leavePending_cs (s : State) (e : Exc) : (s.leavePending e).cs = s.cs := rfl
@[simp] theorem State.leavePending_ss (s : State) (e : Exc) : (s.leavePending e).ss = s.ss := rfl
@[simp] theorem State.leavePending_ds (s : State) (e : Exc) : (s.leavePending e).ds = s.ds := rfl
@[simp] theorem State.leavePending_gdtr (s : State) (e : Exc) : (s.leavePending e).gdtr = s.gdtr := rfl
@[simp] theorem State.leavePending_idtr (s : State) (e : Exc) : (s.leavePending e).idtr = s.idtr := rfl
@[simp] theorem State.leavePending_ldtr (s : State) (e : Exc) : (s.leavePending e).ldtr = s.ldtr := rfl
@[simp] theorem State.leavePending_tr (s : State) (e : Exc) : (s.leavePending e).tr = s.tr := rfl
@[simp] theorem State.leavePending_run (s : State) (e : Exc) : (s.leavePending e).run = s.run := rfl
@[simp] theorem State.leavePending_inhibit (s : State) (e : Exc) : (s.leavePending e).inhibit = s.inhibit := rfl
@[simp] theorem State.leavePending_nmiInService (s : State) (e : Exc) :
    (s.leavePending e).nmiInService = s.nmiInService := rfl
@[simp] theorem State.leavePending_nmiPending (s : State) (e : Exc) :
    (s.leavePending e).nmiPending = s.nmiPending := rfl
@[simp] theorem State.leavePending_stepTrap (s : State) (e : Exc) : (s.leavePending e).stepTrap = s.stepTrap := rfl
@[simp] theorem State.leavePending_overrunPending (s : State) (e : Exc) :
    (s.leavePending e).overrunPending = s.overrunPending := rfl
@[simp] theorem State.leavePending_npxPresent (s : State) (e : Exc) :
    (s.leavePending e).npxPresent = s.npxPresent := rfl
@[simp] theorem State.leavePending_npx (s : State) (e : Exc) : (s.leavePending e).npx = s.npx := rfl
@[simp] theorem State.leavePending_pendingExc (s : State) (e : Exc) : (s.leavePending e).pendingExc = some e := rfl
@[simp] theorem State.leavePending_fetch (s : State) (e : Exc) : (s.leavePending e).fetch = s.fetch := rfl
@[simp] theorem State.leavePending_inst (s : State) (e : Exc) : (s.leavePending e).inst = s.inst := rfl
@[simp] theorem State.leavePending_mem (s : State) (e : Exc) : (s.leavePending e).mem = s.mem := rfl
@[simp] theorem State.leavePending_writes (s : State) (e : Exc) : (s.leavePending e).writes = s.writes := rfl
@[simp] theorem State.leavePending_bus (s : State) (e : Exc) : (s.leavePending e).bus = s.bus := rfl
@[simp] theorem State.leavePending_platform (s : State) (e : Exc) : (s.leavePending e).platform = s.platform := rfl
@[simp] theorem State.leavePending_pins (s : State) (e : Exc) : (s.leavePending e).pins = s.pins := rfl
@[simp] theorem State.leavePending_env (s : State) (e : Exc) : (s.leavePending e).env = s.env := rfl
@[simp] theorem State.leavePending_out (s : State) (e : Exc) : (s.leavePending e).out = s.out := rfl
@[simp] theorem State.leavePending_draws (s : State) (e : Exc) : (s.leavePending e).draws = s.draws := rfl

/-! ### `State.endNmi` -/

@[simp] theorem State.endNmi_regs (s : State) : (s.endNmi).regs = s.regs := rfl
@[simp] theorem State.endNmi_ip (s : State) : (s.endNmi).ip = s.ip := rfl
@[simp] theorem State.endNmi_flags (s : State) : (s.endNmi).flags = s.flags := rfl
@[simp] theorem State.endNmi_msw (s : State) : (s.endNmi).msw = s.msw := rfl
@[simp] theorem State.endNmi_es (s : State) : (s.endNmi).es = s.es := rfl
@[simp] theorem State.endNmi_cs (s : State) : (s.endNmi).cs = s.cs := rfl
@[simp] theorem State.endNmi_ss (s : State) : (s.endNmi).ss = s.ss := rfl
@[simp] theorem State.endNmi_ds (s : State) : (s.endNmi).ds = s.ds := rfl
@[simp] theorem State.endNmi_gdtr (s : State) : (s.endNmi).gdtr = s.gdtr := rfl
@[simp] theorem State.endNmi_idtr (s : State) : (s.endNmi).idtr = s.idtr := rfl
@[simp] theorem State.endNmi_ldtr (s : State) : (s.endNmi).ldtr = s.ldtr := rfl
@[simp] theorem State.endNmi_tr (s : State) : (s.endNmi).tr = s.tr := rfl
@[simp] theorem State.endNmi_run (s : State) : (s.endNmi).run = s.run := rfl
@[simp] theorem State.endNmi_inhibit (s : State) : (s.endNmi).inhibit = s.inhibit := rfl
@[simp] theorem State.endNmi_nmiInService (s : State) : (s.endNmi).nmiInService = false := rfl
@[simp] theorem State.endNmi_nmiPending (s : State) : (s.endNmi).nmiPending = s.nmiPending := rfl
@[simp] theorem State.endNmi_stepTrap (s : State) : (s.endNmi).stepTrap = s.stepTrap := rfl
@[simp] theorem State.endNmi_overrunPending (s : State) : (s.endNmi).overrunPending = s.overrunPending := rfl
@[simp] theorem State.endNmi_npxPresent (s : State) : (s.endNmi).npxPresent = s.npxPresent := rfl
@[simp] theorem State.endNmi_npx (s : State) : (s.endNmi).npx = s.npx := rfl
@[simp] theorem State.endNmi_pendingExc (s : State) : (s.endNmi).pendingExc = s.pendingExc := rfl
@[simp] theorem State.endNmi_fetch (s : State) : (s.endNmi).fetch = s.fetch := rfl
@[simp] theorem State.endNmi_inst (s : State) : (s.endNmi).inst = s.inst := rfl
@[simp] theorem State.endNmi_mem (s : State) : (s.endNmi).mem = s.mem := rfl
@[simp] theorem State.endNmi_writes (s : State) : (s.endNmi).writes = s.writes := rfl
@[simp] theorem State.endNmi_bus (s : State) : (s.endNmi).bus = s.bus := rfl
@[simp] theorem State.endNmi_platform (s : State) : (s.endNmi).platform = s.platform := rfl
@[simp] theorem State.endNmi_pins (s : State) : (s.endNmi).pins = s.pins := rfl
@[simp] theorem State.endNmi_env (s : State) : (s.endNmi).env = s.env := rfl
@[simp] theorem State.endNmi_out (s : State) : (s.endNmi).out = s.out := rfl
@[simp] theorem State.endNmi_draws (s : State) : (s.endNmi).draws = s.draws := rfl

/-! ### `State.setRepeat` -/

@[simp] theorem State.setRepeat_regs (s : State) (p : Repeat) : (s.setRepeat p).regs = s.regs := rfl
@[simp] theorem State.setRepeat_ip (s : State) (p : Repeat) : (s.setRepeat p).ip = s.ip := rfl
@[simp] theorem State.setRepeat_flags (s : State) (p : Repeat) : (s.setRepeat p).flags = s.flags := rfl
@[simp] theorem State.setRepeat_msw (s : State) (p : Repeat) : (s.setRepeat p).msw = s.msw := rfl
@[simp] theorem State.setRepeat_es (s : State) (p : Repeat) : (s.setRepeat p).es = s.es := rfl
@[simp] theorem State.setRepeat_cs (s : State) (p : Repeat) : (s.setRepeat p).cs = s.cs := rfl
@[simp] theorem State.setRepeat_ss (s : State) (p : Repeat) : (s.setRepeat p).ss = s.ss := rfl
@[simp] theorem State.setRepeat_ds (s : State) (p : Repeat) : (s.setRepeat p).ds = s.ds := rfl
@[simp] theorem State.setRepeat_gdtr (s : State) (p : Repeat) : (s.setRepeat p).gdtr = s.gdtr := rfl
@[simp] theorem State.setRepeat_idtr (s : State) (p : Repeat) : (s.setRepeat p).idtr = s.idtr := rfl
@[simp] theorem State.setRepeat_ldtr (s : State) (p : Repeat) : (s.setRepeat p).ldtr = s.ldtr := rfl
@[simp] theorem State.setRepeat_tr (s : State) (p : Repeat) : (s.setRepeat p).tr = s.tr := rfl
@[simp] theorem State.setRepeat_run (s : State) (p : Repeat) : (s.setRepeat p).run = s.run := rfl
@[simp] theorem State.setRepeat_inhibit (s : State) (p : Repeat) : (s.setRepeat p).inhibit = s.inhibit := rfl
@[simp] theorem State.setRepeat_nmiInService (s : State) (p : Repeat) :
    (s.setRepeat p).nmiInService = s.nmiInService := rfl
@[simp] theorem State.setRepeat_nmiPending (s : State) (p : Repeat) : (s.setRepeat p).nmiPending = s.nmiPending := rfl
@[simp] theorem State.setRepeat_stepTrap (s : State) (p : Repeat) : (s.setRepeat p).stepTrap = s.stepTrap := rfl
@[simp] theorem State.setRepeat_overrunPending (s : State) (p : Repeat) :
    (s.setRepeat p).overrunPending = s.overrunPending := rfl
@[simp] theorem State.setRepeat_npxPresent (s : State) (p : Repeat) : (s.setRepeat p).npxPresent = s.npxPresent := rfl
@[simp] theorem State.setRepeat_npx (s : State) (p : Repeat) : (s.setRepeat p).npx = s.npx := rfl
@[simp] theorem State.setRepeat_pendingExc (s : State) (p : Repeat) : (s.setRepeat p).pendingExc = s.pendingExc := rfl
@[simp] theorem State.setRepeat_fetch (s : State) (p : Repeat) : (s.setRepeat p).fetch = s.fetch := rfl
@[simp] theorem State.setRepeat_mem (s : State) (p : Repeat) : (s.setRepeat p).mem = s.mem := rfl
@[simp] theorem State.setRepeat_writes (s : State) (p : Repeat) : (s.setRepeat p).writes = s.writes := rfl
@[simp] theorem State.setRepeat_bus (s : State) (p : Repeat) : (s.setRepeat p).bus = s.bus := rfl
@[simp] theorem State.setRepeat_platform (s : State) (p : Repeat) : (s.setRepeat p).platform = s.platform := rfl
@[simp] theorem State.setRepeat_pins (s : State) (p : Repeat) : (s.setRepeat p).pins = s.pins := rfl
@[simp] theorem State.setRepeat_env (s : State) (p : Repeat) : (s.setRepeat p).env = s.env := rfl
@[simp] theorem State.setRepeat_out (s : State) (p : Repeat) : (s.setRepeat p).out = s.out := rfl
@[simp] theorem State.setRepeat_draws (s : State) (p : Repeat) : (s.setRepeat p).draws = s.draws := rfl

/-! ### `State.putByte` -/

@[simp] theorem State.putByte_regs (s : State) (a : Nat) (v : Byte) : (s.putByte a v).regs = s.regs := rfl
@[simp] theorem State.putByte_ip (s : State) (a : Nat) (v : Byte) : (s.putByte a v).ip = s.ip := rfl
@[simp] theorem State.putByte_flags (s : State) (a : Nat) (v : Byte) : (s.putByte a v).flags = s.flags := rfl
@[simp] theorem State.putByte_msw (s : State) (a : Nat) (v : Byte) : (s.putByte a v).msw = s.msw := rfl
@[simp] theorem State.putByte_es (s : State) (a : Nat) (v : Byte) : (s.putByte a v).es = s.es := rfl
@[simp] theorem State.putByte_cs (s : State) (a : Nat) (v : Byte) : (s.putByte a v).cs = s.cs := rfl
@[simp] theorem State.putByte_ss (s : State) (a : Nat) (v : Byte) : (s.putByte a v).ss = s.ss := rfl
@[simp] theorem State.putByte_ds (s : State) (a : Nat) (v : Byte) : (s.putByte a v).ds = s.ds := rfl
@[simp] theorem State.putByte_gdtr (s : State) (a : Nat) (v : Byte) : (s.putByte a v).gdtr = s.gdtr := rfl
@[simp] theorem State.putByte_idtr (s : State) (a : Nat) (v : Byte) : (s.putByte a v).idtr = s.idtr := rfl
@[simp] theorem State.putByte_ldtr (s : State) (a : Nat) (v : Byte) : (s.putByte a v).ldtr = s.ldtr := rfl
@[simp] theorem State.putByte_tr (s : State) (a : Nat) (v : Byte) : (s.putByte a v).tr = s.tr := rfl
@[simp] theorem State.putByte_run (s : State) (a : Nat) (v : Byte) : (s.putByte a v).run = s.run := rfl
@[simp] theorem State.putByte_inhibit (s : State) (a : Nat) (v : Byte) : (s.putByte a v).inhibit = s.inhibit := rfl
@[simp] theorem State.putByte_nmiInService (s : State) (a : Nat) (v : Byte) :
    (s.putByte a v).nmiInService = s.nmiInService := rfl
@[simp] theorem State.putByte_nmiPending (s : State) (a : Nat) (v : Byte) :
    (s.putByte a v).nmiPending = s.nmiPending := rfl
@[simp] theorem State.putByte_stepTrap (s : State) (a : Nat) (v : Byte) : (s.putByte a v).stepTrap = s.stepTrap := rfl
@[simp] theorem State.putByte_overrunPending (s : State) (a : Nat) (v : Byte) :
    (s.putByte a v).overrunPending = s.overrunPending := rfl
@[simp] theorem State.putByte_npxPresent (s : State) (a : Nat) (v : Byte) :
    (s.putByte a v).npxPresent = s.npxPresent := rfl
@[simp] theorem State.putByte_npx (s : State) (a : Nat) (v : Byte) : (s.putByte a v).npx = s.npx := rfl
@[simp] theorem State.putByte_pendingExc (s : State) (a : Nat) (v : Byte) :
    (s.putByte a v).pendingExc = s.pendingExc := rfl
@[simp] theorem State.putByte_inst (s : State) (a : Nat) (v : Byte) : (s.putByte a v).inst = s.inst := rfl
@[simp] theorem State.putByte_bus (s : State) (a : Nat) (v : Byte) : (s.putByte a v).bus = s.bus := rfl
@[simp] theorem State.putByte_platform (s : State) (a : Nat) (v : Byte) : (s.putByte a v).platform = s.platform := rfl
@[simp] theorem State.putByte_pins (s : State) (a : Nat) (v : Byte) : (s.putByte a v).pins = s.pins := rfl
@[simp] theorem State.putByte_env (s : State) (a : Nat) (v : Byte) : (s.putByte a v).env = s.env := rfl
@[simp] theorem State.putByte_out (s : State) (a : Nat) (v : Byte) : (s.putByte a v).out = s.out := rfl
@[simp] theorem State.putByte_draws (s : State) (a : Nat) (v : Byte) : (s.putByte a v).draws = s.draws := rfl
@[simp] theorem State.putByte_lmswAt (s : State) (a : Nat) (v : Byte) :
    (s.putByte a v).fetch.lmswAt = s.fetch.lmswAt := by simp only [State.putByte, State.staleAfter]; split <;> rfl
@[simp] theorem State.putByte_wrapped (s : State) (a : Nat) (v : Byte) :
    (s.putByte a v).fetch.wrapped = s.fetch.wrapped := by simp only [State.putByte, State.staleAfter]; split <;> rfl

/-! ### `State.putWord` -/

@[simp] theorem State.putWord_regs (s : State) (a : Nat) (v : Word) : (s.putWord a v).regs = s.regs := rfl
@[simp] theorem State.putWord_ip (s : State) (a : Nat) (v : Word) : (s.putWord a v).ip = s.ip := rfl
@[simp] theorem State.putWord_flags (s : State) (a : Nat) (v : Word) : (s.putWord a v).flags = s.flags := rfl
@[simp] theorem State.putWord_msw (s : State) (a : Nat) (v : Word) : (s.putWord a v).msw = s.msw := rfl
@[simp] theorem State.putWord_es (s : State) (a : Nat) (v : Word) : (s.putWord a v).es = s.es := rfl
@[simp] theorem State.putWord_cs (s : State) (a : Nat) (v : Word) : (s.putWord a v).cs = s.cs := rfl
@[simp] theorem State.putWord_ss (s : State) (a : Nat) (v : Word) : (s.putWord a v).ss = s.ss := rfl
@[simp] theorem State.putWord_ds (s : State) (a : Nat) (v : Word) : (s.putWord a v).ds = s.ds := rfl
@[simp] theorem State.putWord_gdtr (s : State) (a : Nat) (v : Word) : (s.putWord a v).gdtr = s.gdtr := rfl
@[simp] theorem State.putWord_idtr (s : State) (a : Nat) (v : Word) : (s.putWord a v).idtr = s.idtr := rfl
@[simp] theorem State.putWord_ldtr (s : State) (a : Nat) (v : Word) : (s.putWord a v).ldtr = s.ldtr := rfl
@[simp] theorem State.putWord_tr (s : State) (a : Nat) (v : Word) : (s.putWord a v).tr = s.tr := rfl
@[simp] theorem State.putWord_run (s : State) (a : Nat) (v : Word) : (s.putWord a v).run = s.run := rfl
@[simp] theorem State.putWord_inhibit (s : State) (a : Nat) (v : Word) : (s.putWord a v).inhibit = s.inhibit := rfl
@[simp] theorem State.putWord_nmiInService (s : State) (a : Nat) (v : Word) :
    (s.putWord a v).nmiInService = s.nmiInService := rfl
@[simp] theorem State.putWord_nmiPending (s : State) (a : Nat) (v : Word) :
    (s.putWord a v).nmiPending = s.nmiPending := rfl
@[simp] theorem State.putWord_stepTrap (s : State) (a : Nat) (v : Word) : (s.putWord a v).stepTrap = s.stepTrap := rfl
@[simp] theorem State.putWord_overrunPending (s : State) (a : Nat) (v : Word) :
    (s.putWord a v).overrunPending = s.overrunPending := rfl
@[simp] theorem State.putWord_npxPresent (s : State) (a : Nat) (v : Word) :
    (s.putWord a v).npxPresent = s.npxPresent := rfl
@[simp] theorem State.putWord_npx (s : State) (a : Nat) (v : Word) : (s.putWord a v).npx = s.npx := rfl
@[simp] theorem State.putWord_pendingExc (s : State) (a : Nat) (v : Word) :
    (s.putWord a v).pendingExc = s.pendingExc := rfl
@[simp] theorem State.putWord_inst (s : State) (a : Nat) (v : Word) : (s.putWord a v).inst = s.inst := rfl
@[simp] theorem State.putWord_bus (s : State) (a : Nat) (v : Word) : (s.putWord a v).bus = s.bus := rfl
@[simp] theorem State.putWord_platform (s : State) (a : Nat) (v : Word) : (s.putWord a v).platform = s.platform := rfl
@[simp] theorem State.putWord_pins (s : State) (a : Nat) (v : Word) : (s.putWord a v).pins = s.pins := rfl
@[simp] theorem State.putWord_env (s : State) (a : Nat) (v : Word) : (s.putWord a v).env = s.env := rfl
@[simp] theorem State.putWord_out (s : State) (a : Nat) (v : Word) : (s.putWord a v).out = s.out := rfl
@[simp] theorem State.putWord_draws (s : State) (a : Nat) (v : Word) : (s.putWord a v).draws = s.draws := rfl
@[simp] theorem State.putWord_lmswAt (s : State) (a : Nat) (v : Word) :
    (s.putWord a v).fetch.lmswAt = s.fetch.lmswAt := by simp [State.putWord]
@[simp] theorem State.putWord_wrapped (s : State) (a : Nat) (v : Word) :
    (s.putWord a v).fetch.wrapped = s.fetch.wrapped := by simp [State.putWord]

/-! ### `State.store` -/

@[simp] theorem State.store_regs (s : State) (w : Width) (g : Segment) (off v : Word) :
    (s.store w g off v).regs = s.regs := by cases w <;> rfl
@[simp] theorem State.store_ip (s : State) (w : Width) (g : Segment) (off v : Word) :
    (s.store w g off v).ip = s.ip := by cases w <;> rfl
@[simp] theorem State.store_flags (s : State) (w : Width) (g : Segment) (off v : Word) :
    (s.store w g off v).flags = s.flags := by cases w <;> rfl
@[simp] theorem State.store_msw (s : State) (w : Width) (g : Segment) (off v : Word) :
    (s.store w g off v).msw = s.msw := by cases w <;> rfl
@[simp] theorem State.store_es (s : State) (w : Width) (g : Segment) (off v : Word) :
    (s.store w g off v).es = s.es := by cases w <;> rfl
@[simp] theorem State.store_cs (s : State) (w : Width) (g : Segment) (off v : Word) :
    (s.store w g off v).cs = s.cs := by cases w <;> rfl
@[simp] theorem State.store_ss (s : State) (w : Width) (g : Segment) (off v : Word) :
    (s.store w g off v).ss = s.ss := by cases w <;> rfl
@[simp] theorem State.store_ds (s : State) (w : Width) (g : Segment) (off v : Word) :
    (s.store w g off v).ds = s.ds := by cases w <;> rfl
@[simp] theorem State.store_gdtr (s : State) (w : Width) (g : Segment) (off v : Word) :
    (s.store w g off v).gdtr = s.gdtr := by cases w <;> rfl
@[simp] theorem State.store_idtr (s : State) (w : Width) (g : Segment) (off v : Word) :
    (s.store w g off v).idtr = s.idtr := by cases w <;> rfl
@[simp] theorem State.store_ldtr (s : State) (w : Width) (g : Segment) (off v : Word) :
    (s.store w g off v).ldtr = s.ldtr := by cases w <;> rfl
@[simp] theorem State.store_tr (s : State) (w : Width) (g : Segment) (off v : Word) :
    (s.store w g off v).tr = s.tr := by cases w <;> rfl
@[simp] theorem State.store_run (s : State) (w : Width) (g : Segment) (off v : Word) :
    (s.store w g off v).run = s.run := by cases w <;> rfl
@[simp] theorem State.store_inhibit (s : State) (w : Width) (g : Segment) (off v : Word) :
    (s.store w g off v).inhibit = s.inhibit := by cases w <;> rfl
@[simp] theorem State.store_nmiInService (s : State) (w : Width) (g : Segment) (off v : Word) :
    (s.store w g off v).nmiInService = s.nmiInService := by cases w <;> rfl
@[simp] theorem State.store_nmiPending (s : State) (w : Width) (g : Segment) (off v : Word) :
    (s.store w g off v).nmiPending = s.nmiPending := by cases w <;> rfl
@[simp] theorem State.store_stepTrap (s : State) (w : Width) (g : Segment) (off v : Word) :
    (s.store w g off v).stepTrap = s.stepTrap := by cases w <;> rfl
@[simp] theorem State.store_overrunPending (s : State) (w : Width) (g : Segment) (off v : Word) :
    (s.store w g off v).overrunPending = s.overrunPending := by cases w <;> rfl
@[simp] theorem State.store_npxPresent (s : State) (w : Width) (g : Segment) (off v : Word) :
    (s.store w g off v).npxPresent = s.npxPresent := by cases w <;> rfl
@[simp] theorem State.store_npx (s : State) (w : Width) (g : Segment) (off v : Word) :
    (s.store w g off v).npx = s.npx := by cases w <;> rfl
@[simp] theorem State.store_pendingExc (s : State) (w : Width) (g : Segment) (off v : Word) :
    (s.store w g off v).pendingExc = s.pendingExc := by cases w <;> rfl
@[simp] theorem State.store_inst (s : State) (w : Width) (g : Segment) (off v : Word) :
    (s.store w g off v).inst = s.inst := by cases w <;> rfl
@[simp] theorem State.store_bus (s : State) (w : Width) (g : Segment) (off v : Word) :
    (s.store w g off v).bus = s.bus := by cases w <;> rfl
@[simp] theorem State.store_platform (s : State) (w : Width) (g : Segment) (off v : Word) :
    (s.store w g off v).platform = s.platform := by cases w <;> rfl
@[simp] theorem State.store_pins (s : State) (w : Width) (g : Segment) (off v : Word) :
    (s.store w g off v).pins = s.pins := by cases w <;> rfl
@[simp] theorem State.store_env (s : State) (w : Width) (g : Segment) (off v : Word) :
    (s.store w g off v).env = s.env := by cases w <;> rfl
@[simp] theorem State.store_out (s : State) (w : Width) (g : Segment) (off v : Word) :
    (s.store w g off v).out = s.out := by cases w <;> rfl
@[simp] theorem State.store_draws (s : State) (w : Width) (g : Segment) (off v : Word) :
    (s.store w g off v).draws = s.draws := by cases w <;> rfl
@[simp] theorem State.store_lmswAt (s : State) (w : Width) (g : Segment) (off v : Word) :
    (s.store w g off v).fetch.lmswAt = s.fetch.lmswAt := by cases w <;> simp [State.store]
@[simp] theorem State.store_wrapped (s : State) (w : Width) (g : Segment) (off v : Word) :
    (s.store w g off v).fetch.wrapped = s.fetch.wrapped := by cases w <;> simp [State.store]

/-! ### `State.putStack` -/

@[simp] theorem State.putStack_regs (s : State) (off v : Word) : (s.putStack off v).regs = s.regs := rfl
@[simp] theorem State.putStack_ip (s : State) (off v : Word) : (s.putStack off v).ip = s.ip := rfl
@[simp] theorem State.putStack_flags (s : State) (off v : Word) : (s.putStack off v).flags = s.flags := rfl
@[simp] theorem State.putStack_msw (s : State) (off v : Word) : (s.putStack off v).msw = s.msw := rfl
@[simp] theorem State.putStack_es (s : State) (off v : Word) : (s.putStack off v).es = s.es := rfl
@[simp] theorem State.putStack_cs (s : State) (off v : Word) : (s.putStack off v).cs = s.cs := rfl
@[simp] theorem State.putStack_ss (s : State) (off v : Word) : (s.putStack off v).ss = s.ss := rfl
@[simp] theorem State.putStack_ds (s : State) (off v : Word) : (s.putStack off v).ds = s.ds := rfl
@[simp] theorem State.putStack_gdtr (s : State) (off v : Word) : (s.putStack off v).gdtr = s.gdtr := rfl
@[simp] theorem State.putStack_idtr (s : State) (off v : Word) : (s.putStack off v).idtr = s.idtr := rfl
@[simp] theorem State.putStack_ldtr (s : State) (off v : Word) : (s.putStack off v).ldtr = s.ldtr := rfl
@[simp] theorem State.putStack_tr (s : State) (off v : Word) : (s.putStack off v).tr = s.tr := rfl
@[simp] theorem State.putStack_run (s : State) (off v : Word) : (s.putStack off v).run = s.run := rfl
@[simp] theorem State.putStack_inhibit (s : State) (off v : Word) : (s.putStack off v).inhibit = s.inhibit := rfl
@[simp] theorem State.putStack_nmiInService (s : State) (off v : Word) :
    (s.putStack off v).nmiInService = s.nmiInService := rfl
@[simp] theorem State.putStack_nmiPending (s : State) (off v : Word) :
    (s.putStack off v).nmiPending = s.nmiPending := rfl
@[simp] theorem State.putStack_stepTrap (s : State) (off v : Word) : (s.putStack off v).stepTrap = s.stepTrap := rfl
@[simp] theorem State.putStack_overrunPending (s : State) (off v : Word) :
    (s.putStack off v).overrunPending = s.overrunPending := rfl
@[simp] theorem State.putStack_npxPresent (s : State) (off v : Word) :
    (s.putStack off v).npxPresent = s.npxPresent := rfl
@[simp] theorem State.putStack_npx (s : State) (off v : Word) : (s.putStack off v).npx = s.npx := rfl
@[simp] theorem State.putStack_pendingExc (s : State) (off v : Word) :
    (s.putStack off v).pendingExc = s.pendingExc := rfl
@[simp] theorem State.putStack_inst (s : State) (off v : Word) : (s.putStack off v).inst = s.inst := rfl
@[simp] theorem State.putStack_bus (s : State) (off v : Word) : (s.putStack off v).bus = s.bus := rfl
@[simp] theorem State.putStack_platform (s : State) (off v : Word) : (s.putStack off v).platform = s.platform := rfl
@[simp] theorem State.putStack_pins (s : State) (off v : Word) : (s.putStack off v).pins = s.pins := rfl
@[simp] theorem State.putStack_env (s : State) (off v : Word) : (s.putStack off v).env = s.env := rfl
@[simp] theorem State.putStack_out (s : State) (off v : Word) : (s.putStack off v).out = s.out := rfl
@[simp] theorem State.putStack_draws (s : State) (off v : Word) : (s.putStack off v).draws = s.draws := rfl
@[simp] theorem State.putStack_lmswAt (s : State) (off v : Word) :
    (s.putStack off v).fetch.lmswAt = s.fetch.lmswAt := by simp [State.putStack]
@[simp] theorem State.putStack_wrapped (s : State) (off v : Word) :
    (s.putStack off v).fetch.wrapped = s.fetch.wrapped := by simp [State.putStack]

/-! ### `State.markAccessed` -/

@[simp] theorem State.markAccessed_regs (s : State) (d : Desc) : (s.markAccessed d).regs = s.regs := rfl
@[simp] theorem State.markAccessed_ip (s : State) (d : Desc) : (s.markAccessed d).ip = s.ip := rfl
@[simp] theorem State.markAccessed_flags (s : State) (d : Desc) : (s.markAccessed d).flags = s.flags := rfl
@[simp] theorem State.markAccessed_msw (s : State) (d : Desc) : (s.markAccessed d).msw = s.msw := rfl
@[simp] theorem State.markAccessed_es (s : State) (d : Desc) : (s.markAccessed d).es = s.es := rfl
@[simp] theorem State.markAccessed_cs (s : State) (d : Desc) : (s.markAccessed d).cs = s.cs := rfl
@[simp] theorem State.markAccessed_ss (s : State) (d : Desc) : (s.markAccessed d).ss = s.ss := rfl
@[simp] theorem State.markAccessed_ds (s : State) (d : Desc) : (s.markAccessed d).ds = s.ds := rfl
@[simp] theorem State.markAccessed_gdtr (s : State) (d : Desc) : (s.markAccessed d).gdtr = s.gdtr := rfl
@[simp] theorem State.markAccessed_idtr (s : State) (d : Desc) : (s.markAccessed d).idtr = s.idtr := rfl
@[simp] theorem State.markAccessed_ldtr (s : State) (d : Desc) : (s.markAccessed d).ldtr = s.ldtr := rfl
@[simp] theorem State.markAccessed_tr (s : State) (d : Desc) : (s.markAccessed d).tr = s.tr := rfl
@[simp] theorem State.markAccessed_run (s : State) (d : Desc) : (s.markAccessed d).run = s.run := rfl
@[simp] theorem State.markAccessed_inhibit (s : State) (d : Desc) : (s.markAccessed d).inhibit = s.inhibit := rfl
@[simp] theorem State.markAccessed_nmiInService (s : State) (d : Desc) :
    (s.markAccessed d).nmiInService = s.nmiInService := rfl
@[simp] theorem State.markAccessed_nmiPending (s : State) (d : Desc) :
    (s.markAccessed d).nmiPending = s.nmiPending := rfl
@[simp] theorem State.markAccessed_stepTrap (s : State) (d : Desc) : (s.markAccessed d).stepTrap = s.stepTrap := rfl
@[simp] theorem State.markAccessed_overrunPending (s : State) (d : Desc) :
    (s.markAccessed d).overrunPending = s.overrunPending := rfl
@[simp] theorem State.markAccessed_npxPresent (s : State) (d : Desc) :
    (s.markAccessed d).npxPresent = s.npxPresent := rfl
@[simp] theorem State.markAccessed_npx (s : State) (d : Desc) : (s.markAccessed d).npx = s.npx := rfl
@[simp] theorem State.markAccessed_pendingExc (s : State) (d : Desc) :
    (s.markAccessed d).pendingExc = s.pendingExc := rfl
@[simp] theorem State.markAccessed_inst (s : State) (d : Desc) : (s.markAccessed d).inst = s.inst := rfl
@[simp] theorem State.markAccessed_bus (s : State) (d : Desc) : (s.markAccessed d).bus = s.bus := rfl
@[simp] theorem State.markAccessed_platform (s : State) (d : Desc) : (s.markAccessed d).platform = s.platform := rfl
@[simp] theorem State.markAccessed_pins (s : State) (d : Desc) : (s.markAccessed d).pins = s.pins := rfl
@[simp] theorem State.markAccessed_env (s : State) (d : Desc) : (s.markAccessed d).env = s.env := rfl
@[simp] theorem State.markAccessed_out (s : State) (d : Desc) : (s.markAccessed d).out = s.out := rfl
@[simp] theorem State.markAccessed_draws (s : State) (d : Desc) : (s.markAccessed d).draws = s.draws := rfl
@[simp] theorem State.markAccessed_lmswAt (s : State) (d : Desc) :
    (s.markAccessed d).fetch.lmswAt = s.fetch.lmswAt := by simp [State.markAccessed]
@[simp] theorem State.markAccessed_wrapped (s : State) (d : Desc) :
    (s.markAccessed d).fetch.wrapped = s.fetch.wrapped := by simp [State.markAccessed]

/-! ### `State.setBusy` -/

@[simp] theorem State.setBusy_regs (s : State) (sel : Word) (b : Bool) : (s.setBusy sel b).regs = s.regs := rfl
@[simp] theorem State.setBusy_ip (s : State) (sel : Word) (b : Bool) : (s.setBusy sel b).ip = s.ip := rfl
@[simp] theorem State.setBusy_flags (s : State) (sel : Word) (b : Bool) : (s.setBusy sel b).flags = s.flags := rfl
@[simp] theorem State.setBusy_msw (s : State) (sel : Word) (b : Bool) : (s.setBusy sel b).msw = s.msw := rfl
@[simp] theorem State.setBusy_es (s : State) (sel : Word) (b : Bool) : (s.setBusy sel b).es = s.es := rfl
@[simp] theorem State.setBusy_cs (s : State) (sel : Word) (b : Bool) : (s.setBusy sel b).cs = s.cs := rfl
@[simp] theorem State.setBusy_ss (s : State) (sel : Word) (b : Bool) : (s.setBusy sel b).ss = s.ss := rfl
@[simp] theorem State.setBusy_ds (s : State) (sel : Word) (b : Bool) : (s.setBusy sel b).ds = s.ds := rfl
@[simp] theorem State.setBusy_gdtr (s : State) (sel : Word) (b : Bool) : (s.setBusy sel b).gdtr = s.gdtr := rfl
@[simp] theorem State.setBusy_idtr (s : State) (sel : Word) (b : Bool) : (s.setBusy sel b).idtr = s.idtr := rfl
@[simp] theorem State.setBusy_ldtr (s : State) (sel : Word) (b : Bool) : (s.setBusy sel b).ldtr = s.ldtr := rfl
@[simp] theorem State.setBusy_tr (s : State) (sel : Word) (b : Bool) : (s.setBusy sel b).tr = s.tr := rfl
@[simp] theorem State.setBusy_run (s : State) (sel : Word) (b : Bool) : (s.setBusy sel b).run = s.run := rfl
@[simp] theorem State.setBusy_inhibit (s : State) (sel : Word) (b : Bool) :
    (s.setBusy sel b).inhibit = s.inhibit := rfl
@[simp] theorem State.setBusy_nmiInService (s : State) (sel : Word) (b : Bool) :
    (s.setBusy sel b).nmiInService = s.nmiInService := rfl
@[simp] theorem State.setBusy_nmiPending (s : State) (sel : Word) (b : Bool) :
    (s.setBusy sel b).nmiPending = s.nmiPending := rfl
@[simp] theorem State.setBusy_stepTrap (s : State) (sel : Word) (b : Bool) :
    (s.setBusy sel b).stepTrap = s.stepTrap := rfl
@[simp] theorem State.setBusy_overrunPending (s : State) (sel : Word) (b : Bool) :
    (s.setBusy sel b).overrunPending = s.overrunPending := rfl
@[simp] theorem State.setBusy_npxPresent (s : State) (sel : Word) (b : Bool) :
    (s.setBusy sel b).npxPresent = s.npxPresent := rfl
@[simp] theorem State.setBusy_npx (s : State) (sel : Word) (b : Bool) : (s.setBusy sel b).npx = s.npx := rfl
@[simp] theorem State.setBusy_pendingExc (s : State) (sel : Word) (b : Bool) :
    (s.setBusy sel b).pendingExc = s.pendingExc := rfl
@[simp] theorem State.setBusy_inst (s : State) (sel : Word) (b : Bool) : (s.setBusy sel b).inst = s.inst := rfl
@[simp] theorem State.setBusy_bus (s : State) (sel : Word) (b : Bool) : (s.setBusy sel b).bus = s.bus := rfl
@[simp] theorem State.setBusy_platform (s : State) (sel : Word) (b : Bool) :
    (s.setBusy sel b).platform = s.platform := rfl
@[simp] theorem State.setBusy_pins (s : State) (sel : Word) (b : Bool) : (s.setBusy sel b).pins = s.pins := rfl
@[simp] theorem State.setBusy_env (s : State) (sel : Word) (b : Bool) : (s.setBusy sel b).env = s.env := rfl
@[simp] theorem State.setBusy_out (s : State) (sel : Word) (b : Bool) : (s.setBusy sel b).out = s.out := rfl
@[simp] theorem State.setBusy_draws (s : State) (sel : Word) (b : Bool) : (s.setBusy sel b).draws = s.draws := rfl
@[simp] theorem State.setBusy_lmswAt (s : State) (sel : Word) (b : Bool) :
    (s.setBusy sel b).fetch.lmswAt = s.fetch.lmswAt := by simp [State.setBusy]
@[simp] theorem State.setBusy_wrapped (s : State) (sel : Word) (b : Bool) :
    (s.setBusy sel b).fetch.wrapped = s.fetch.wrapped := by simp [State.setBusy]

/-! ### `State.aluFlags` -/

@[simp] theorem State.aluFlags_regs (s : State) (op : AluOp) (w : Width) (a b : Word) :
    (s.aluFlags op w a b).regs = s.regs := rfl
@[simp] theorem State.aluFlags_ip (s : State) (op : AluOp) (w : Width) (a b : Word) :
    (s.aluFlags op w a b).ip = s.ip := rfl
@[simp] theorem State.aluFlags_flags (s : State) (op : AluOp) (w : Width) (a b : Word) :
    (s.aluFlags op w a b).flags = op.flags s.flags w a b (s.freeBit 0) := rfl
@[simp] theorem State.aluFlags_msw (s : State) (op : AluOp) (w : Width) (a b : Word) :
    (s.aluFlags op w a b).msw = s.msw := rfl
@[simp] theorem State.aluFlags_es (s : State) (op : AluOp) (w : Width) (a b : Word) :
    (s.aluFlags op w a b).es = s.es := rfl
@[simp] theorem State.aluFlags_cs (s : State) (op : AluOp) (w : Width) (a b : Word) :
    (s.aluFlags op w a b).cs = s.cs := rfl
@[simp] theorem State.aluFlags_ss (s : State) (op : AluOp) (w : Width) (a b : Word) :
    (s.aluFlags op w a b).ss = s.ss := rfl
@[simp] theorem State.aluFlags_ds (s : State) (op : AluOp) (w : Width) (a b : Word) :
    (s.aluFlags op w a b).ds = s.ds := rfl
@[simp] theorem State.aluFlags_gdtr (s : State) (op : AluOp) (w : Width) (a b : Word) :
    (s.aluFlags op w a b).gdtr = s.gdtr := rfl
@[simp] theorem State.aluFlags_idtr (s : State) (op : AluOp) (w : Width) (a b : Word) :
    (s.aluFlags op w a b).idtr = s.idtr := rfl
@[simp] theorem State.aluFlags_ldtr (s : State) (op : AluOp) (w : Width) (a b : Word) :
    (s.aluFlags op w a b).ldtr = s.ldtr := rfl
@[simp] theorem State.aluFlags_tr (s : State) (op : AluOp) (w : Width) (a b : Word) :
    (s.aluFlags op w a b).tr = s.tr := rfl
@[simp] theorem State.aluFlags_run (s : State) (op : AluOp) (w : Width) (a b : Word) :
    (s.aluFlags op w a b).run = s.run := rfl
@[simp] theorem State.aluFlags_inhibit (s : State) (op : AluOp) (w : Width) (a b : Word) :
    (s.aluFlags op w a b).inhibit = s.inhibit := rfl
@[simp] theorem State.aluFlags_nmiInService (s : State) (op : AluOp) (w : Width) (a b : Word) :
    (s.aluFlags op w a b).nmiInService = s.nmiInService := rfl
@[simp] theorem State.aluFlags_nmiPending (s : State) (op : AluOp) (w : Width) (a b : Word) :
    (s.aluFlags op w a b).nmiPending = s.nmiPending := rfl
@[simp] theorem State.aluFlags_stepTrap (s : State) (op : AluOp) (w : Width) (a b : Word) :
    (s.aluFlags op w a b).stepTrap = s.stepTrap := rfl
@[simp] theorem State.aluFlags_overrunPending (s : State) (op : AluOp) (w : Width) (a b : Word) :
    (s.aluFlags op w a b).overrunPending = s.overrunPending := rfl
@[simp] theorem State.aluFlags_npxPresent (s : State) (op : AluOp) (w : Width) (a b : Word) :
    (s.aluFlags op w a b).npxPresent = s.npxPresent := rfl
@[simp] theorem State.aluFlags_npx (s : State) (op : AluOp) (w : Width) (a b : Word) :
    (s.aluFlags op w a b).npx = s.npx := rfl
@[simp] theorem State.aluFlags_pendingExc (s : State) (op : AluOp) (w : Width) (a b : Word) :
    (s.aluFlags op w a b).pendingExc = s.pendingExc := rfl
@[simp] theorem State.aluFlags_fetch (s : State) (op : AluOp) (w : Width) (a b : Word) :
    (s.aluFlags op w a b).fetch = s.fetch := rfl
@[simp] theorem State.aluFlags_inst (s : State) (op : AluOp) (w : Width) (a b : Word) :
    (s.aluFlags op w a b).inst = s.inst := rfl
@[simp] theorem State.aluFlags_mem (s : State) (op : AluOp) (w : Width) (a b : Word) :
    (s.aluFlags op w a b).mem = s.mem := rfl
@[simp] theorem State.aluFlags_writes (s : State) (op : AluOp) (w : Width) (a b : Word) :
    (s.aluFlags op w a b).writes = s.writes := rfl
@[simp] theorem State.aluFlags_bus (s : State) (op : AluOp) (w : Width) (a b : Word) :
    (s.aluFlags op w a b).bus = s.bus := rfl
@[simp] theorem State.aluFlags_platform (s : State) (op : AluOp) (w : Width) (a b : Word) :
    (s.aluFlags op w a b).platform = s.platform := rfl
@[simp] theorem State.aluFlags_pins (s : State) (op : AluOp) (w : Width) (a b : Word) :
    (s.aluFlags op w a b).pins = s.pins := rfl
@[simp] theorem State.aluFlags_env (s : State) (op : AluOp) (w : Width) (a b : Word) :
    (s.aluFlags op w a b).env = s.env := rfl
@[simp] theorem State.aluFlags_out (s : State) (op : AluOp) (w : Width) (a b : Word) :
    (s.aluFlags op w a b).out = s.out := rfl

/-! ### `State.mulFlags` -/

@[simp] theorem State.mulFlags_regs (s : State) (b : Bool) : (s.mulFlags b).regs = s.regs := rfl
@[simp] theorem State.mulFlags_ip (s : State) (b : Bool) : (s.mulFlags b).ip = s.ip := rfl
@[simp] theorem State.mulFlags_msw (s : State) (b : Bool) : (s.mulFlags b).msw = s.msw := rfl
@[simp] theorem State.mulFlags_es (s : State) (b : Bool) : (s.mulFlags b).es = s.es := rfl
@[simp] theorem State.mulFlags_cs (s : State) (b : Bool) : (s.mulFlags b).cs = s.cs := rfl
@[simp] theorem State.mulFlags_ss (s : State) (b : Bool) : (s.mulFlags b).ss = s.ss := rfl
@[simp] theorem State.mulFlags_ds (s : State) (b : Bool) : (s.mulFlags b).ds = s.ds := rfl
@[simp] theorem State.mulFlags_gdtr (s : State) (b : Bool) : (s.mulFlags b).gdtr = s.gdtr := rfl
@[simp] theorem State.mulFlags_idtr (s : State) (b : Bool) : (s.mulFlags b).idtr = s.idtr := rfl
@[simp] theorem State.mulFlags_ldtr (s : State) (b : Bool) : (s.mulFlags b).ldtr = s.ldtr := rfl
@[simp] theorem State.mulFlags_tr (s : State) (b : Bool) : (s.mulFlags b).tr = s.tr := rfl
@[simp] theorem State.mulFlags_run (s : State) (b : Bool) : (s.mulFlags b).run = s.run := rfl
@[simp] theorem State.mulFlags_inhibit (s : State) (b : Bool) : (s.mulFlags b).inhibit = s.inhibit := rfl
@[simp] theorem State.mulFlags_nmiInService (s : State) (b : Bool) :
    (s.mulFlags b).nmiInService = s.nmiInService := rfl
@[simp] theorem State.mulFlags_nmiPending (s : State) (b : Bool) : (s.mulFlags b).nmiPending = s.nmiPending := rfl
@[simp] theorem State.mulFlags_stepTrap (s : State) (b : Bool) : (s.mulFlags b).stepTrap = s.stepTrap := rfl
@[simp] theorem State.mulFlags_overrunPending (s : State) (b : Bool) :
    (s.mulFlags b).overrunPending = s.overrunPending := rfl
@[simp] theorem State.mulFlags_npxPresent (s : State) (b : Bool) : (s.mulFlags b).npxPresent = s.npxPresent := rfl
@[simp] theorem State.mulFlags_npx (s : State) (b : Bool) : (s.mulFlags b).npx = s.npx := rfl
@[simp] theorem State.mulFlags_pendingExc (s : State) (b : Bool) : (s.mulFlags b).pendingExc = s.pendingExc := rfl
@[simp] theorem State.mulFlags_fetch (s : State) (b : Bool) : (s.mulFlags b).fetch = s.fetch := rfl
@[simp] theorem State.mulFlags_inst (s : State) (b : Bool) : (s.mulFlags b).inst = s.inst := rfl
@[simp] theorem State.mulFlags_mem (s : State) (b : Bool) : (s.mulFlags b).mem = s.mem := rfl
@[simp] theorem State.mulFlags_writes (s : State) (b : Bool) : (s.mulFlags b).writes = s.writes := rfl
@[simp] theorem State.mulFlags_bus (s : State) (b : Bool) : (s.mulFlags b).bus = s.bus := rfl
@[simp] theorem State.mulFlags_platform (s : State) (b : Bool) : (s.mulFlags b).platform = s.platform := rfl
@[simp] theorem State.mulFlags_pins (s : State) (b : Bool) : (s.mulFlags b).pins = s.pins := rfl
@[simp] theorem State.mulFlags_env (s : State) (b : Bool) : (s.mulFlags b).env = s.env := rfl
@[simp] theorem State.mulFlags_out (s : State) (b : Bool) : (s.mulFlags b).out = s.out := rfl

/-! ### `State.divFlags` -/

@[simp] theorem State.divFlags_regs (s : State) : (s.divFlags).regs = s.regs := rfl
@[simp] theorem State.divFlags_ip (s : State) : (s.divFlags).ip = s.ip := rfl
@[simp] theorem State.divFlags_msw (s : State) : (s.divFlags).msw = s.msw := rfl
@[simp] theorem State.divFlags_es (s : State) : (s.divFlags).es = s.es := rfl
@[simp] theorem State.divFlags_cs (s : State) : (s.divFlags).cs = s.cs := rfl
@[simp] theorem State.divFlags_ss (s : State) : (s.divFlags).ss = s.ss := rfl
@[simp] theorem State.divFlags_ds (s : State) : (s.divFlags).ds = s.ds := rfl
@[simp] theorem State.divFlags_gdtr (s : State) : (s.divFlags).gdtr = s.gdtr := rfl
@[simp] theorem State.divFlags_idtr (s : State) : (s.divFlags).idtr = s.idtr := rfl
@[simp] theorem State.divFlags_ldtr (s : State) : (s.divFlags).ldtr = s.ldtr := rfl
@[simp] theorem State.divFlags_tr (s : State) : (s.divFlags).tr = s.tr := rfl
@[simp] theorem State.divFlags_run (s : State) : (s.divFlags).run = s.run := rfl
@[simp] theorem State.divFlags_inhibit (s : State) : (s.divFlags).inhibit = s.inhibit := rfl
@[simp] theorem State.divFlags_nmiInService (s : State) : (s.divFlags).nmiInService = s.nmiInService := rfl
@[simp] theorem State.divFlags_nmiPending (s : State) : (s.divFlags).nmiPending = s.nmiPending := rfl
@[simp] theorem State.divFlags_stepTrap (s : State) : (s.divFlags).stepTrap = s.stepTrap := rfl
@[simp] theorem State.divFlags_overrunPending (s : State) : (s.divFlags).overrunPending = s.overrunPending := rfl
@[simp] theorem State.divFlags_npxPresent (s : State) : (s.divFlags).npxPresent = s.npxPresent := rfl
@[simp] theorem State.divFlags_npx (s : State) : (s.divFlags).npx = s.npx := rfl
@[simp] theorem State.divFlags_pendingExc (s : State) : (s.divFlags).pendingExc = s.pendingExc := rfl
@[simp] theorem State.divFlags_fetch (s : State) : (s.divFlags).fetch = s.fetch := rfl
@[simp] theorem State.divFlags_inst (s : State) : (s.divFlags).inst = s.inst := rfl
@[simp] theorem State.divFlags_mem (s : State) : (s.divFlags).mem = s.mem := rfl
@[simp] theorem State.divFlags_writes (s : State) : (s.divFlags).writes = s.writes := rfl
@[simp] theorem State.divFlags_bus (s : State) : (s.divFlags).bus = s.bus := rfl
@[simp] theorem State.divFlags_platform (s : State) : (s.divFlags).platform = s.platform := rfl
@[simp] theorem State.divFlags_pins (s : State) : (s.divFlags).pins = s.pins := rfl
@[simp] theorem State.divFlags_env (s : State) : (s.divFlags).env = s.env := rfl
@[simp] theorem State.divFlags_out (s : State) : (s.divFlags).out = s.out := rfl

/-! ### `State.asciiFlags` -/

@[simp] theorem State.asciiFlags_regs (s : State) (b : Bool) : (s.asciiFlags b).regs = s.regs := rfl
@[simp] theorem State.asciiFlags_ip (s : State) (b : Bool) : (s.asciiFlags b).ip = s.ip := rfl
@[simp] theorem State.asciiFlags_msw (s : State) (b : Bool) : (s.asciiFlags b).msw = s.msw := rfl
@[simp] theorem State.asciiFlags_es (s : State) (b : Bool) : (s.asciiFlags b).es = s.es := rfl
@[simp] theorem State.asciiFlags_cs (s : State) (b : Bool) : (s.asciiFlags b).cs = s.cs := rfl
@[simp] theorem State.asciiFlags_ss (s : State) (b : Bool) : (s.asciiFlags b).ss = s.ss := rfl
@[simp] theorem State.asciiFlags_ds (s : State) (b : Bool) : (s.asciiFlags b).ds = s.ds := rfl
@[simp] theorem State.asciiFlags_gdtr (s : State) (b : Bool) : (s.asciiFlags b).gdtr = s.gdtr := rfl
@[simp] theorem State.asciiFlags_idtr (s : State) (b : Bool) : (s.asciiFlags b).idtr = s.idtr := rfl
@[simp] theorem State.asciiFlags_ldtr (s : State) (b : Bool) : (s.asciiFlags b).ldtr = s.ldtr := rfl
@[simp] theorem State.asciiFlags_tr (s : State) (b : Bool) : (s.asciiFlags b).tr = s.tr := rfl
@[simp] theorem State.asciiFlags_run (s : State) (b : Bool) : (s.asciiFlags b).run = s.run := rfl
@[simp] theorem State.asciiFlags_inhibit (s : State) (b : Bool) : (s.asciiFlags b).inhibit = s.inhibit := rfl
@[simp] theorem State.asciiFlags_nmiInService (s : State) (b : Bool) :
    (s.asciiFlags b).nmiInService = s.nmiInService := rfl
@[simp] theorem State.asciiFlags_nmiPending (s : State) (b : Bool) : (s.asciiFlags b).nmiPending = s.nmiPending := rfl
@[simp] theorem State.asciiFlags_stepTrap (s : State) (b : Bool) : (s.asciiFlags b).stepTrap = s.stepTrap := rfl
@[simp] theorem State.asciiFlags_overrunPending (s : State) (b : Bool) :
    (s.asciiFlags b).overrunPending = s.overrunPending := rfl
@[simp] theorem State.asciiFlags_npxPresent (s : State) (b : Bool) : (s.asciiFlags b).npxPresent = s.npxPresent := rfl
@[simp] theorem State.asciiFlags_npx (s : State) (b : Bool) : (s.asciiFlags b).npx = s.npx := rfl
@[simp] theorem State.asciiFlags_pendingExc (s : State) (b : Bool) : (s.asciiFlags b).pendingExc = s.pendingExc := rfl
@[simp] theorem State.asciiFlags_fetch (s : State) (b : Bool) : (s.asciiFlags b).fetch = s.fetch := rfl
@[simp] theorem State.asciiFlags_inst (s : State) (b : Bool) : (s.asciiFlags b).inst = s.inst := rfl
@[simp] theorem State.asciiFlags_mem (s : State) (b : Bool) : (s.asciiFlags b).mem = s.mem := rfl
@[simp] theorem State.asciiFlags_writes (s : State) (b : Bool) : (s.asciiFlags b).writes = s.writes := rfl
@[simp] theorem State.asciiFlags_bus (s : State) (b : Bool) : (s.asciiFlags b).bus = s.bus := rfl
@[simp] theorem State.asciiFlags_platform (s : State) (b : Bool) : (s.asciiFlags b).platform = s.platform := rfl
@[simp] theorem State.asciiFlags_pins (s : State) (b : Bool) : (s.asciiFlags b).pins = s.pins := rfl
@[simp] theorem State.asciiFlags_env (s : State) (b : Bool) : (s.asciiFlags b).env = s.env := rfl
@[simp] theorem State.asciiFlags_out (s : State) (b : Bool) : (s.asciiFlags b).out = s.out := rfl

/-! ### `State.decimalFlags` -/

@[simp] theorem State.decimalFlags_regs (s : State) (al : Byte) (x y : Bool) :
    (s.decimalFlags al x y).regs = s.regs := rfl
@[simp] theorem State.decimalFlags_ip (s : State) (al : Byte) (x y : Bool) : (s.decimalFlags al x y).ip = s.ip := rfl
@[simp] theorem State.decimalFlags_msw (s : State) (al : Byte) (x y : Bool) :
    (s.decimalFlags al x y).msw = s.msw := rfl
@[simp] theorem State.decimalFlags_es (s : State) (al : Byte) (x y : Bool) : (s.decimalFlags al x y).es = s.es := rfl
@[simp] theorem State.decimalFlags_cs (s : State) (al : Byte) (x y : Bool) : (s.decimalFlags al x y).cs = s.cs := rfl
@[simp] theorem State.decimalFlags_ss (s : State) (al : Byte) (x y : Bool) : (s.decimalFlags al x y).ss = s.ss := rfl
@[simp] theorem State.decimalFlags_ds (s : State) (al : Byte) (x y : Bool) : (s.decimalFlags al x y).ds = s.ds := rfl
@[simp] theorem State.decimalFlags_gdtr (s : State) (al : Byte) (x y : Bool) :
    (s.decimalFlags al x y).gdtr = s.gdtr := rfl
@[simp] theorem State.decimalFlags_idtr (s : State) (al : Byte) (x y : Bool) :
    (s.decimalFlags al x y).idtr = s.idtr := rfl
@[simp] theorem State.decimalFlags_ldtr (s : State) (al : Byte) (x y : Bool) :
    (s.decimalFlags al x y).ldtr = s.ldtr := rfl
@[simp] theorem State.decimalFlags_tr (s : State) (al : Byte) (x y : Bool) : (s.decimalFlags al x y).tr = s.tr := rfl
@[simp] theorem State.decimalFlags_run (s : State) (al : Byte) (x y : Bool) :
    (s.decimalFlags al x y).run = s.run := rfl
@[simp] theorem State.decimalFlags_inhibit (s : State) (al : Byte) (x y : Bool) :
    (s.decimalFlags al x y).inhibit = s.inhibit := rfl
@[simp] theorem State.decimalFlags_nmiInService (s : State) (al : Byte) (x y : Bool) :
    (s.decimalFlags al x y).nmiInService = s.nmiInService := rfl
@[simp] theorem State.decimalFlags_nmiPending (s : State) (al : Byte) (x y : Bool) :
    (s.decimalFlags al x y).nmiPending = s.nmiPending := rfl
@[simp] theorem State.decimalFlags_stepTrap (s : State) (al : Byte) (x y : Bool) :
    (s.decimalFlags al x y).stepTrap = s.stepTrap := rfl
@[simp] theorem State.decimalFlags_overrunPending (s : State) (al : Byte) (x y : Bool) :
    (s.decimalFlags al x y).overrunPending = s.overrunPending := rfl
@[simp] theorem State.decimalFlags_npxPresent (s : State) (al : Byte) (x y : Bool) :
    (s.decimalFlags al x y).npxPresent = s.npxPresent := rfl
@[simp] theorem State.decimalFlags_npx (s : State) (al : Byte) (x y : Bool) :
    (s.decimalFlags al x y).npx = s.npx := rfl
@[simp] theorem State.decimalFlags_pendingExc (s : State) (al : Byte) (x y : Bool) :
    (s.decimalFlags al x y).pendingExc = s.pendingExc := rfl
@[simp] theorem State.decimalFlags_fetch (s : State) (al : Byte) (x y : Bool) :
    (s.decimalFlags al x y).fetch = s.fetch := rfl
@[simp] theorem State.decimalFlags_inst (s : State) (al : Byte) (x y : Bool) :
    (s.decimalFlags al x y).inst = s.inst := rfl
@[simp] theorem State.decimalFlags_mem (s : State) (al : Byte) (x y : Bool) :
    (s.decimalFlags al x y).mem = s.mem := rfl
@[simp] theorem State.decimalFlags_writes (s : State) (al : Byte) (x y : Bool) :
    (s.decimalFlags al x y).writes = s.writes := rfl
@[simp] theorem State.decimalFlags_bus (s : State) (al : Byte) (x y : Bool) :
    (s.decimalFlags al x y).bus = s.bus := rfl
@[simp] theorem State.decimalFlags_platform (s : State) (al : Byte) (x y : Bool) :
    (s.decimalFlags al x y).platform = s.platform := rfl
@[simp] theorem State.decimalFlags_pins (s : State) (al : Byte) (x y : Bool) :
    (s.decimalFlags al x y).pins = s.pins := rfl
@[simp] theorem State.decimalFlags_env (s : State) (al : Byte) (x y : Bool) :
    (s.decimalFlags al x y).env = s.env := rfl
@[simp] theorem State.decimalFlags_out (s : State) (al : Byte) (x y : Bool) :
    (s.decimalFlags al x y).out = s.out := rfl

/-! ### `State.asciiMulFlags` -/

@[simp] theorem State.asciiMulFlags_regs (s : State) (al : Byte) : (s.asciiMulFlags al).regs = s.regs := rfl
@[simp] theorem State.asciiMulFlags_ip (s : State) (al : Byte) : (s.asciiMulFlags al).ip = s.ip := rfl
@[simp] theorem State.asciiMulFlags_msw (s : State) (al : Byte) : (s.asciiMulFlags al).msw = s.msw := rfl
@[simp] theorem State.asciiMulFlags_es (s : State) (al : Byte) : (s.asciiMulFlags al).es = s.es := rfl
@[simp] theorem State.asciiMulFlags_cs (s : State) (al : Byte) : (s.asciiMulFlags al).cs = s.cs := rfl
@[simp] theorem State.asciiMulFlags_ss (s : State) (al : Byte) : (s.asciiMulFlags al).ss = s.ss := rfl
@[simp] theorem State.asciiMulFlags_ds (s : State) (al : Byte) : (s.asciiMulFlags al).ds = s.ds := rfl
@[simp] theorem State.asciiMulFlags_gdtr (s : State) (al : Byte) : (s.asciiMulFlags al).gdtr = s.gdtr := rfl
@[simp] theorem State.asciiMulFlags_idtr (s : State) (al : Byte) : (s.asciiMulFlags al).idtr = s.idtr := rfl
@[simp] theorem State.asciiMulFlags_ldtr (s : State) (al : Byte) : (s.asciiMulFlags al).ldtr = s.ldtr := rfl
@[simp] theorem State.asciiMulFlags_tr (s : State) (al : Byte) : (s.asciiMulFlags al).tr = s.tr := rfl
@[simp] theorem State.asciiMulFlags_run (s : State) (al : Byte) : (s.asciiMulFlags al).run = s.run := rfl
@[simp] theorem State.asciiMulFlags_inhibit (s : State) (al : Byte) : (s.asciiMulFlags al).inhibit = s.inhibit := rfl
@[simp] theorem State.asciiMulFlags_nmiInService (s : State) (al : Byte) :
    (s.asciiMulFlags al).nmiInService = s.nmiInService := rfl
@[simp] theorem State.asciiMulFlags_nmiPending (s : State) (al : Byte) :
    (s.asciiMulFlags al).nmiPending = s.nmiPending := rfl
@[simp] theorem State.asciiMulFlags_stepTrap (s : State) (al : Byte) :
    (s.asciiMulFlags al).stepTrap = s.stepTrap := rfl
@[simp] theorem State.asciiMulFlags_overrunPending (s : State) (al : Byte) :
    (s.asciiMulFlags al).overrunPending = s.overrunPending := rfl
@[simp] theorem State.asciiMulFlags_npxPresent (s : State) (al : Byte) :
    (s.asciiMulFlags al).npxPresent = s.npxPresent := rfl
@[simp] theorem State.asciiMulFlags_npx (s : State) (al : Byte) : (s.asciiMulFlags al).npx = s.npx := rfl
@[simp] theorem State.asciiMulFlags_pendingExc (s : State) (al : Byte) :
    (s.asciiMulFlags al).pendingExc = s.pendingExc := rfl
@[simp] theorem State.asciiMulFlags_fetch (s : State) (al : Byte) : (s.asciiMulFlags al).fetch = s.fetch := rfl
@[simp] theorem State.asciiMulFlags_inst (s : State) (al : Byte) : (s.asciiMulFlags al).inst = s.inst := rfl
@[simp] theorem State.asciiMulFlags_mem (s : State) (al : Byte) : (s.asciiMulFlags al).mem = s.mem := rfl
@[simp] theorem State.asciiMulFlags_writes (s : State) (al : Byte) : (s.asciiMulFlags al).writes = s.writes := rfl
@[simp] theorem State.asciiMulFlags_bus (s : State) (al : Byte) : (s.asciiMulFlags al).bus = s.bus := rfl
@[simp] theorem State.asciiMulFlags_platform (s : State) (al : Byte) :
    (s.asciiMulFlags al).platform = s.platform := rfl
@[simp] theorem State.asciiMulFlags_pins (s : State) (al : Byte) : (s.asciiMulFlags al).pins = s.pins := rfl
@[simp] theorem State.asciiMulFlags_env (s : State) (al : Byte) : (s.asciiMulFlags al).env = s.env := rfl
@[simp] theorem State.asciiMulFlags_out (s : State) (al : Byte) : (s.asciiMulFlags al).out = s.out := rfl

/-! ### `State.setPair` -/

@[simp] theorem State.setPair_regs (s : State) (x y : Word) :
    (s.setPair x y).regs = (s.regs.set .dx x).set .ax y := rfl
@[simp] theorem State.setPair_ip (s : State) (x y : Word) : (s.setPair x y).ip = s.ip := rfl
@[simp] theorem State.setPair_flags (s : State) (x y : Word) : (s.setPair x y).flags = s.flags := rfl
@[simp] theorem State.setPair_msw (s : State) (x y : Word) : (s.setPair x y).msw = s.msw := rfl
@[simp] theorem State.setPair_es (s : State) (x y : Word) : (s.setPair x y).es = s.es := rfl
@[simp] theorem State.setPair_cs (s : State) (x y : Word) : (s.setPair x y).cs = s.cs := rfl
@[simp] theorem State.setPair_ss (s : State) (x y : Word) : (s.setPair x y).ss = s.ss := rfl
@[simp] theorem State.setPair_ds (s : State) (x y : Word) : (s.setPair x y).ds = s.ds := rfl
@[simp] theorem State.setPair_gdtr (s : State) (x y : Word) : (s.setPair x y).gdtr = s.gdtr := rfl
@[simp] theorem State.setPair_idtr (s : State) (x y : Word) : (s.setPair x y).idtr = s.idtr := rfl
@[simp] theorem State.setPair_ldtr (s : State) (x y : Word) : (s.setPair x y).ldtr = s.ldtr := rfl
@[simp] theorem State.setPair_tr (s : State) (x y : Word) : (s.setPair x y).tr = s.tr := rfl
@[simp] theorem State.setPair_run (s : State) (x y : Word) : (s.setPair x y).run = s.run := rfl
@[simp] theorem State.setPair_inhibit (s : State) (x y : Word) : (s.setPair x y).inhibit = s.inhibit := rfl
@[simp] theorem State.setPair_nmiInService (s : State) (x y : Word) :
    (s.setPair x y).nmiInService = s.nmiInService := rfl
@[simp] theorem State.setPair_nmiPending (s : State) (x y : Word) : (s.setPair x y).nmiPending = s.nmiPending := rfl
@[simp] theorem State.setPair_stepTrap (s : State) (x y : Word) : (s.setPair x y).stepTrap = s.stepTrap := rfl
@[simp] theorem State.setPair_overrunPending (s : State) (x y : Word) :
    (s.setPair x y).overrunPending = s.overrunPending := rfl
@[simp] theorem State.setPair_npxPresent (s : State) (x y : Word) : (s.setPair x y).npxPresent = s.npxPresent := rfl
@[simp] theorem State.setPair_npx (s : State) (x y : Word) : (s.setPair x y).npx = s.npx := rfl
@[simp] theorem State.setPair_pendingExc (s : State) (x y : Word) : (s.setPair x y).pendingExc = s.pendingExc := rfl
@[simp] theorem State.setPair_fetch (s : State) (x y : Word) : (s.setPair x y).fetch = s.fetch := rfl
@[simp] theorem State.setPair_inst (s : State) (x y : Word) : (s.setPair x y).inst = s.inst := rfl
@[simp] theorem State.setPair_mem (s : State) (x y : Word) : (s.setPair x y).mem = s.mem := rfl
@[simp] theorem State.setPair_writes (s : State) (x y : Word) : (s.setPair x y).writes = s.writes := rfl
@[simp] theorem State.setPair_bus (s : State) (x y : Word) : (s.setPair x y).bus = s.bus := rfl
@[simp] theorem State.setPair_platform (s : State) (x y : Word) : (s.setPair x y).platform = s.platform := rfl
@[simp] theorem State.setPair_pins (s : State) (x y : Word) : (s.setPair x y).pins = s.pins := rfl
@[simp] theorem State.setPair_env (s : State) (x y : Word) : (s.setPair x y).env = s.env := rfl
@[simp] theorem State.setPair_out (s : State) (x y : Word) : (s.setPair x y).out = s.out := rfl
@[simp] theorem State.setPair_draws (s : State) (x y : Word) : (s.setPair x y).draws = s.draws := rfl

/-! ### `State.setAlAh` -/

@[simp] theorem State.setAlAh_regs (s : State) (x y : Byte) : (s.setAlAh x y).regs = s.regs.set .ax (y ++ x) := rfl
@[simp] theorem State.setAlAh_ip (s : State) (x y : Byte) : (s.setAlAh x y).ip = s.ip := rfl
@[simp] theorem State.setAlAh_flags (s : State) (x y : Byte) : (s.setAlAh x y).flags = s.flags := rfl
@[simp] theorem State.setAlAh_msw (s : State) (x y : Byte) : (s.setAlAh x y).msw = s.msw := rfl
@[simp] theorem State.setAlAh_es (s : State) (x y : Byte) : (s.setAlAh x y).es = s.es := rfl
@[simp] theorem State.setAlAh_cs (s : State) (x y : Byte) : (s.setAlAh x y).cs = s.cs := rfl
@[simp] theorem State.setAlAh_ss (s : State) (x y : Byte) : (s.setAlAh x y).ss = s.ss := rfl
@[simp] theorem State.setAlAh_ds (s : State) (x y : Byte) : (s.setAlAh x y).ds = s.ds := rfl
@[simp] theorem State.setAlAh_gdtr (s : State) (x y : Byte) : (s.setAlAh x y).gdtr = s.gdtr := rfl
@[simp] theorem State.setAlAh_idtr (s : State) (x y : Byte) : (s.setAlAh x y).idtr = s.idtr := rfl
@[simp] theorem State.setAlAh_ldtr (s : State) (x y : Byte) : (s.setAlAh x y).ldtr = s.ldtr := rfl
@[simp] theorem State.setAlAh_tr (s : State) (x y : Byte) : (s.setAlAh x y).tr = s.tr := rfl
@[simp] theorem State.setAlAh_run (s : State) (x y : Byte) : (s.setAlAh x y).run = s.run := rfl
@[simp] theorem State.setAlAh_inhibit (s : State) (x y : Byte) : (s.setAlAh x y).inhibit = s.inhibit := rfl
@[simp] theorem State.setAlAh_nmiInService (s : State) (x y : Byte) :
    (s.setAlAh x y).nmiInService = s.nmiInService := rfl
@[simp] theorem State.setAlAh_nmiPending (s : State) (x y : Byte) : (s.setAlAh x y).nmiPending = s.nmiPending := rfl
@[simp] theorem State.setAlAh_stepTrap (s : State) (x y : Byte) : (s.setAlAh x y).stepTrap = s.stepTrap := rfl
@[simp] theorem State.setAlAh_overrunPending (s : State) (x y : Byte) :
    (s.setAlAh x y).overrunPending = s.overrunPending := rfl
@[simp] theorem State.setAlAh_npxPresent (s : State) (x y : Byte) : (s.setAlAh x y).npxPresent = s.npxPresent := rfl
@[simp] theorem State.setAlAh_npx (s : State) (x y : Byte) : (s.setAlAh x y).npx = s.npx := rfl
@[simp] theorem State.setAlAh_pendingExc (s : State) (x y : Byte) : (s.setAlAh x y).pendingExc = s.pendingExc := rfl
@[simp] theorem State.setAlAh_fetch (s : State) (x y : Byte) : (s.setAlAh x y).fetch = s.fetch := rfl
@[simp] theorem State.setAlAh_inst (s : State) (x y : Byte) : (s.setAlAh x y).inst = s.inst := rfl
@[simp] theorem State.setAlAh_mem (s : State) (x y : Byte) : (s.setAlAh x y).mem = s.mem := rfl
@[simp] theorem State.setAlAh_writes (s : State) (x y : Byte) : (s.setAlAh x y).writes = s.writes := rfl
@[simp] theorem State.setAlAh_bus (s : State) (x y : Byte) : (s.setAlAh x y).bus = s.bus := rfl
@[simp] theorem State.setAlAh_platform (s : State) (x y : Byte) : (s.setAlAh x y).platform = s.platform := rfl
@[simp] theorem State.setAlAh_pins (s : State) (x y : Byte) : (s.setAlAh x y).pins = s.pins := rfl
@[simp] theorem State.setAlAh_env (s : State) (x y : Byte) : (s.setAlAh x y).env = s.env := rfl
@[simp] theorem State.setAlAh_out (s : State) (x y : Byte) : (s.setAlAh x y).out = s.out := rfl
@[simp] theorem State.setAlAh_draws (s : State) (x y : Byte) : (s.setAlAh x y).draws = s.draws := rfl

/-! ### `State.setZf` -/

@[simp] theorem State.setZf_regs (s : State) (b : Bool) : (s.setZf b).regs = s.regs := rfl
@[simp] theorem State.setZf_ip (s : State) (b : Bool) : (s.setZf b).ip = s.ip := rfl
@[simp] theorem State.setZf_flags (s : State) (b : Bool) : (s.setZf b).flags = { s.flags with zf := b } := rfl
@[simp] theorem State.setZf_msw (s : State) (b : Bool) : (s.setZf b).msw = s.msw := rfl
@[simp] theorem State.setZf_es (s : State) (b : Bool) : (s.setZf b).es = s.es := rfl
@[simp] theorem State.setZf_cs (s : State) (b : Bool) : (s.setZf b).cs = s.cs := rfl
@[simp] theorem State.setZf_ss (s : State) (b : Bool) : (s.setZf b).ss = s.ss := rfl
@[simp] theorem State.setZf_ds (s : State) (b : Bool) : (s.setZf b).ds = s.ds := rfl
@[simp] theorem State.setZf_gdtr (s : State) (b : Bool) : (s.setZf b).gdtr = s.gdtr := rfl
@[simp] theorem State.setZf_idtr (s : State) (b : Bool) : (s.setZf b).idtr = s.idtr := rfl
@[simp] theorem State.setZf_ldtr (s : State) (b : Bool) : (s.setZf b).ldtr = s.ldtr := rfl
@[simp] theorem State.setZf_tr (s : State) (b : Bool) : (s.setZf b).tr = s.tr := rfl
@[simp] theorem State.setZf_run (s : State) (b : Bool) : (s.setZf b).run = s.run := rfl
@[simp] theorem State.setZf_inhibit (s : State) (b : Bool) : (s.setZf b).inhibit = s.inhibit := rfl
@[simp] theorem State.setZf_nmiInService (s : State) (b : Bool) : (s.setZf b).nmiInService = s.nmiInService := rfl
@[simp] theorem State.setZf_nmiPending (s : State) (b : Bool) : (s.setZf b).nmiPending = s.nmiPending := rfl
@[simp] theorem State.setZf_stepTrap (s : State) (b : Bool) : (s.setZf b).stepTrap = s.stepTrap := rfl
@[simp] theorem State.setZf_overrunPending (s : State) (b : Bool) :
    (s.setZf b).overrunPending = s.overrunPending := rfl
@[simp] theorem State.setZf_npxPresent (s : State) (b : Bool) : (s.setZf b).npxPresent = s.npxPresent := rfl
@[simp] theorem State.setZf_npx (s : State) (b : Bool) : (s.setZf b).npx = s.npx := rfl
@[simp] theorem State.setZf_pendingExc (s : State) (b : Bool) : (s.setZf b).pendingExc = s.pendingExc := rfl
@[simp] theorem State.setZf_fetch (s : State) (b : Bool) : (s.setZf b).fetch = s.fetch := rfl
@[simp] theorem State.setZf_inst (s : State) (b : Bool) : (s.setZf b).inst = s.inst := rfl
@[simp] theorem State.setZf_mem (s : State) (b : Bool) : (s.setZf b).mem = s.mem := rfl
@[simp] theorem State.setZf_writes (s : State) (b : Bool) : (s.setZf b).writes = s.writes := rfl
@[simp] theorem State.setZf_bus (s : State) (b : Bool) : (s.setZf b).bus = s.bus := rfl
@[simp] theorem State.setZf_platform (s : State) (b : Bool) : (s.setZf b).platform = s.platform := rfl
@[simp] theorem State.setZf_pins (s : State) (b : Bool) : (s.setZf b).pins = s.pins := rfl
@[simp] theorem State.setZf_env (s : State) (b : Bool) : (s.setZf b).env = s.env := rfl
@[simp] theorem State.setZf_out (s : State) (b : Bool) : (s.setZf b).out = s.out := rfl
@[simp] theorem State.setZf_draws (s : State) (b : Bool) : (s.setZf b).draws = s.draws := rfl

/-! ### `State.advance` -/

@[simp] theorem State.advance_ip (s : State) (w : Width) (r : Reg) : (s.advance w r).ip = s.ip := rfl
@[simp] theorem State.advance_flags (s : State) (w : Width) (r : Reg) : (s.advance w r).flags = s.flags := rfl
@[simp] theorem State.advance_msw (s : State) (w : Width) (r : Reg) : (s.advance w r).msw = s.msw := rfl
@[simp] theorem State.advance_es (s : State) (w : Width) (r : Reg) : (s.advance w r).es = s.es := rfl
@[simp] theorem State.advance_cs (s : State) (w : Width) (r : Reg) : (s.advance w r).cs = s.cs := rfl
@[simp] theorem State.advance_ss (s : State) (w : Width) (r : Reg) : (s.advance w r).ss = s.ss := rfl
@[simp] theorem State.advance_ds (s : State) (w : Width) (r : Reg) : (s.advance w r).ds = s.ds := rfl
@[simp] theorem State.advance_gdtr (s : State) (w : Width) (r : Reg) : (s.advance w r).gdtr = s.gdtr := rfl
@[simp] theorem State.advance_idtr (s : State) (w : Width) (r : Reg) : (s.advance w r).idtr = s.idtr := rfl
@[simp] theorem State.advance_ldtr (s : State) (w : Width) (r : Reg) : (s.advance w r).ldtr = s.ldtr := rfl
@[simp] theorem State.advance_tr (s : State) (w : Width) (r : Reg) : (s.advance w r).tr = s.tr := rfl
@[simp] theorem State.advance_run (s : State) (w : Width) (r : Reg) : (s.advance w r).run = s.run := rfl
@[simp] theorem State.advance_inhibit (s : State) (w : Width) (r : Reg) : (s.advance w r).inhibit = s.inhibit := rfl
@[simp] theorem State.advance_nmiInService (s : State) (w : Width) (r : Reg) :
    (s.advance w r).nmiInService = s.nmiInService := rfl
@[simp] theorem State.advance_nmiPending (s : State) (w : Width) (r : Reg) :
    (s.advance w r).nmiPending = s.nmiPending := rfl
@[simp] theorem State.advance_stepTrap (s : State) (w : Width) (r : Reg) :
    (s.advance w r).stepTrap = s.stepTrap := rfl
@[simp] theorem State.advance_overrunPending (s : State) (w : Width) (r : Reg) :
    (s.advance w r).overrunPending = s.overrunPending := rfl
@[simp] theorem State.advance_npxPresent (s : State) (w : Width) (r : Reg) :
    (s.advance w r).npxPresent = s.npxPresent := rfl
@[simp] theorem State.advance_npx (s : State) (w : Width) (r : Reg) : (s.advance w r).npx = s.npx := rfl
@[simp] theorem State.advance_pendingExc (s : State) (w : Width) (r : Reg) :
    (s.advance w r).pendingExc = s.pendingExc := rfl
@[simp] theorem State.advance_fetch (s : State) (w : Width) (r : Reg) : (s.advance w r).fetch = s.fetch := rfl
@[simp] theorem State.advance_inst (s : State) (w : Width) (r : Reg) : (s.advance w r).inst = s.inst := rfl
@[simp] theorem State.advance_mem (s : State) (w : Width) (r : Reg) : (s.advance w r).mem = s.mem := rfl
@[simp] theorem State.advance_writes (s : State) (w : Width) (r : Reg) : (s.advance w r).writes = s.writes := rfl
@[simp] theorem State.advance_bus (s : State) (w : Width) (r : Reg) : (s.advance w r).bus = s.bus := rfl
@[simp] theorem State.advance_platform (s : State) (w : Width) (r : Reg) :
    (s.advance w r).platform = s.platform := rfl
@[simp] theorem State.advance_pins (s : State) (w : Width) (r : Reg) : (s.advance w r).pins = s.pins := rfl
@[simp] theorem State.advance_env (s : State) (w : Width) (r : Reg) : (s.advance w r).env = s.env := rfl
@[simp] theorem State.advance_out (s : State) (w : Width) (r : Reg) : (s.advance w r).out = s.out := rfl
@[simp] theorem State.advance_draws (s : State) (w : Width) (r : Reg) : (s.advance w r).draws = s.draws := rfl

/-! ### `State.setRm` -/

@[simp] theorem State.setRm_ip (s : State) (w : Width) (rm : Rm) (v : Word) :
    (s.setRm w rm v).ip = s.ip := by cases rm <;> cases w <;> rfl
@[simp] theorem State.setRm_flags (s : State) (w : Width) (rm : Rm) (v : Word) :
    (s.setRm w rm v).flags = s.flags := by cases rm <;> cases w <;> rfl
@[simp] theorem State.setRm_msw (s : State) (w : Width) (rm : Rm) (v : Word) :
    (s.setRm w rm v).msw = s.msw := by cases rm <;> cases w <;> rfl
@[simp] theorem State.setRm_es (s : State) (w : Width) (rm : Rm) (v : Word) :
    (s.setRm w rm v).es = s.es := by cases rm <;> cases w <;> rfl
@[simp] theorem State.setRm_cs (s : State) (w : Width) (rm : Rm) (v : Word) :
    (s.setRm w rm v).cs = s.cs := by cases rm <;> cases w <;> rfl
@[simp] theorem State.setRm_ss (s : State) (w : Width) (rm : Rm) (v : Word) :
    (s.setRm w rm v).ss = s.ss := by cases rm <;> cases w <;> rfl
@[simp] theorem State.setRm_ds (s : State) (w : Width) (rm : Rm) (v : Word) :
    (s.setRm w rm v).ds = s.ds := by cases rm <;> cases w <;> rfl
@[simp] theorem State.setRm_gdtr (s : State) (w : Width) (rm : Rm) (v : Word) :
    (s.setRm w rm v).gdtr = s.gdtr := by cases rm <;> cases w <;> rfl
@[simp] theorem State.setRm_idtr (s : State) (w : Width) (rm : Rm) (v : Word) :
    (s.setRm w rm v).idtr = s.idtr := by cases rm <;> cases w <;> rfl
@[simp] theorem State.setRm_ldtr (s : State) (w : Width) (rm : Rm) (v : Word) :
    (s.setRm w rm v).ldtr = s.ldtr := by cases rm <;> cases w <;> rfl
@[simp] theorem State.setRm_tr (s : State) (w : Width) (rm : Rm) (v : Word) :
    (s.setRm w rm v).tr = s.tr := by cases rm <;> cases w <;> rfl
@[simp] theorem State.setRm_run (s : State) (w : Width) (rm : Rm) (v : Word) :
    (s.setRm w rm v).run = s.run := by cases rm <;> cases w <;> rfl
@[simp] theorem State.setRm_inhibit (s : State) (w : Width) (rm : Rm) (v : Word) :
    (s.setRm w rm v).inhibit = s.inhibit := by cases rm <;> cases w <;> rfl
@[simp] theorem State.setRm_nmiInService (s : State) (w : Width) (rm : Rm) (v : Word) :
    (s.setRm w rm v).nmiInService = s.nmiInService := by cases rm <;> cases w <;> rfl
@[simp] theorem State.setRm_nmiPending (s : State) (w : Width) (rm : Rm) (v : Word) :
    (s.setRm w rm v).nmiPending = s.nmiPending := by cases rm <;> cases w <;> rfl
@[simp] theorem State.setRm_stepTrap (s : State) (w : Width) (rm : Rm) (v : Word) :
    (s.setRm w rm v).stepTrap = s.stepTrap := by cases rm <;> cases w <;> rfl
@[simp] theorem State.setRm_overrunPending (s : State) (w : Width) (rm : Rm) (v : Word) :
    (s.setRm w rm v).overrunPending = s.overrunPending := by cases rm <;> cases w <;> rfl
@[simp] theorem State.setRm_npxPresent (s : State) (w : Width) (rm : Rm) (v : Word) :
    (s.setRm w rm v).npxPresent = s.npxPresent := by cases rm <;> cases w <;> rfl
@[simp] theorem State.setRm_npx (s : State) (w : Width) (rm : Rm) (v : Word) :
    (s.setRm w rm v).npx = s.npx := by cases rm <;> cases w <;> rfl
@[simp] theorem State.setRm_pendingExc (s : State) (w : Width) (rm : Rm) (v : Word) :
    (s.setRm w rm v).pendingExc = s.pendingExc := by cases rm <;> cases w <;> rfl
@[simp] theorem State.setRm_inst (s : State) (w : Width) (rm : Rm) (v : Word) :
    (s.setRm w rm v).inst = s.inst := by cases rm <;> cases w <;> rfl
@[simp] theorem State.setRm_bus (s : State) (w : Width) (rm : Rm) (v : Word) :
    (s.setRm w rm v).bus = s.bus := by cases rm <;> cases w <;> rfl
@[simp] theorem State.setRm_platform (s : State) (w : Width) (rm : Rm) (v : Word) :
    (s.setRm w rm v).platform = s.platform := by cases rm <;> cases w <;> rfl
@[simp] theorem State.setRm_pins (s : State) (w : Width) (rm : Rm) (v : Word) :
    (s.setRm w rm v).pins = s.pins := by cases rm <;> cases w <;> rfl
@[simp] theorem State.setRm_env (s : State) (w : Width) (rm : Rm) (v : Word) :
    (s.setRm w rm v).env = s.env := by cases rm <;> cases w <;> rfl
@[simp] theorem State.setRm_out (s : State) (w : Width) (rm : Rm) (v : Word) :
    (s.setRm w rm v).out = s.out := by cases rm <;> cases w <;> rfl
@[simp] theorem State.setRm_draws (s : State) (w : Width) (rm : Rm) (v : Word) :
    (s.setRm w rm v).draws = s.draws := by cases rm <;> cases w <;> rfl
@[simp] theorem State.setRm_lmswAt (s : State) (w : Width) (rm : Rm) (v : Word) :
    (s.setRm w rm v).fetch.lmswAt = s.fetch.lmswAt := by cases rm <;> simp [State.setRm]
@[simp] theorem State.setRm_wrapped (s : State) (w : Width) (rm : Rm) (v : Word) :
    (s.setRm w rm v).fetch.wrapped = s.fetch.wrapped := by cases rm <;> simp [State.setRm]

/-! ### `State.loadSeg` -/

@[simp] theorem State.loadSeg_regs (s : State) (r : SReg) (d : Desc) (sel : Word) :
    (s.loadSeg r d sel).regs = s.regs := by cases r <;> rfl
@[simp] theorem State.loadSeg_ip (s : State) (r : SReg) (d : Desc) (sel : Word) :
    (s.loadSeg r d sel).ip = s.ip := by cases r <;> rfl
@[simp] theorem State.loadSeg_flags (s : State) (r : SReg) (d : Desc) (sel : Word) :
    (s.loadSeg r d sel).flags = s.flags := by cases r <;> rfl
@[simp] theorem State.loadSeg_msw (s : State) (r : SReg) (d : Desc) (sel : Word) :
    (s.loadSeg r d sel).msw = s.msw := by cases r <;> rfl
@[simp] theorem State.loadSeg_gdtr (s : State) (r : SReg) (d : Desc) (sel : Word) :
    (s.loadSeg r d sel).gdtr = s.gdtr := by cases r <;> rfl
@[simp] theorem State.loadSeg_idtr (s : State) (r : SReg) (d : Desc) (sel : Word) :
    (s.loadSeg r d sel).idtr = s.idtr := by cases r <;> rfl
@[simp] theorem State.loadSeg_ldtr (s : State) (r : SReg) (d : Desc) (sel : Word) :
    (s.loadSeg r d sel).ldtr = s.ldtr := by cases r <;> rfl
@[simp] theorem State.loadSeg_tr (s : State) (r : SReg) (d : Desc) (sel : Word) :
    (s.loadSeg r d sel).tr = s.tr := by cases r <;> rfl
@[simp] theorem State.loadSeg_run (s : State) (r : SReg) (d : Desc) (sel : Word) :
    (s.loadSeg r d sel).run = s.run := by cases r <;> rfl
@[simp] theorem State.loadSeg_inhibit (s : State) (r : SReg) (d : Desc) (sel : Word) :
    (s.loadSeg r d sel).inhibit = s.inhibit := by cases r <;> rfl
@[simp] theorem State.loadSeg_nmiInService (s : State) (r : SReg) (d : Desc) (sel : Word) :
    (s.loadSeg r d sel).nmiInService = s.nmiInService := by cases r <;> rfl
@[simp] theorem State.loadSeg_nmiPending (s : State) (r : SReg) (d : Desc) (sel : Word) :
    (s.loadSeg r d sel).nmiPending = s.nmiPending := by cases r <;> rfl
@[simp] theorem State.loadSeg_stepTrap (s : State) (r : SReg) (d : Desc) (sel : Word) :
    (s.loadSeg r d sel).stepTrap = s.stepTrap := by cases r <;> rfl
@[simp] theorem State.loadSeg_overrunPending (s : State) (r : SReg) (d : Desc) (sel : Word) :
    (s.loadSeg r d sel).overrunPending = s.overrunPending := by cases r <;> rfl
@[simp] theorem State.loadSeg_npxPresent (s : State) (r : SReg) (d : Desc) (sel : Word) :
    (s.loadSeg r d sel).npxPresent = s.npxPresent := by cases r <;> rfl
@[simp] theorem State.loadSeg_npx (s : State) (r : SReg) (d : Desc) (sel : Word) :
    (s.loadSeg r d sel).npx = s.npx := by cases r <;> rfl
@[simp] theorem State.loadSeg_pendingExc (s : State) (r : SReg) (d : Desc) (sel : Word) :
    (s.loadSeg r d sel).pendingExc = s.pendingExc := by cases r <;> rfl
@[simp] theorem State.loadSeg_inst (s : State) (r : SReg) (d : Desc) (sel : Word) :
    (s.loadSeg r d sel).inst = s.inst := by cases r <;> rfl
@[simp] theorem State.loadSeg_bus (s : State) (r : SReg) (d : Desc) (sel : Word) :
    (s.loadSeg r d sel).bus = s.bus := by cases r <;> rfl
@[simp] theorem State.loadSeg_platform (s : State) (r : SReg) (d : Desc) (sel : Word) :
    (s.loadSeg r d sel).platform = s.platform := by cases r <;> rfl
@[simp] theorem State.loadSeg_pins (s : State) (r : SReg) (d : Desc) (sel : Word) :
    (s.loadSeg r d sel).pins = s.pins := by cases r <;> rfl
@[simp] theorem State.loadSeg_env (s : State) (r : SReg) (d : Desc) (sel : Word) :
    (s.loadSeg r d sel).env = s.env := by cases r <;> rfl
@[simp] theorem State.loadSeg_out (s : State) (r : SReg) (d : Desc) (sel : Word) :
    (s.loadSeg r d sel).out = s.out := by cases r <;> rfl
@[simp] theorem State.loadSeg_draws (s : State) (r : SReg) (d : Desc) (sel : Word) :
    (s.loadSeg r d sel).draws = s.draws := by cases r <;> rfl
@[simp] theorem State.loadSeg_lmswAt (s : State) (r : SReg) (d : Desc) (sel : Word) :
    (s.loadSeg r d sel).fetch.lmswAt = s.fetch.lmswAt := by simp [State.loadSeg]
@[simp] theorem State.loadSeg_wrapped (s : State) (r : SReg) (d : Desc) (sel : Word) :
    (s.loadSeg r d sel).fetch.wrapped = s.fetch.wrapped := by simp [State.loadSeg]

/-! ### `State.enterCode` -/

@[simp] theorem State.enterCode_regs (s : State) (d : Desc) (sel : Word) (l : Nat) (off : Word) :
    (s.enterCode d sel l off).regs = s.regs := rfl
@[simp] theorem State.enterCode_ip (s : State) (d : Desc) (sel : Word) (l : Nat) (off : Word) :
    (s.enterCode d sel l off).ip = off := rfl
@[simp] theorem State.enterCode_flags (s : State) (d : Desc) (sel : Word) (l : Nat) (off : Word) :
    (s.enterCode d sel l off).flags = s.flags := rfl
@[simp] theorem State.enterCode_msw (s : State) (d : Desc) (sel : Word) (l : Nat) (off : Word) :
    (s.enterCode d sel l off).msw = s.msw := rfl
@[simp] theorem State.enterCode_es (s : State) (d : Desc) (sel : Word) (l : Nat) (off : Word) :
    (s.enterCode d sel l off).es = s.es := rfl
@[simp] theorem State.enterCode_cs (s : State) (d : Desc) (sel : Word) (l : Nat) (off : Word) :
    (s.enterCode d sel l off).cs = d.toSegment (selWithRpl sel l) := rfl
@[simp] theorem State.enterCode_ss (s : State) (d : Desc) (sel : Word) (l : Nat) (off : Word) :
    (s.enterCode d sel l off).ss = s.ss := rfl
@[simp] theorem State.enterCode_ds (s : State) (d : Desc) (sel : Word) (l : Nat) (off : Word) :
    (s.enterCode d sel l off).ds = s.ds := rfl
@[simp] theorem State.enterCode_gdtr (s : State) (d : Desc) (sel : Word) (l : Nat) (off : Word) :
    (s.enterCode d sel l off).gdtr = s.gdtr := rfl
@[simp] theorem State.enterCode_idtr (s : State) (d : Desc) (sel : Word) (l : Nat) (off : Word) :
    (s.enterCode d sel l off).idtr = s.idtr := rfl
@[simp] theorem State.enterCode_ldtr (s : State) (d : Desc) (sel : Word) (l : Nat) (off : Word) :
    (s.enterCode d sel l off).ldtr = s.ldtr := rfl
@[simp] theorem State.enterCode_tr (s : State) (d : Desc) (sel : Word) (l : Nat) (off : Word) :
    (s.enterCode d sel l off).tr = s.tr := rfl
@[simp] theorem State.enterCode_run (s : State) (d : Desc) (sel : Word) (l : Nat) (off : Word) :
    (s.enterCode d sel l off).run = s.run := rfl
@[simp] theorem State.enterCode_inhibit (s : State) (d : Desc) (sel : Word) (l : Nat) (off : Word) :
    (s.enterCode d sel l off).inhibit = s.inhibit := rfl
@[simp] theorem State.enterCode_nmiInService (s : State) (d : Desc) (sel : Word) (l : Nat) (off : Word) :
    (s.enterCode d sel l off).nmiInService = s.nmiInService := rfl
@[simp] theorem State.enterCode_nmiPending (s : State) (d : Desc) (sel : Word) (l : Nat) (off : Word) :
    (s.enterCode d sel l off).nmiPending = s.nmiPending := rfl
@[simp] theorem State.enterCode_stepTrap (s : State) (d : Desc) (sel : Word) (l : Nat) (off : Word) :
    (s.enterCode d sel l off).stepTrap = s.stepTrap := rfl
@[simp] theorem State.enterCode_overrunPending (s : State) (d : Desc) (sel : Word) (l : Nat) (off : Word) :
    (s.enterCode d sel l off).overrunPending = s.overrunPending := rfl
@[simp] theorem State.enterCode_npxPresent (s : State) (d : Desc) (sel : Word) (l : Nat) (off : Word) :
    (s.enterCode d sel l off).npxPresent = s.npxPresent := rfl
@[simp] theorem State.enterCode_npx (s : State) (d : Desc) (sel : Word) (l : Nat) (off : Word) :
    (s.enterCode d sel l off).npx = s.npx := rfl
@[simp] theorem State.enterCode_pendingExc (s : State) (d : Desc) (sel : Word) (l : Nat) (off : Word) :
    (s.enterCode d sel l off).pendingExc = s.pendingExc := rfl
@[simp] theorem State.enterCode_fetch (s : State) (d : Desc) (sel : Word) (l : Nat) (off : Word) :
    (s.enterCode d sel l off).fetch = FetchState.empty := rfl
@[simp] theorem State.enterCode_inst (s : State) (d : Desc) (sel : Word) (l : Nat) (off : Word) :
    (s.enterCode d sel l off).inst = s.inst := rfl
@[simp] theorem State.enterCode_bus (s : State) (d : Desc) (sel : Word) (l : Nat) (off : Word) :
    (s.enterCode d sel l off).bus = s.bus := rfl
@[simp] theorem State.enterCode_platform (s : State) (d : Desc) (sel : Word) (l : Nat) (off : Word) :
    (s.enterCode d sel l off).platform = s.platform := rfl
@[simp] theorem State.enterCode_pins (s : State) (d : Desc) (sel : Word) (l : Nat) (off : Word) :
    (s.enterCode d sel l off).pins = s.pins := rfl
@[simp] theorem State.enterCode_env (s : State) (d : Desc) (sel : Word) (l : Nat) (off : Word) :
    (s.enterCode d sel l off).env = s.env := rfl
@[simp] theorem State.enterCode_out (s : State) (d : Desc) (sel : Word) (l : Nat) (off : Word) :
    (s.enterCode d sel l off).out = s.out := rfl
@[simp] theorem State.enterCode_draws (s : State) (d : Desc) (sel : Word) (l : Nat) (off : Word) :
    (s.enterCode d sel l off).draws = s.draws := rfl

/-! ### `State.applyCells` -/

@[simp] theorem State.applyCells_regs (cs : List Host.Cell) : ∀ s : State, (s.applyCells cs).regs = s.regs := by
  induction cs with
  | nil => intro s; rfl
  | cons c cs ih => exact fun s => ih _

@[simp] theorem State.applyCells_ip (cs : List Host.Cell) : ∀ s : State, (s.applyCells cs).ip = s.ip := by
  induction cs with
  | nil => intro s; rfl
  | cons c cs ih => exact fun s => ih _

@[simp] theorem State.applyCells_flags (cs : List Host.Cell) : ∀ s : State, (s.applyCells cs).flags = s.flags := by
  induction cs with
  | nil => intro s; rfl
  | cons c cs ih => exact fun s => ih _

@[simp] theorem State.applyCells_msw (cs : List Host.Cell) : ∀ s : State, (s.applyCells cs).msw = s.msw := by
  induction cs with
  | nil => intro s; rfl
  | cons c cs ih => exact fun s => ih _

@[simp] theorem State.applyCells_es (cs : List Host.Cell) : ∀ s : State, (s.applyCells cs).es = s.es := by
  induction cs with
  | nil => intro s; rfl
  | cons c cs ih => exact fun s => ih _

@[simp] theorem State.applyCells_cs (cs : List Host.Cell) : ∀ s : State, (s.applyCells cs).cs = s.cs := by
  induction cs with
  | nil => intro s; rfl
  | cons c cs ih => exact fun s => ih _

@[simp] theorem State.applyCells_ss (cs : List Host.Cell) : ∀ s : State, (s.applyCells cs).ss = s.ss := by
  induction cs with
  | nil => intro s; rfl
  | cons c cs ih => exact fun s => ih _

@[simp] theorem State.applyCells_ds (cs : List Host.Cell) : ∀ s : State, (s.applyCells cs).ds = s.ds := by
  induction cs with
  | nil => intro s; rfl
  | cons c cs ih => exact fun s => ih _

@[simp] theorem State.applyCells_gdtr (cs : List Host.Cell) : ∀ s : State, (s.applyCells cs).gdtr = s.gdtr := by
  induction cs with
  | nil => intro s; rfl
  | cons c cs ih => exact fun s => ih _

@[simp] theorem State.applyCells_idtr (cs : List Host.Cell) : ∀ s : State, (s.applyCells cs).idtr = s.idtr := by
  induction cs with
  | nil => intro s; rfl
  | cons c cs ih => exact fun s => ih _

@[simp] theorem State.applyCells_ldtr (cs : List Host.Cell) : ∀ s : State, (s.applyCells cs).ldtr = s.ldtr := by
  induction cs with
  | nil => intro s; rfl
  | cons c cs ih => exact fun s => ih _

@[simp] theorem State.applyCells_tr (cs : List Host.Cell) : ∀ s : State, (s.applyCells cs).tr = s.tr := by
  induction cs with
  | nil => intro s; rfl
  | cons c cs ih => exact fun s => ih _

@[simp] theorem State.applyCells_run (cs : List Host.Cell) : ∀ s : State, (s.applyCells cs).run = s.run := by
  induction cs with
  | nil => intro s; rfl
  | cons c cs ih => exact fun s => ih _

@[simp] theorem State.applyCells_inhibit (cs : List Host.Cell) : ∀ s : State,
    (s.applyCells cs).inhibit = s.inhibit := by
  induction cs with
  | nil => intro s; rfl
  | cons c cs ih => exact fun s => ih _

@[simp] theorem State.applyCells_nmiInService (cs : List Host.Cell) : ∀ s : State,
    (s.applyCells cs).nmiInService = s.nmiInService := by
  induction cs with
  | nil => intro s; rfl
  | cons c cs ih => exact fun s => ih _

@[simp] theorem State.applyCells_nmiPending (cs : List Host.Cell) : ∀ s : State,
    (s.applyCells cs).nmiPending = s.nmiPending := by
  induction cs with
  | nil => intro s; rfl
  | cons c cs ih => exact fun s => ih _

@[simp] theorem State.applyCells_stepTrap (cs : List Host.Cell) : ∀ s : State,
    (s.applyCells cs).stepTrap = s.stepTrap := by
  induction cs with
  | nil => intro s; rfl
  | cons c cs ih => exact fun s => ih _

@[simp] theorem State.applyCells_overrunPending (cs : List Host.Cell) : ∀ s : State,
    (s.applyCells cs).overrunPending = s.overrunPending := by
  induction cs with
  | nil => intro s; rfl
  | cons c cs ih => exact fun s => ih _

@[simp] theorem State.applyCells_npxPresent (cs : List Host.Cell) : ∀ s : State,
    (s.applyCells cs).npxPresent = s.npxPresent := by
  induction cs with
  | nil => intro s; rfl
  | cons c cs ih => exact fun s => ih _

@[simp] theorem State.applyCells_npx (cs : List Host.Cell) : ∀ s : State, (s.applyCells cs).npx = s.npx := by
  induction cs with
  | nil => intro s; rfl
  | cons c cs ih => exact fun s => ih _

@[simp] theorem State.applyCells_pendingExc (cs : List Host.Cell) : ∀ s : State,
    (s.applyCells cs).pendingExc = s.pendingExc := by
  induction cs with
  | nil => intro s; rfl
  | cons c cs ih => exact fun s => ih _

@[simp] theorem State.applyCells_inst (cs : List Host.Cell) : ∀ s : State, (s.applyCells cs).inst = s.inst := by
  induction cs with
  | nil => intro s; rfl
  | cons c cs ih => exact fun s => ih _

@[simp] theorem State.applyCells_bus (cs : List Host.Cell) : ∀ s : State, (s.applyCells cs).bus = s.bus := by
  induction cs with
  | nil => intro s; rfl
  | cons c cs ih => exact fun s => ih _

@[simp] theorem State.applyCells_platform (cs : List Host.Cell) : ∀ s : State,
    (s.applyCells cs).platform = s.platform := by
  induction cs with
  | nil => intro s; rfl
  | cons c cs ih => exact fun s => ih _

@[simp] theorem State.applyCells_pins (cs : List Host.Cell) : ∀ s : State, (s.applyCells cs).pins = s.pins := by
  induction cs with
  | nil => intro s; rfl
  | cons c cs ih => exact fun s => ih _

@[simp] theorem State.applyCells_env (cs : List Host.Cell) : ∀ s : State, (s.applyCells cs).env = s.env := by
  induction cs with
  | nil => intro s; rfl
  | cons c cs ih => exact fun s => ih _

@[simp] theorem State.applyCells_out (cs : List Host.Cell) : ∀ s : State, (s.applyCells cs).out = s.out := by
  induction cs with
  | nil => intro s; rfl
  | cons c cs ih => exact fun s => ih _

@[simp] theorem State.applyCells_draws (cs : List Host.Cell) : ∀ s : State, (s.applyCells cs).draws = s.draws := by
  induction cs with
  | nil => intro s; rfl
  | cons c cs ih => exact fun s => ih _

@[simp] theorem State.applyCells_lmswAt (cs : List Host.Cell) : ∀ s : State,
    (s.applyCells cs).fetch.lmswAt = s.fetch.lmswAt := by
  induction cs with
  | nil => intro s; rfl
  | cons c cs ih => exact fun s => (ih _).trans (State.putByte_lmswAt s c.1 c.2)
@[simp] theorem State.applyCells_wrapped (cs : List Host.Cell) : ∀ s : State,
    (s.applyCells cs).fetch.wrapped = s.fetch.wrapped := by
  induction cs with
  | nil => intro s; rfl
  | cons c cs ih => exact fun s => (ih _).trans (State.putByte_wrapped s c.1 c.2)

/-! ### `State.moveOperand` -/

@[simp] theorem State.moveOperand_regs (s : State) (t : NpxTransfer) (v : Word) :
    (s.moveOperand t v).regs = s.regs := by unfold State.moveOperand; split <;> simp
@[simp] theorem State.moveOperand_ip (s : State) (t : NpxTransfer) (v : Word) :
    (s.moveOperand t v).ip = s.ip := by unfold State.moveOperand; split <;> simp
@[simp] theorem State.moveOperand_flags (s : State) (t : NpxTransfer) (v : Word) :
    (s.moveOperand t v).flags = s.flags := by unfold State.moveOperand; split <;> simp
@[simp] theorem State.moveOperand_msw (s : State) (t : NpxTransfer) (v : Word) :
    (s.moveOperand t v).msw = s.msw := by unfold State.moveOperand; split <;> simp
@[simp] theorem State.moveOperand_es (s : State) (t : NpxTransfer) (v : Word) :
    (s.moveOperand t v).es = s.es := by unfold State.moveOperand; split <;> simp
@[simp] theorem State.moveOperand_cs (s : State) (t : NpxTransfer) (v : Word) :
    (s.moveOperand t v).cs = s.cs := by unfold State.moveOperand; split <;> simp
@[simp] theorem State.moveOperand_ss (s : State) (t : NpxTransfer) (v : Word) :
    (s.moveOperand t v).ss = s.ss := by unfold State.moveOperand; split <;> simp
@[simp] theorem State.moveOperand_ds (s : State) (t : NpxTransfer) (v : Word) :
    (s.moveOperand t v).ds = s.ds := by unfold State.moveOperand; split <;> simp
@[simp] theorem State.moveOperand_gdtr (s : State) (t : NpxTransfer) (v : Word) :
    (s.moveOperand t v).gdtr = s.gdtr := by unfold State.moveOperand; split <;> simp
@[simp] theorem State.moveOperand_idtr (s : State) (t : NpxTransfer) (v : Word) :
    (s.moveOperand t v).idtr = s.idtr := by unfold State.moveOperand; split <;> simp
@[simp] theorem State.moveOperand_ldtr (s : State) (t : NpxTransfer) (v : Word) :
    (s.moveOperand t v).ldtr = s.ldtr := by unfold State.moveOperand; split <;> simp
@[simp] theorem State.moveOperand_tr (s : State) (t : NpxTransfer) (v : Word) :
    (s.moveOperand t v).tr = s.tr := by unfold State.moveOperand; split <;> simp
@[simp] theorem State.moveOperand_run (s : State) (t : NpxTransfer) (v : Word) :
    (s.moveOperand t v).run = s.run := by unfold State.moveOperand; split <;> simp
@[simp] theorem State.moveOperand_inhibit (s : State) (t : NpxTransfer) (v : Word) :
    (s.moveOperand t v).inhibit = s.inhibit := by unfold State.moveOperand; split <;> simp
@[simp] theorem State.moveOperand_nmiInService (s : State) (t : NpxTransfer) (v : Word) :
    (s.moveOperand t v).nmiInService = s.nmiInService := by unfold State.moveOperand; split <;> simp
@[simp] theorem State.moveOperand_nmiPending (s : State) (t : NpxTransfer) (v : Word) :
    (s.moveOperand t v).nmiPending = s.nmiPending := by unfold State.moveOperand; split <;> simp
@[simp] theorem State.moveOperand_stepTrap (s : State) (t : NpxTransfer) (v : Word) :
    (s.moveOperand t v).stepTrap = s.stepTrap := by unfold State.moveOperand; split <;> simp
@[simp] theorem State.moveOperand_overrunPending (s : State) (t : NpxTransfer) (v : Word) :
    (s.moveOperand t v).overrunPending = s.overrunPending := by unfold State.moveOperand; split <;> simp
@[simp] theorem State.moveOperand_npxPresent (s : State) (t : NpxTransfer) (v : Word) :
    (s.moveOperand t v).npxPresent = s.npxPresent := by unfold State.moveOperand; split <;> simp
@[simp] theorem State.moveOperand_npx (s : State) (t : NpxTransfer) (v : Word) :
    (s.moveOperand t v).npx = s.npx := by unfold State.moveOperand; split <;> simp
@[simp] theorem State.moveOperand_pendingExc (s : State) (t : NpxTransfer) (v : Word) :
    (s.moveOperand t v).pendingExc = s.pendingExc := by unfold State.moveOperand; split <;> simp
@[simp] theorem State.moveOperand_inst (s : State) (t : NpxTransfer) (v : Word) :
    (s.moveOperand t v).inst = s.inst := by unfold State.moveOperand; split <;> simp
@[simp] theorem State.moveOperand_bus (s : State) (t : NpxTransfer) (v : Word) :
    (s.moveOperand t v).bus = s.bus := by unfold State.moveOperand; split <;> simp
@[simp] theorem State.moveOperand_platform (s : State) (t : NpxTransfer) (v : Word) :
    (s.moveOperand t v).platform = s.platform := by unfold State.moveOperand; split <;> simp
@[simp] theorem State.moveOperand_pins (s : State) (t : NpxTransfer) (v : Word) :
    (s.moveOperand t v).pins = s.pins := by unfold State.moveOperand; split <;> simp
@[simp] theorem State.moveOperand_env (s : State) (t : NpxTransfer) (v : Word) :
    (s.moveOperand t v).env = s.env := by unfold State.moveOperand; split <;> simp
@[simp] theorem State.moveOperand_draws (s : State) (t : NpxTransfer) (v : Word) :
    (s.moveOperand t v).draws = s.draws := by unfold State.moveOperand; split <;> simp
@[simp] theorem State.moveOperand_lmswAt (s : State) (t : NpxTransfer) (v : Word) :
    (s.moveOperand t v).fetch.lmswAt = s.fetch.lmswAt := by unfold State.moveOperand; split <;> simp
@[simp] theorem State.moveOperand_wrapped (s : State) (t : NpxTransfer) (v : Word) :
    (s.moveOperand t v).fetch.wrapped = s.fetch.wrapped := by unfold State.moveOperand; split <;> simp

/-! ### `State.serveExtension` -/

@[simp] theorem State.serveExtension_regs (s : State) (v : Word) :
    (s.serveExtension v).regs = s.regs := by
  unfold State.serveExtension; repeat (first | rfl | simp | split)
@[simp] theorem State.serveExtension_ip (s : State) (v : Word) :
    (s.serveExtension v).ip = s.ip := by
  unfold State.serveExtension; repeat (first | rfl | simp | split)
@[simp] theorem State.serveExtension_flags (s : State) (v : Word) :
    (s.serveExtension v).flags = s.flags := by
  unfold State.serveExtension; repeat (first | rfl | simp | split)
@[simp] theorem State.serveExtension_msw (s : State) (v : Word) :
    (s.serveExtension v).msw = s.msw := by
  unfold State.serveExtension; repeat (first | rfl | simp | split)
@[simp] theorem State.serveExtension_es (s : State) (v : Word) :
    (s.serveExtension v).es = s.es := by
  unfold State.serveExtension; repeat (first | rfl | simp | split)
@[simp] theorem State.serveExtension_cs (s : State) (v : Word) :
    (s.serveExtension v).cs = s.cs := by
  unfold State.serveExtension; repeat (first | rfl | simp | split)
@[simp] theorem State.serveExtension_ss (s : State) (v : Word) :
    (s.serveExtension v).ss = s.ss := by
  unfold State.serveExtension; repeat (first | rfl | simp | split)
@[simp] theorem State.serveExtension_ds (s : State) (v : Word) :
    (s.serveExtension v).ds = s.ds := by
  unfold State.serveExtension; repeat (first | rfl | simp | split)
@[simp] theorem State.serveExtension_gdtr (s : State) (v : Word) :
    (s.serveExtension v).gdtr = s.gdtr := by
  unfold State.serveExtension; repeat (first | rfl | simp | split)
@[simp] theorem State.serveExtension_idtr (s : State) (v : Word) :
    (s.serveExtension v).idtr = s.idtr := by
  unfold State.serveExtension; repeat (first | rfl | simp | split)
@[simp] theorem State.serveExtension_ldtr (s : State) (v : Word) :
    (s.serveExtension v).ldtr = s.ldtr := by
  unfold State.serveExtension; repeat (first | rfl | simp | split)
@[simp] theorem State.serveExtension_tr (s : State) (v : Word) :
    (s.serveExtension v).tr = s.tr := by
  unfold State.serveExtension; repeat (first | rfl | simp | split)
@[simp] theorem State.serveExtension_run (s : State) (v : Word) :
    (s.serveExtension v).run = s.run := by
  unfold State.serveExtension; repeat (first | rfl | simp | split)
@[simp] theorem State.serveExtension_inhibit (s : State) (v : Word) :
    (s.serveExtension v).inhibit = s.inhibit := by
  unfold State.serveExtension; repeat (first | rfl | simp | split)
@[simp] theorem State.serveExtension_nmiInService (s : State) (v : Word) :
    (s.serveExtension v).nmiInService = s.nmiInService := by
  unfold State.serveExtension; repeat (first | rfl | simp | split)
@[simp] theorem State.serveExtension_nmiPending (s : State) (v : Word) :
    (s.serveExtension v).nmiPending = s.nmiPending := by
  unfold State.serveExtension; repeat (first | rfl | simp | split)
@[simp] theorem State.serveExtension_stepTrap (s : State) (v : Word) :
    (s.serveExtension v).stepTrap = s.stepTrap := by
  unfold State.serveExtension; repeat (first | rfl | simp | split)
@[simp] theorem State.serveExtension_npxPresent (s : State) (v : Word) :
    (s.serveExtension v).npxPresent = s.npxPresent := by
  unfold State.serveExtension; repeat (first | rfl | simp | split)
@[simp] theorem State.serveExtension_pendingExc (s : State) (v : Word) :
    (s.serveExtension v).pendingExc = s.pendingExc := by
  unfold State.serveExtension; repeat (first | rfl | simp | split)
@[simp] theorem State.serveExtension_inst (s : State) (v : Word) :
    (s.serveExtension v).inst = s.inst := by
  unfold State.serveExtension; repeat (first | rfl | simp | split)
@[simp] theorem State.serveExtension_bus (s : State) (v : Word) :
    (s.serveExtension v).bus = s.bus := by
  unfold State.serveExtension; repeat (first | rfl | simp | split)
@[simp] theorem State.serveExtension_platform (s : State) (v : Word) :
    (s.serveExtension v).platform = s.platform := by
  unfold State.serveExtension; repeat (first | rfl | simp | split)
@[simp] theorem State.serveExtension_pins (s : State) (v : Word) :
    (s.serveExtension v).pins = s.pins := by
  unfold State.serveExtension; repeat (first | rfl | simp | split)
@[simp] theorem State.serveExtension_env (s : State) (v : Word) :
    (s.serveExtension v).env = s.env := by
  unfold State.serveExtension; repeat (first | rfl | simp | split)
@[simp] theorem State.serveExtension_draws (s : State) (v : Word) :
    (s.serveExtension v).draws = s.draws := by
  unfold State.serveExtension; repeat (first | rfl | simp | split)
@[simp] theorem State.serveExtension_lmswAt (s : State) (v : Word) :
    (s.serveExtension v).fetch.lmswAt = s.fetch.lmswAt := by
  unfold State.serveExtension; repeat (first | rfl | simp | split)
@[simp] theorem State.serveExtension_wrapped (s : State) (v : Word) :
    (s.serveExtension v).fetch.wrapped = s.fetch.wrapped := by
  unfold State.serveExtension; repeat (first | rfl | simp | split)

/-! ### `State.grant` -/

@[simp] theorem State.grant_regs (s : State) (w : BusSlot) :
    (s.grant w).regs = s.regs := by
  unfold State.grant; repeat (first | rfl | simp | split)
@[simp] theorem State.grant_ip (s : State) (w : BusSlot) :
    (s.grant w).ip = s.ip := by
  unfold State.grant; repeat (first | rfl | simp | split)
@[simp] theorem State.grant_flags (s : State) (w : BusSlot) :
    (s.grant w).flags = s.flags := by
  unfold State.grant; repeat (first | rfl | simp | split)
@[simp] theorem State.grant_msw (s : State) (w : BusSlot) :
    (s.grant w).msw = s.msw := by
  unfold State.grant; repeat (first | rfl | simp | split)
@[simp] theorem State.grant_es (s : State) (w : BusSlot) :
    (s.grant w).es = s.es := by
  unfold State.grant; repeat (first | rfl | simp | split)
@[simp] theorem State.grant_cs (s : State) (w : BusSlot) :
    (s.grant w).cs = s.cs := by
  unfold State.grant; repeat (first | rfl | simp | split)
@[simp] theorem State.grant_ss (s : State) (w : BusSlot) :
    (s.grant w).ss = s.ss := by
  unfold State.grant; repeat (first | rfl | simp | split)
@[simp] theorem State.grant_ds (s : State) (w : BusSlot) :
    (s.grant w).ds = s.ds := by
  unfold State.grant; repeat (first | rfl | simp | split)
@[simp] theorem State.grant_gdtr (s : State) (w : BusSlot) :
    (s.grant w).gdtr = s.gdtr := by
  unfold State.grant; repeat (first | rfl | simp | split)
@[simp] theorem State.grant_idtr (s : State) (w : BusSlot) :
    (s.grant w).idtr = s.idtr := by
  unfold State.grant; repeat (first | rfl | simp | split)
@[simp] theorem State.grant_ldtr (s : State) (w : BusSlot) :
    (s.grant w).ldtr = s.ldtr := by
  unfold State.grant; repeat (first | rfl | simp | split)
@[simp] theorem State.grant_tr (s : State) (w : BusSlot) :
    (s.grant w).tr = s.tr := by
  unfold State.grant; repeat (first | rfl | simp | split)
@[simp] theorem State.grant_run (s : State) (w : BusSlot) :
    (s.grant w).run = s.run := by
  unfold State.grant; repeat (first | rfl | simp | split)
@[simp] theorem State.grant_inhibit (s : State) (w : BusSlot) :
    (s.grant w).inhibit = s.inhibit := by
  unfold State.grant; repeat (first | rfl | simp | split)
@[simp] theorem State.grant_nmiInService (s : State) (w : BusSlot) :
    (s.grant w).nmiInService = s.nmiInService := by
  unfold State.grant; repeat (first | rfl | simp | split)
@[simp] theorem State.grant_nmiPending (s : State) (w : BusSlot) :
    (s.grant w).nmiPending = s.nmiPending := by
  unfold State.grant; repeat (first | rfl | simp | split)
@[simp] theorem State.grant_stepTrap (s : State) (w : BusSlot) :
    (s.grant w).stepTrap = s.stepTrap := by
  unfold State.grant; repeat (first | rfl | simp | split)
@[simp] theorem State.grant_npxPresent (s : State) (w : BusSlot) :
    (s.grant w).npxPresent = s.npxPresent := by
  unfold State.grant; repeat (first | rfl | simp | split)
@[simp] theorem State.grant_pendingExc (s : State) (w : BusSlot) :
    (s.grant w).pendingExc = s.pendingExc := by
  unfold State.grant; repeat (first | rfl | simp | split)
@[simp] theorem State.grant_inst (s : State) (w : BusSlot) :
    (s.grant w).inst = s.inst := by
  unfold State.grant; repeat (first | rfl | simp | split)
@[simp] theorem State.grant_bus (s : State) (w : BusSlot) :
    (s.grant w).bus = s.bus := by
  unfold State.grant; repeat (first | rfl | simp | split)
@[simp] theorem State.grant_platform (s : State) (w : BusSlot) :
    (s.grant w).platform = s.platform := by
  unfold State.grant; repeat (first | rfl | simp | split)
@[simp] theorem State.grant_pins (s : State) (w : BusSlot) :
    (s.grant w).pins = s.pins := by
  unfold State.grant; repeat (first | rfl | simp | split)
@[simp] theorem State.grant_env (s : State) (w : BusSlot) :
    (s.grant w).env = s.env := by
  unfold State.grant; repeat (first | rfl | simp | split)
@[simp] theorem State.grant_draws (s : State) (w : BusSlot) :
    (s.grant w).draws = s.draws := by
  unfold State.grant; repeat (first | rfl | simp | split)
@[simp] theorem State.grant_lmswAt (s : State) (w : BusSlot) :
    (s.grant w).fetch.lmswAt = s.fetch.lmswAt := by
  unfold State.grant; repeat (first | rfl | simp | split)
@[simp] theorem State.grant_wrapped (s : State) (w : BusSlot) :
    (s.grant w).fetch.wrapped = s.fetch.wrapped := by
  unfold State.grant; repeat (first | rfl | simp | split)

/-! ### `State.grants` -/

@[simp] theorem State.grants_regs (ws : List BusSlot) : ∀ s : State, (s.grants ws).regs = s.regs := by
  induction ws with
  | nil => intro s; rfl
  | cons w ws ih => exact fun s => (ih _).trans (State.grant_regs s w)

@[simp] theorem State.grants_ip (ws : List BusSlot) : ∀ s : State, (s.grants ws).ip = s.ip := by
  induction ws with
  | nil => intro s; rfl
  | cons w ws ih => exact fun s => (ih _).trans (State.grant_ip s w)

@[simp] theorem State.grants_flags (ws : List BusSlot) : ∀ s : State, (s.grants ws).flags = s.flags := by
  induction ws with
  | nil => intro s; rfl
  | cons w ws ih => exact fun s => (ih _).trans (State.grant_flags s w)

@[simp] theorem State.grants_msw (ws : List BusSlot) : ∀ s : State, (s.grants ws).msw = s.msw := by
  induction ws with
  | nil => intro s; rfl
  | cons w ws ih => exact fun s => (ih _).trans (State.grant_msw s w)

@[simp] theorem State.grants_es (ws : List BusSlot) : ∀ s : State, (s.grants ws).es = s.es := by
  induction ws with
  | nil => intro s; rfl
  | cons w ws ih => exact fun s => (ih _).trans (State.grant_es s w)

@[simp] theorem State.grants_cs (ws : List BusSlot) : ∀ s : State, (s.grants ws).cs = s.cs := by
  induction ws with
  | nil => intro s; rfl
  | cons w ws ih => exact fun s => (ih _).trans (State.grant_cs s w)

@[simp] theorem State.grants_ss (ws : List BusSlot) : ∀ s : State, (s.grants ws).ss = s.ss := by
  induction ws with
  | nil => intro s; rfl
  | cons w ws ih => exact fun s => (ih _).trans (State.grant_ss s w)

@[simp] theorem State.grants_ds (ws : List BusSlot) : ∀ s : State, (s.grants ws).ds = s.ds := by
  induction ws with
  | nil => intro s; rfl
  | cons w ws ih => exact fun s => (ih _).trans (State.grant_ds s w)

@[simp] theorem State.grants_gdtr (ws : List BusSlot) : ∀ s : State, (s.grants ws).gdtr = s.gdtr := by
  induction ws with
  | nil => intro s; rfl
  | cons w ws ih => exact fun s => (ih _).trans (State.grant_gdtr s w)

@[simp] theorem State.grants_idtr (ws : List BusSlot) : ∀ s : State, (s.grants ws).idtr = s.idtr := by
  induction ws with
  | nil => intro s; rfl
  | cons w ws ih => exact fun s => (ih _).trans (State.grant_idtr s w)

@[simp] theorem State.grants_ldtr (ws : List BusSlot) : ∀ s : State, (s.grants ws).ldtr = s.ldtr := by
  induction ws with
  | nil => intro s; rfl
  | cons w ws ih => exact fun s => (ih _).trans (State.grant_ldtr s w)

@[simp] theorem State.grants_tr (ws : List BusSlot) : ∀ s : State, (s.grants ws).tr = s.tr := by
  induction ws with
  | nil => intro s; rfl
  | cons w ws ih => exact fun s => (ih _).trans (State.grant_tr s w)

@[simp] theorem State.grants_run (ws : List BusSlot) : ∀ s : State, (s.grants ws).run = s.run := by
  induction ws with
  | nil => intro s; rfl
  | cons w ws ih => exact fun s => (ih _).trans (State.grant_run s w)

@[simp] theorem State.grants_inhibit (ws : List BusSlot) : ∀ s : State, (s.grants ws).inhibit = s.inhibit := by
  induction ws with
  | nil => intro s; rfl
  | cons w ws ih => exact fun s => (ih _).trans (State.grant_inhibit s w)

@[simp] theorem State.grants_nmiInService (ws : List BusSlot) : ∀ s : State,
    (s.grants ws).nmiInService = s.nmiInService := by
  induction ws with
  | nil => intro s; rfl
  | cons w ws ih => exact fun s => (ih _).trans (State.grant_nmiInService s w)

@[simp] theorem State.grants_nmiPending (ws : List BusSlot) : ∀ s : State, (s.grants ws).nmiPending = s.nmiPending := by
  induction ws with
  | nil => intro s; rfl
  | cons w ws ih => exact fun s => (ih _).trans (State.grant_nmiPending s w)

@[simp] theorem State.grants_stepTrap (ws : List BusSlot) : ∀ s : State, (s.grants ws).stepTrap = s.stepTrap := by
  induction ws with
  | nil => intro s; rfl
  | cons w ws ih => exact fun s => (ih _).trans (State.grant_stepTrap s w)

@[simp] theorem State.grants_npxPresent (ws : List BusSlot) : ∀ s : State, (s.grants ws).npxPresent = s.npxPresent := by
  induction ws with
  | nil => intro s; rfl
  | cons w ws ih => exact fun s => (ih _).trans (State.grant_npxPresent s w)

@[simp] theorem State.grants_pendingExc (ws : List BusSlot) : ∀ s : State, (s.grants ws).pendingExc = s.pendingExc := by
  induction ws with
  | nil => intro s; rfl
  | cons w ws ih => exact fun s => (ih _).trans (State.grant_pendingExc s w)

@[simp] theorem State.grants_inst (ws : List BusSlot) : ∀ s : State, (s.grants ws).inst = s.inst := by
  induction ws with
  | nil => intro s; rfl
  | cons w ws ih => exact fun s => (ih _).trans (State.grant_inst s w)

@[simp] theorem State.grants_bus (ws : List BusSlot) : ∀ s : State, (s.grants ws).bus = s.bus := by
  induction ws with
  | nil => intro s; rfl
  | cons w ws ih => exact fun s => (ih _).trans (State.grant_bus s w)

@[simp] theorem State.grants_platform (ws : List BusSlot) : ∀ s : State, (s.grants ws).platform = s.platform := by
  induction ws with
  | nil => intro s; rfl
  | cons w ws ih => exact fun s => (ih _).trans (State.grant_platform s w)

@[simp] theorem State.grants_pins (ws : List BusSlot) : ∀ s : State, (s.grants ws).pins = s.pins := by
  induction ws with
  | nil => intro s; rfl
  | cons w ws ih => exact fun s => (ih _).trans (State.grant_pins s w)

@[simp] theorem State.grants_env (ws : List BusSlot) : ∀ s : State, (s.grants ws).env = s.env := by
  induction ws with
  | nil => intro s; rfl
  | cons w ws ih => exact fun s => (ih _).trans (State.grant_env s w)

@[simp] theorem State.grants_draws (ws : List BusSlot) : ∀ s : State, (s.grants ws).draws = s.draws := by
  induction ws with
  | nil => intro s; rfl
  | cons w ws ih => exact fun s => (ih _).trans (State.grant_draws s w)

@[simp] theorem State.grants_lmswAt (ws : List BusSlot) : ∀ s : State,
    (s.grants ws).fetch.lmswAt = s.fetch.lmswAt := by
  induction ws with
  | nil => intro s; rfl
  | cons w ws ih => exact fun s => (ih _).trans (State.grant_lmswAt s w)
@[simp] theorem State.grants_wrapped (ws : List BusSlot) : ∀ s : State,
    (s.grants ws).fetch.wrapped = s.fetch.wrapped := by
  induction ws with
  | nil => intro s; rfl
  | cons w ws ih => exact fun s => (ih _).trans (State.grant_wrapped s w)

/-! ### `State.yieldBus` -/

@[simp] theorem State.yieldBus_regs (s : State) :
    (s.yieldBus).regs = s.regs := by
  unfold State.yieldBus; repeat (first | rfl | simp | split)
@[simp] theorem State.yieldBus_ip (s : State) :
    (s.yieldBus).ip = s.ip := by
  unfold State.yieldBus; repeat (first | rfl | simp | split)
@[simp] theorem State.yieldBus_flags (s : State) :
    (s.yieldBus).flags = s.flags := by
  unfold State.yieldBus; repeat (first | rfl | simp | split)
@[simp] theorem State.yieldBus_msw (s : State) :
    (s.yieldBus).msw = s.msw := by
  unfold State.yieldBus; repeat (first | rfl | simp | split)
@[simp] theorem State.yieldBus_es (s : State) :
    (s.yieldBus).es = s.es := by
  unfold State.yieldBus; repeat (first | rfl | simp | split)
@[simp] theorem State.yieldBus_cs (s : State) :
    (s.yieldBus).cs = s.cs := by
  unfold State.yieldBus; repeat (first | rfl | simp | split)
@[simp] theorem State.yieldBus_ss (s : State) :
    (s.yieldBus).ss = s.ss := by
  unfold State.yieldBus; repeat (first | rfl | simp | split)
@[simp] theorem State.yieldBus_ds (s : State) :
    (s.yieldBus).ds = s.ds := by
  unfold State.yieldBus; repeat (first | rfl | simp | split)
@[simp] theorem State.yieldBus_gdtr (s : State) :
    (s.yieldBus).gdtr = s.gdtr := by
  unfold State.yieldBus; repeat (first | rfl | simp | split)
@[simp] theorem State.yieldBus_idtr (s : State) :
    (s.yieldBus).idtr = s.idtr := by
  unfold State.yieldBus; repeat (first | rfl | simp | split)
@[simp] theorem State.yieldBus_ldtr (s : State) :
    (s.yieldBus).ldtr = s.ldtr := by
  unfold State.yieldBus; repeat (first | rfl | simp | split)
@[simp] theorem State.yieldBus_tr (s : State) :
    (s.yieldBus).tr = s.tr := by
  unfold State.yieldBus; repeat (first | rfl | simp | split)
@[simp] theorem State.yieldBus_run (s : State) :
    (s.yieldBus).run = s.run := by
  unfold State.yieldBus; repeat (first | rfl | simp | split)
@[simp] theorem State.yieldBus_inhibit (s : State) :
    (s.yieldBus).inhibit = s.inhibit := by
  unfold State.yieldBus; repeat (first | rfl | simp | split)
@[simp] theorem State.yieldBus_nmiInService (s : State) :
    (s.yieldBus).nmiInService = s.nmiInService := by
  unfold State.yieldBus; repeat (first | rfl | simp | split)
@[simp] theorem State.yieldBus_nmiPending (s : State) :
    (s.yieldBus).nmiPending = s.nmiPending := by
  unfold State.yieldBus; repeat (first | rfl | simp | split)
@[simp] theorem State.yieldBus_stepTrap (s : State) :
    (s.yieldBus).stepTrap = s.stepTrap := by
  unfold State.yieldBus; repeat (first | rfl | simp | split)
@[simp] theorem State.yieldBus_npxPresent (s : State) :
    (s.yieldBus).npxPresent = s.npxPresent := by
  unfold State.yieldBus; repeat (first | rfl | simp | split)
@[simp] theorem State.yieldBus_pendingExc (s : State) :
    (s.yieldBus).pendingExc = s.pendingExc := by
  unfold State.yieldBus; repeat (first | rfl | simp | split)
@[simp] theorem State.yieldBus_inst (s : State) :
    (s.yieldBus).inst = s.inst := by
  unfold State.yieldBus; repeat (first | rfl | simp | split)
@[simp] theorem State.yieldBus_platform (s : State) :
    (s.yieldBus).platform = s.platform := by
  unfold State.yieldBus; repeat (first | rfl | simp | split)
@[simp] theorem State.yieldBus_pins (s : State) :
    (s.yieldBus).pins = s.pins := by
  unfold State.yieldBus; repeat (first | rfl | simp | split)
@[simp] theorem State.yieldBus_env (s : State) :
    (s.yieldBus).env = s.env := by
  unfold State.yieldBus; repeat (first | rfl | simp | split)
@[simp] theorem State.yieldBus_draws (s : State) :
    (s.yieldBus).draws = s.draws := by
  unfold State.yieldBus; repeat (first | rfl | simp | split)
@[simp] theorem State.yieldBus_lmswAt (s : State) :
    (s.yieldBus).fetch.lmswAt = s.fetch.lmswAt := by
  unfold State.yieldBus; repeat (first | rfl | simp | split)
@[simp] theorem State.yieldBus_wrapped (s : State) :
    (s.yieldBus).fetch.wrapped = s.fetch.wrapped := by
  unfold State.yieldBus; repeat (first | rfl | simp | split)

/-! ### `State.yields` -/

@[simp] theorem State.yields_regs (n : Nat) : ∀ s : State, (s.yields n).regs = s.regs := by
  induction n with
  | zero => intro s; rfl
  | succ n ih => exact fun s => (ih _).trans (State.yieldBus_regs s)

@[simp] theorem State.yields_ip (n : Nat) : ∀ s : State, (s.yields n).ip = s.ip := by
  induction n with
  | zero => intro s; rfl
  | succ n ih => exact fun s => (ih _).trans (State.yieldBus_ip s)

@[simp] theorem State.yields_flags (n : Nat) : ∀ s : State, (s.yields n).flags = s.flags := by
  induction n with
  | zero => intro s; rfl
  | succ n ih => exact fun s => (ih _).trans (State.yieldBus_flags s)

@[simp] theorem State.yields_msw (n : Nat) : ∀ s : State, (s.yields n).msw = s.msw := by
  induction n with
  | zero => intro s; rfl
  | succ n ih => exact fun s => (ih _).trans (State.yieldBus_msw s)

@[simp] theorem State.yields_es (n : Nat) : ∀ s : State, (s.yields n).es = s.es := by
  induction n with
  | zero => intro s; rfl
  | succ n ih => exact fun s => (ih _).trans (State.yieldBus_es s)

@[simp] theorem State.yields_cs (n : Nat) : ∀ s : State, (s.yields n).cs = s.cs := by
  induction n with
  | zero => intro s; rfl
  | succ n ih => exact fun s => (ih _).trans (State.yieldBus_cs s)

@[simp] theorem State.yields_ss (n : Nat) : ∀ s : State, (s.yields n).ss = s.ss := by
  induction n with
  | zero => intro s; rfl
  | succ n ih => exact fun s => (ih _).trans (State.yieldBus_ss s)

@[simp] theorem State.yields_ds (n : Nat) : ∀ s : State, (s.yields n).ds = s.ds := by
  induction n with
  | zero => intro s; rfl
  | succ n ih => exact fun s => (ih _).trans (State.yieldBus_ds s)

@[simp] theorem State.yields_gdtr (n : Nat) : ∀ s : State, (s.yields n).gdtr = s.gdtr := by
  induction n with
  | zero => intro s; rfl
  | succ n ih => exact fun s => (ih _).trans (State.yieldBus_gdtr s)

@[simp] theorem State.yields_idtr (n : Nat) : ∀ s : State, (s.yields n).idtr = s.idtr := by
  induction n with
  | zero => intro s; rfl
  | succ n ih => exact fun s => (ih _).trans (State.yieldBus_idtr s)

@[simp] theorem State.yields_ldtr (n : Nat) : ∀ s : State, (s.yields n).ldtr = s.ldtr := by
  induction n with
  | zero => intro s; rfl
  | succ n ih => exact fun s => (ih _).trans (State.yieldBus_ldtr s)

@[simp] theorem State.yields_tr (n : Nat) : ∀ s : State, (s.yields n).tr = s.tr := by
  induction n with
  | zero => intro s; rfl
  | succ n ih => exact fun s => (ih _).trans (State.yieldBus_tr s)

@[simp] theorem State.yields_run (n : Nat) : ∀ s : State, (s.yields n).run = s.run := by
  induction n with
  | zero => intro s; rfl
  | succ n ih => exact fun s => (ih _).trans (State.yieldBus_run s)

@[simp] theorem State.yields_inhibit (n : Nat) : ∀ s : State, (s.yields n).inhibit = s.inhibit := by
  induction n with
  | zero => intro s; rfl
  | succ n ih => exact fun s => (ih _).trans (State.yieldBus_inhibit s)

@[simp] theorem State.yields_nmiInService (n : Nat) : ∀ s : State, (s.yields n).nmiInService = s.nmiInService := by
  induction n with
  | zero => intro s; rfl
  | succ n ih => exact fun s => (ih _).trans (State.yieldBus_nmiInService s)

@[simp] theorem State.yields_nmiPending (n : Nat) : ∀ s : State, (s.yields n).nmiPending = s.nmiPending := by
  induction n with
  | zero => intro s; rfl
  | succ n ih => exact fun s => (ih _).trans (State.yieldBus_nmiPending s)

@[simp] theorem State.yields_stepTrap (n : Nat) : ∀ s : State, (s.yields n).stepTrap = s.stepTrap := by
  induction n with
  | zero => intro s; rfl
  | succ n ih => exact fun s => (ih _).trans (State.yieldBus_stepTrap s)

@[simp] theorem State.yields_npxPresent (n : Nat) : ∀ s : State, (s.yields n).npxPresent = s.npxPresent := by
  induction n with
  | zero => intro s; rfl
  | succ n ih => exact fun s => (ih _).trans (State.yieldBus_npxPresent s)

@[simp] theorem State.yields_pendingExc (n : Nat) : ∀ s : State, (s.yields n).pendingExc = s.pendingExc := by
  induction n with
  | zero => intro s; rfl
  | succ n ih => exact fun s => (ih _).trans (State.yieldBus_pendingExc s)

@[simp] theorem State.yields_inst (n : Nat) : ∀ s : State, (s.yields n).inst = s.inst := by
  induction n with
  | zero => intro s; rfl
  | succ n ih => exact fun s => (ih _).trans (State.yieldBus_inst s)

@[simp] theorem State.yields_platform (n : Nat) : ∀ s : State, (s.yields n).platform = s.platform := by
  induction n with
  | zero => intro s; rfl
  | succ n ih => exact fun s => (ih _).trans (State.yieldBus_platform s)

@[simp] theorem State.yields_pins (n : Nat) : ∀ s : State, (s.yields n).pins = s.pins := by
  induction n with
  | zero => intro s; rfl
  | succ n ih => exact fun s => (ih _).trans (State.yieldBus_pins s)

@[simp] theorem State.yields_env (n : Nat) : ∀ s : State, (s.yields n).env = s.env := by
  induction n with
  | zero => intro s; rfl
  | succ n ih => exact fun s => (ih _).trans (State.yieldBus_env s)

@[simp] theorem State.yields_draws (n : Nat) : ∀ s : State, (s.yields n).draws = s.draws := by
  induction n with
  | zero => intro s; rfl
  | succ n ih => exact fun s => (ih _).trans (State.yieldBus_draws s)

@[simp] theorem State.yields_lmswAt (n : Nat) : ∀ s : State, (s.yields n).fetch.lmswAt = s.fetch.lmswAt := by
  induction n with
  | zero => intro s; rfl
  | succ n ih => exact fun s => (ih _).trans (State.yieldBus_lmswAt s)
@[simp] theorem State.yields_wrapped (n : Nat) : ∀ s : State, (s.yields n).fetch.wrapped = s.fetch.wrapped := by
  induction n with
  | zero => intro s; rfl
  | succ n ih => exact fun s => (ih _).trans (State.yieldBus_wrapped s)

/-! ### `State.putBack` -/

@[simp] theorem State.putBack_ip (s : State) (w : Width) (rm : Rm) (v : Word) :
    (s.putBack w rm v).ip = s.ip := by cases rm <;> simp [State.putBack]
@[simp] theorem State.putBack_flags (s : State) (w : Width) (rm : Rm) (v : Word) :
    (s.putBack w rm v).flags = s.flags := by cases rm <;> simp [State.putBack]
@[simp] theorem State.putBack_msw (s : State) (w : Width) (rm : Rm) (v : Word) :
    (s.putBack w rm v).msw = s.msw := by cases rm <;> simp [State.putBack]
@[simp] theorem State.putBack_es (s : State) (w : Width) (rm : Rm) (v : Word) :
    (s.putBack w rm v).es = s.es := by cases rm <;> simp [State.putBack]
@[simp] theorem State.putBack_cs (s : State) (w : Width) (rm : Rm) (v : Word) :
    (s.putBack w rm v).cs = s.cs := by cases rm <;> simp [State.putBack]
@[simp] theorem State.putBack_ss (s : State) (w : Width) (rm : Rm) (v : Word) :
    (s.putBack w rm v).ss = s.ss := by cases rm <;> simp [State.putBack]
@[simp] theorem State.putBack_ds (s : State) (w : Width) (rm : Rm) (v : Word) :
    (s.putBack w rm v).ds = s.ds := by cases rm <;> simp [State.putBack]
@[simp] theorem State.putBack_gdtr (s : State) (w : Width) (rm : Rm) (v : Word) :
    (s.putBack w rm v).gdtr = s.gdtr := by cases rm <;> simp [State.putBack]
@[simp] theorem State.putBack_idtr (s : State) (w : Width) (rm : Rm) (v : Word) :
    (s.putBack w rm v).idtr = s.idtr := by cases rm <;> simp [State.putBack]
@[simp] theorem State.putBack_ldtr (s : State) (w : Width) (rm : Rm) (v : Word) :
    (s.putBack w rm v).ldtr = s.ldtr := by cases rm <;> simp [State.putBack]
@[simp] theorem State.putBack_tr (s : State) (w : Width) (rm : Rm) (v : Word) :
    (s.putBack w rm v).tr = s.tr := by cases rm <;> simp [State.putBack]
@[simp] theorem State.putBack_run (s : State) (w : Width) (rm : Rm) (v : Word) :
    (s.putBack w rm v).run = s.run := by cases rm <;> simp [State.putBack]
@[simp] theorem State.putBack_inhibit (s : State) (w : Width) (rm : Rm) (v : Word) :
    (s.putBack w rm v).inhibit = s.inhibit := by cases rm <;> simp [State.putBack]
@[simp] theorem State.putBack_nmiInService (s : State) (w : Width) (rm : Rm) (v : Word) :
    (s.putBack w rm v).nmiInService = s.nmiInService := by cases rm <;> simp [State.putBack]
@[simp] theorem State.putBack_nmiPending (s : State) (w : Width) (rm : Rm) (v : Word) :
    (s.putBack w rm v).nmiPending = s.nmiPending := by cases rm <;> simp [State.putBack]
@[simp] theorem State.putBack_stepTrap (s : State) (w : Width) (rm : Rm) (v : Word) :
    (s.putBack w rm v).stepTrap = s.stepTrap := by cases rm <;> simp [State.putBack]
@[simp] theorem State.putBack_npxPresent (s : State) (w : Width) (rm : Rm) (v : Word) :
    (s.putBack w rm v).npxPresent = s.npxPresent := by cases rm <;> simp [State.putBack]
@[simp] theorem State.putBack_pendingExc (s : State) (w : Width) (rm : Rm) (v : Word) :
    (s.putBack w rm v).pendingExc = s.pendingExc := by cases rm <;> simp [State.putBack]
@[simp] theorem State.putBack_inst (s : State) (w : Width) (rm : Rm) (v : Word) :
    (s.putBack w rm v).inst = s.inst := by cases rm <;> simp [State.putBack]
@[simp] theorem State.putBack_platform (s : State) (w : Width) (rm : Rm) (v : Word) :
    (s.putBack w rm v).platform = s.platform := by cases rm <;> simp [State.putBack]
@[simp] theorem State.putBack_pins (s : State) (w : Width) (rm : Rm) (v : Word) :
    (s.putBack w rm v).pins = s.pins := by cases rm <;> simp [State.putBack]
@[simp] theorem State.putBack_env (s : State) (w : Width) (rm : Rm) (v : Word) :
    (s.putBack w rm v).env = s.env := by cases rm <;> simp [State.putBack]
@[simp] theorem State.putBack_draws (s : State) (w : Width) (rm : Rm) (v : Word) :
    (s.putBack w rm v).draws = s.draws := by cases rm <;> simp [State.putBack]
@[simp] theorem State.putBack_lmswAt (s : State) (w : Width) (rm : Rm) (v : Word) :
    (s.putBack w rm v).fetch.lmswAt = s.fetch.lmswAt := by cases rm <;> simp [State.putBack]
@[simp] theorem State.putBack_wrapped (s : State) (w : Width) (rm : Rm) (v : Word) :
    (s.putBack w rm v).fetch.wrapped = s.fetch.wrapped := by cases rm <;> simp [State.putBack]

/-! ### `State.pushList` -/

@[simp] theorem State.pushList_ip (vs : List Word) : ∀ s : State, (s.pushList vs).ip = s.ip := by
  induction vs with
  | nil => intro s; rfl
  | cons v vs ih => intro s; simp [State.pushList, ih]

@[simp] theorem State.pushList_flags (vs : List Word) : ∀ s : State, (s.pushList vs).flags = s.flags := by
  induction vs with
  | nil => intro s; rfl
  | cons v vs ih => intro s; simp [State.pushList, ih]

@[simp] theorem State.pushList_msw (vs : List Word) : ∀ s : State, (s.pushList vs).msw = s.msw := by
  induction vs with
  | nil => intro s; rfl
  | cons v vs ih => intro s; simp [State.pushList, ih]

@[simp] theorem State.pushList_es (vs : List Word) : ∀ s : State, (s.pushList vs).es = s.es := by
  induction vs with
  | nil => intro s; rfl
  | cons v vs ih => intro s; simp [State.pushList, ih]

@[simp] theorem State.pushList_cs (vs : List Word) : ∀ s : State, (s.pushList vs).cs = s.cs := by
  induction vs with
  | nil => intro s; rfl
  | cons v vs ih => intro s; simp [State.pushList, ih]

@[simp] theorem State.pushList_ss (vs : List Word) : ∀ s : State, (s.pushList vs).ss = s.ss := by
  induction vs with
  | nil => intro s; rfl
  | cons v vs ih => intro s; simp [State.pushList, ih]

@[simp] theorem State.pushList_ds (vs : List Word) : ∀ s : State, (s.pushList vs).ds = s.ds := by
  induction vs with
  | nil => intro s; rfl
  | cons v vs ih => intro s; simp [State.pushList, ih]

@[simp] theorem State.pushList_gdtr (vs : List Word) : ∀ s : State, (s.pushList vs).gdtr = s.gdtr := by
  induction vs with
  | nil => intro s; rfl
  | cons v vs ih => intro s; simp [State.pushList, ih]

@[simp] theorem State.pushList_idtr (vs : List Word) : ∀ s : State, (s.pushList vs).idtr = s.idtr := by
  induction vs with
  | nil => intro s; rfl
  | cons v vs ih => intro s; simp [State.pushList, ih]

@[simp] theorem State.pushList_ldtr (vs : List Word) : ∀ s : State, (s.pushList vs).ldtr = s.ldtr := by
  induction vs with
  | nil => intro s; rfl
  | cons v vs ih => intro s; simp [State.pushList, ih]

@[simp] theorem State.pushList_tr (vs : List Word) : ∀ s : State, (s.pushList vs).tr = s.tr := by
  induction vs with
  | nil => intro s; rfl
  | cons v vs ih => intro s; simp [State.pushList, ih]

@[simp] theorem State.pushList_run (vs : List Word) : ∀ s : State, (s.pushList vs).run = s.run := by
  induction vs with
  | nil => intro s; rfl
  | cons v vs ih => intro s; simp [State.pushList, ih]

@[simp] theorem State.pushList_inhibit (vs : List Word) : ∀ s : State, (s.pushList vs).inhibit = s.inhibit := by
  induction vs with
  | nil => intro s; rfl
  | cons v vs ih => intro s; simp [State.pushList, ih]

@[simp] theorem State.pushList_nmiInService (vs : List Word) : ∀ s : State,
    (s.pushList vs).nmiInService = s.nmiInService := by
  induction vs with
  | nil => intro s; rfl
  | cons v vs ih => intro s; simp [State.pushList, ih]

@[simp] theorem State.pushList_nmiPending (vs : List Word) : ∀ s : State,
    (s.pushList vs).nmiPending = s.nmiPending := by
  induction vs with
  | nil => intro s; rfl
  | cons v vs ih => intro s; simp [State.pushList, ih]

@[simp] theorem State.pushList_stepTrap (vs : List Word) : ∀ s : State, (s.pushList vs).stepTrap = s.stepTrap := by
  induction vs with
  | nil => intro s; rfl
  | cons v vs ih => intro s; simp [State.pushList, ih]

@[simp] theorem State.pushList_npxPresent (vs : List Word) : ∀ s : State,
    (s.pushList vs).npxPresent = s.npxPresent := by
  induction vs with
  | nil => intro s; rfl
  | cons v vs ih => intro s; simp [State.pushList, ih]

@[simp] theorem State.pushList_pendingExc (vs : List Word) : ∀ s : State,
    (s.pushList vs).pendingExc = s.pendingExc := by
  induction vs with
  | nil => intro s; rfl
  | cons v vs ih => intro s; simp [State.pushList, ih]

@[simp] theorem State.pushList_inst (vs : List Word) : ∀ s : State, (s.pushList vs).inst = s.inst := by
  induction vs with
  | nil => intro s; rfl
  | cons v vs ih => intro s; simp [State.pushList, ih]

@[simp] theorem State.pushList_platform (vs : List Word) : ∀ s : State, (s.pushList vs).platform = s.platform := by
  induction vs with
  | nil => intro s; rfl
  | cons v vs ih => intro s; simp [State.pushList, ih]

@[simp] theorem State.pushList_pins (vs : List Word) : ∀ s : State, (s.pushList vs).pins = s.pins := by
  induction vs with
  | nil => intro s; rfl
  | cons v vs ih => intro s; simp [State.pushList, ih]

@[simp] theorem State.pushList_env (vs : List Word) : ∀ s : State, (s.pushList vs).env = s.env := by
  induction vs with
  | nil => intro s; rfl
  | cons v vs ih => intro s; simp [State.pushList, ih]

@[simp] theorem State.pushList_draws (vs : List Word) : ∀ s : State, (s.pushList vs).draws = s.draws := by
  induction vs with
  | nil => intro s; rfl
  | cons v vs ih => intro s; simp [State.pushList, ih]

@[simp] theorem State.pushList_lmswAt (vs : List Word) : ∀ s : State,
    (s.pushList vs).fetch.lmswAt = s.fetch.lmswAt := by
  induction vs with
  | nil => intro s; rfl
  | cons v vs ih => intro s; simp [State.pushList, ih]
@[simp] theorem State.pushList_wrapped (vs : List Word) : ∀ s : State,
    (s.pushList vs).fetch.wrapped = s.fetch.wrapped := by
  induction vs with
  | nil => intro s; rfl
  | cons v vs ih => intro s; simp [State.pushList, ih]

/-! ### `State.saveTask` -/

@[simp] theorem State.saveTask_regs (s : State) (ret f : Word) :
    (s.saveTask ret f).regs = s.regs := by simp [State.saveTask]
@[simp] theorem State.saveTask_ip (s : State) (ret f : Word) :
    (s.saveTask ret f).ip = s.ip := by simp [State.saveTask]
@[simp] theorem State.saveTask_flags (s : State) (ret f : Word) :
    (s.saveTask ret f).flags = s.flags := by simp [State.saveTask]
@[simp] theorem State.saveTask_msw (s : State) (ret f : Word) :
    (s.saveTask ret f).msw = s.msw := by simp [State.saveTask]
@[simp] theorem State.saveTask_es (s : State) (ret f : Word) :
    (s.saveTask ret f).es = s.es := by simp [State.saveTask]
@[simp] theorem State.saveTask_cs (s : State) (ret f : Word) :
    (s.saveTask ret f).cs = s.cs := by simp [State.saveTask]
@[simp] theorem State.saveTask_ss (s : State) (ret f : Word) :
    (s.saveTask ret f).ss = s.ss := by simp [State.saveTask]
@[simp] theorem State.saveTask_ds (s : State) (ret f : Word) :
    (s.saveTask ret f).ds = s.ds := by simp [State.saveTask]
@[simp] theorem State.saveTask_gdtr (s : State) (ret f : Word) :
    (s.saveTask ret f).gdtr = s.gdtr := by simp [State.saveTask]
@[simp] theorem State.saveTask_idtr (s : State) (ret f : Word) :
    (s.saveTask ret f).idtr = s.idtr := by simp [State.saveTask]
@[simp] theorem State.saveTask_ldtr (s : State) (ret f : Word) :
    (s.saveTask ret f).ldtr = s.ldtr := by simp [State.saveTask]
@[simp] theorem State.saveTask_tr (s : State) (ret f : Word) :
    (s.saveTask ret f).tr = s.tr := by simp [State.saveTask]
@[simp] theorem State.saveTask_run (s : State) (ret f : Word) :
    (s.saveTask ret f).run = s.run := by simp [State.saveTask]
@[simp] theorem State.saveTask_inhibit (s : State) (ret f : Word) :
    (s.saveTask ret f).inhibit = s.inhibit := by simp [State.saveTask]
@[simp] theorem State.saveTask_nmiInService (s : State) (ret f : Word) :
    (s.saveTask ret f).nmiInService = s.nmiInService := by simp [State.saveTask]
@[simp] theorem State.saveTask_nmiPending (s : State) (ret f : Word) :
    (s.saveTask ret f).nmiPending = s.nmiPending := by simp [State.saveTask]
@[simp] theorem State.saveTask_stepTrap (s : State) (ret f : Word) :
    (s.saveTask ret f).stepTrap = s.stepTrap := by simp [State.saveTask]
@[simp] theorem State.saveTask_npxPresent (s : State) (ret f : Word) :
    (s.saveTask ret f).npxPresent = s.npxPresent := by simp [State.saveTask]
@[simp] theorem State.saveTask_pendingExc (s : State) (ret f : Word) :
    (s.saveTask ret f).pendingExc = s.pendingExc := by simp [State.saveTask]
@[simp] theorem State.saveTask_inst (s : State) (ret f : Word) :
    (s.saveTask ret f).inst = s.inst := by simp [State.saveTask]
@[simp] theorem State.saveTask_platform (s : State) (ret f : Word) :
    (s.saveTask ret f).platform = s.platform := by simp [State.saveTask]
@[simp] theorem State.saveTask_pins (s : State) (ret f : Word) :
    (s.saveTask ret f).pins = s.pins := by simp [State.saveTask]
@[simp] theorem State.saveTask_env (s : State) (ret f : Word) :
    (s.saveTask ret f).env = s.env := by simp [State.saveTask]
@[simp] theorem State.saveTask_draws (s : State) (ret f : Word) :
    (s.saveTask ret f).draws = s.draws := by simp [State.saveTask]
@[simp] theorem State.saveTask_lmswAt (s : State) (ret f : Word) :
    (s.saveTask ret f).fetch.lmswAt = s.fetch.lmswAt := by simp [State.saveTask]
@[simp] theorem State.saveTask_wrapped (s : State) (ret f : Word) :
    (s.saveTask ret f).fetch.wrapped = s.fetch.wrapped := by simp [State.saveTask]

end Sys2Proof.Machine
end

