-- ==== Sys2Proof/Laws/Views.lean ====
section
/-! SUPPORT. What each update of the state leaves of what is read through it: the mode, addresses, bytes of memory,
segment registers, the privilege level, word registers. -/

namespace Sys2Proof.Machine

/-! ### `State.setReg` -/

@[simp] theorem State.setReg_physAddr (s : State) (w : Width) (r : Reg) (v : Word) (adr : Nat) :
    (s.setReg w r v).physAddr adr = s.physAddr adr := by simp [State.physAddr]
@[simp] theorem State.setReg_prot (s : State) (w : Width) (r : Reg) (v : Word) :
    (s.setReg w r v).prot = s.prot := by simp [State.prot, State.pe]
@[simp] theorem State.setReg_translate (s : State) (w : Width) (r : Reg) (v : Word) (k : Segment) (o : Word) :
    (s.setReg w r v).translate k o = s.translate k o := by simp [State.translate]
@[simp] theorem State.setReg_byteAt (s : State) (w : Width) (r : Reg) (v : Word) (adr : Nat) :
    (s.setReg w r v).byteAt adr = s.byteAt adr := by simp [State.byteAt]
@[simp] theorem State.setReg_wordAt (s : State) (w : Width) (r : Reg) (v : Word) (adr : Nat) :
    (s.setReg w r v).wordAt adr = s.wordAt adr := by simp [State.wordAt]
@[simp] theorem State.setReg_flagImage (s : State) (w : Width) (r : Reg) (v : Word) :
    (s.setReg w r v).flagImage = s.flagImage := by simp [State.flagImage]
@[simp] theorem State.setReg_seg (s : State) (w : Width) (r : Reg) (v : Word) (q : SReg) :
    (s.setReg w r v).seg q = s.seg q := by cases q <;> simp [State.seg]
@[simp] theorem State.setReg_cpl (s : State) (w : Width) (r : Reg) (v : Word) :
    (s.setReg w r v).cpl = s.cpl := by simp [State.cpl]

/-! ### `State.setReg16` -/

@[simp] theorem State.setReg16_physAddr (s : State) (r : Reg) (v : Word) (adr : Nat) :
    (s.setReg16 r v).physAddr adr = s.physAddr adr := by simp [State.physAddr]
@[simp] theorem State.setReg16_prot (s : State) (r : Reg) (v : Word) :
    (s.setReg16 r v).prot = s.prot := by simp [State.prot, State.pe]
@[simp] theorem State.setReg16_translate (s : State) (r : Reg) (v : Word) (k : Segment) (o : Word) :
    (s.setReg16 r v).translate k o = s.translate k o := by simp [State.translate]
@[simp] theorem State.setReg16_byteAt (s : State) (r : Reg) (v : Word) (adr : Nat) :
    (s.setReg16 r v).byteAt adr = s.byteAt adr := by simp [State.byteAt]
@[simp] theorem State.setReg16_wordAt (s : State) (r : Reg) (v : Word) (adr : Nat) :
    (s.setReg16 r v).wordAt adr = s.wordAt adr := by simp [State.wordAt]
@[simp] theorem State.setReg16_flagImage (s : State) (r : Reg) (v : Word) :
    (s.setReg16 r v).flagImage = s.flagImage := by simp [State.flagImage]
@[simp] theorem State.setReg16_seg (s : State) (r : Reg) (v : Word) (q : SReg) :
    (s.setReg16 r v).seg q = s.seg q := by cases q <;> simp [State.seg]
@[simp] theorem State.setReg16_cpl (s : State) (r : Reg) (v : Word) :
    (s.setReg16 r v).cpl = s.cpl := by simp [State.cpl]

/-! ### `State.setIp` -/

@[simp] theorem State.setIp_physAddr (s : State) (v : Word) (adr : Nat) :
    (s.setIp v).physAddr adr = s.physAddr adr := by simp [State.physAddr]
@[simp] theorem State.setIp_prot (s : State) (v : Word) : (s.setIp v).prot = s.prot := by simp [State.prot, State.pe]
@[simp] theorem State.setIp_translate (s : State) (v : Word) (k : Segment) (o : Word) :
    (s.setIp v).translate k o = s.translate k o := by simp [State.translate]
@[simp] theorem State.setIp_byteAt (s : State) (v : Word) (adr : Nat) :
    (s.setIp v).byteAt adr = s.byteAt adr := by simp [State.byteAt]
@[simp] theorem State.setIp_wordAt (s : State) (v : Word) (adr : Nat) :
    (s.setIp v).wordAt adr = s.wordAt adr := by simp [State.wordAt]
@[simp] theorem State.setIp_flagImage (s : State) (v : Word) :
    (s.setIp v).flagImage = s.flagImage := by simp [State.flagImage]
@[simp] theorem State.setIp_seg (s : State) (v : Word) (q : SReg) :
    (s.setIp v).seg q = s.seg q := by cases q <;> simp [State.seg]
@[simp] theorem State.setIp_cpl (s : State) (v : Word) : (s.setIp v).cpl = s.cpl := by simp [State.cpl]
@[simp] theorem State.setIp_reg16 (s : State) (v : Word) (q : Reg) :
    (s.setIp v).reg16 q = s.reg16 q := by simp [State.reg16]

/-! ### `State.setFlags` -/

@[simp] theorem State.setFlags_physAddr (s : State) (f : Flags) (adr : Nat) :
    (s.setFlags f).physAddr adr = s.physAddr adr := by simp [State.physAddr]
@[simp] theorem State.setFlags_prot (s : State) (f : Flags) :
    (s.setFlags f).prot = s.prot := by simp [State.prot, State.pe]
@[simp] theorem State.setFlags_translate (s : State) (f : Flags) (k : Segment) (o : Word) :
    (s.setFlags f).translate k o = s.translate k o := by simp [State.translate]
@[simp] theorem State.setFlags_byteAt (s : State) (f : Flags) (adr : Nat) :
    (s.setFlags f).byteAt adr = s.byteAt adr := by simp [State.byteAt]
@[simp] theorem State.setFlags_wordAt (s : State) (f : Flags) (adr : Nat) :
    (s.setFlags f).wordAt adr = s.wordAt adr := by simp [State.wordAt]
@[simp] theorem State.setFlags_seg (s : State) (f : Flags) (q : SReg) :
    (s.setFlags f).seg q = s.seg q := by cases q <;> simp [State.seg]
@[simp] theorem State.setFlags_cpl (s : State) (f : Flags) : (s.setFlags f).cpl = s.cpl := by simp [State.cpl]
@[simp] theorem State.setFlags_reg16 (s : State) (f : Flags) (q : Reg) :
    (s.setFlags f).reg16 q = s.reg16 q := by simp [State.reg16]

/-! ### `State.tick` -/

@[simp] theorem State.tick_physAddr (s : State) (n : Nat) (adr : Nat) :
    (s.tick n).physAddr adr = s.physAddr adr := by simp [State.physAddr]
@[simp] theorem State.tick_prot (s : State) (n : Nat) : (s.tick n).prot = s.prot := by simp [State.prot, State.pe]
@[simp] theorem State.tick_translate (s : State) (n : Nat) (k : Segment) (o : Word) :
    (s.tick n).translate k o = s.translate k o := by simp [State.translate]
@[simp] theorem State.tick_byteAt (s : State) (n : Nat) (adr : Nat) :
    (s.tick n).byteAt adr = s.byteAt adr := by simp [State.byteAt]
@[simp] theorem State.tick_wordAt (s : State) (n : Nat) (adr : Nat) :
    (s.tick n).wordAt adr = s.wordAt adr := by simp [State.wordAt]
@[simp] theorem State.tick_flagImage (s : State) (n : Nat) :
    (s.tick n).flagImage = s.flagImage := by simp [State.flagImage]
@[simp] theorem State.tick_seg (s : State) (n : Nat) (q : SReg) :
    (s.tick n).seg q = s.seg q := by cases q <;> simp [State.seg]
@[simp] theorem State.tick_cpl (s : State) (n : Nat) : (s.tick n).cpl = s.cpl := by simp [State.cpl]
@[simp] theorem State.tick_reg16 (s : State) (n : Nat) (q : Reg) :
    (s.tick n).reg16 q = s.reg16 q := by simp [State.reg16]

/-! ### `State.setSp` -/

@[simp] theorem State.setSp_physAddr (s : State) (v : Word) (adr : Nat) :
    (s.setSp v).physAddr adr = s.physAddr adr := by simp [State.physAddr]
@[simp] theorem State.setSp_prot (s : State) (v : Word) : (s.setSp v).prot = s.prot := by simp [State.prot, State.pe]
@[simp] theorem State.setSp_translate (s : State) (v : Word) (k : Segment) (o : Word) :
    (s.setSp v).translate k o = s.translate k o := by simp [State.translate]
@[simp] theorem State.setSp_byteAt (s : State) (v : Word) (adr : Nat) :
    (s.setSp v).byteAt adr = s.byteAt adr := by simp [State.byteAt]
@[simp] theorem State.setSp_wordAt (s : State) (v : Word) (adr : Nat) :
    (s.setSp v).wordAt adr = s.wordAt adr := by simp [State.wordAt]
@[simp] theorem State.setSp_flagImage (s : State) (v : Word) :
    (s.setSp v).flagImage = s.flagImage := by simp [State.flagImage]
@[simp] theorem State.setSp_seg (s : State) (v : Word) (q : SReg) :
    (s.setSp v).seg q = s.seg q := by cases q <;> simp [State.seg]
@[simp] theorem State.setSp_cpl (s : State) (v : Word) : (s.setSp v).cpl = s.cpl := by simp [State.cpl]

/-! ### `State.setSeg` -/

@[simp] theorem State.setSeg_physAddr (s : State) (r : SReg) (g : Segment) (adr : Nat) :
    (s.setSeg r g).physAddr adr = s.physAddr adr := by simp [State.physAddr]
@[simp] theorem State.setSeg_prot (s : State) (r : SReg) (g : Segment) :
    (s.setSeg r g).prot = s.prot := by simp [State.prot, State.pe]
@[simp] theorem State.setSeg_translate (s : State) (r : SReg) (g : Segment) (k : Segment) (o : Word) :
    (s.setSeg r g).translate k o = s.translate k o := by simp [State.translate]
@[simp] theorem State.setSeg_byteAt (s : State) (r : SReg) (g : Segment) (adr : Nat) :
    (s.setSeg r g).byteAt adr = s.byteAt adr := by simp [State.byteAt]
@[simp] theorem State.setSeg_wordAt (s : State) (r : SReg) (g : Segment) (adr : Nat) :
    (s.setSeg r g).wordAt adr = s.wordAt adr := by simp [State.wordAt]
@[simp] theorem State.setSeg_flagImage (s : State) (r : SReg) (g : Segment) :
    (s.setSeg r g).flagImage = s.flagImage := by simp [State.flagImage]
@[simp] theorem State.setSeg_reg16 (s : State) (r : SReg) (g : Segment) (q : Reg) :
    (s.setSeg r g).reg16 q = s.reg16 q := by simp [State.reg16]

/-! ### `State.dropStack` -/

@[simp] theorem State.dropStack_physAddr (s : State) (n : Word) (adr : Nat) :
    (s.dropStack n).physAddr adr = s.physAddr adr := by simp [State.physAddr]
@[simp] theorem State.dropStack_prot (s : State) (n : Word) :
    (s.dropStack n).prot = s.prot := by simp [State.prot, State.pe]
@[simp] theorem State.dropStack_translate (s : State) (n : Word) (k : Segment) (o : Word) :
    (s.dropStack n).translate k o = s.translate k o := by simp [State.translate]
@[simp] theorem State.dropStack_byteAt (s : State) (n : Word) (adr : Nat) :
    (s.dropStack n).byteAt adr = s.byteAt adr := by simp [State.byteAt]
@[simp] theorem State.dropStack_wordAt (s : State) (n : Word) (adr : Nat) :
    (s.dropStack n).wordAt adr = s.wordAt adr := by simp [State.wordAt]
@[simp] theorem State.dropStack_flagImage (s : State) (n : Word) :
    (s.dropStack n).flagImage = s.flagImage := by simp [State.flagImage]
@[simp] theorem State.dropStack_seg (s : State) (n : Word) (q : SReg) :
    (s.dropStack n).seg q = s.seg q := by cases q <;> simp [State.seg]
@[simp] theorem State.dropStack_cpl (s : State) (n : Word) : (s.dropStack n).cpl = s.cpl := by simp [State.cpl]

/-! ### `State.jumpTo` -/

@[simp] theorem State.jumpTo_physAddr (s : State) (off : Word) (adr : Nat) :
    (s.jumpTo off).physAddr adr = s.physAddr adr := by simp [State.physAddr]
@[simp] theorem State.jumpTo_prot (s : State) (off : Word) :
    (s.jumpTo off).prot = s.prot := by simp [State.prot, State.pe]
@[simp] theorem State.jumpTo_translate (s : State) (off : Word) (k : Segment) (o : Word) :
    (s.jumpTo off).translate k o = s.translate k o := by simp [State.translate]
@[simp] theorem State.jumpTo_byteAt (s : State) (off : Word) (adr : Nat) :
    (s.jumpTo off).byteAt adr = s.byteAt adr := by simp [State.byteAt]
@[simp] theorem State.jumpTo_wordAt (s : State) (off : Word) (adr : Nat) :
    (s.jumpTo off).wordAt adr = s.wordAt adr := by simp [State.wordAt]
@[simp] theorem State.jumpTo_flagImage (s : State) (off : Word) :
    (s.jumpTo off).flagImage = s.flagImage := by simp [State.flagImage]
@[simp] theorem State.jumpTo_seg (s : State) (off : Word) (q : SReg) :
    (s.jumpTo off).seg q = s.seg q := by cases q <;> simp [State.seg]
@[simp] theorem State.jumpTo_cpl (s : State) (off : Word) : (s.jumpTo off).cpl = s.cpl := by simp [State.cpl]
@[simp] theorem State.jumpTo_reg16 (s : State) (off : Word) (q : Reg) :
    (s.jumpTo off).reg16 q = s.reg16 q := by simp [State.reg16]

/-! ### `State.enterReal` -/

@[simp] theorem State.enterReal_physAddr (s : State) (sel off : Word) (adr : Nat) :
    (s.enterReal sel off).physAddr adr = s.physAddr adr := by simp [State.physAddr]
@[simp] theorem State.enterReal_prot (s : State) (sel off : Word) :
    (s.enterReal sel off).prot = s.prot := by simp [State.prot, State.pe]
@[simp] theorem State.enterReal_translate (s : State) (sel off : Word) (k : Segment) (o : Word) :
    (s.enterReal sel off).translate k o = s.translate k o := by simp [State.translate]
@[simp] theorem State.enterReal_byteAt (s : State) (sel off : Word) (adr : Nat) :
    (s.enterReal sel off).byteAt adr = s.byteAt adr := by simp [State.byteAt]
@[simp] theorem State.enterReal_wordAt (s : State) (sel off : Word) (adr : Nat) :
    (s.enterReal sel off).wordAt adr = s.wordAt adr := by simp [State.wordAt]
@[simp] theorem State.enterReal_flagImage (s : State) (sel off : Word) :
    (s.enterReal sel off).flagImage = s.flagImage := by simp [State.flagImage]
@[simp] theorem State.enterReal_reg16 (s : State) (sel off : Word) (q : Reg) :
    (s.enterReal sel off).reg16 q = s.reg16 q := by simp [State.reg16]

/-! ### `State.goOn` -/

@[simp] theorem State.goOn_physAddr (s : State) (p : Progress) (adr : Nat) :
    (s.goOn p).physAddr adr = s.physAddr adr := by simp [State.physAddr]
@[simp] theorem State.goOn_byteAt (s : State) (p : Progress) (adr : Nat) :
    (s.goOn p).byteAt adr = s.byteAt adr := by simp [State.byteAt]
@[simp] theorem State.goOn_wordAt (s : State) (p : Progress) (adr : Nat) :
    (s.goOn p).wordAt adr = s.wordAt adr := by simp [State.wordAt]
@[simp] theorem State.goOn_flagImage (s : State) (p : Progress) :
    (s.goOn p).flagImage = s.flagImage := by simp [State.flagImage]
@[simp] theorem State.goOn_seg (s : State) (p : Progress) (q : SReg) :
    (s.goOn p).seg q = s.seg q := by cases q <;> simp [State.seg]
@[simp] theorem State.goOn_reg16 (s : State) (p : Progress) (q : Reg) :
    (s.goOn p).reg16 q = s.reg16 q := by simp [State.reg16]

/-! ### `State.setTaskSwitched` -/

@[simp] theorem State.setTaskSwitched_physAddr (s : State) (b : Bool) (adr : Nat) :
    (s.setTaskSwitched b).physAddr adr = s.physAddr adr := by simp [State.physAddr]
@[simp] theorem State.setTaskSwitched_byteAt (s : State) (b : Bool) (adr : Nat) :
    (s.setTaskSwitched b).byteAt adr = s.byteAt adr := by simp [State.byteAt]
@[simp] theorem State.setTaskSwitched_wordAt (s : State) (b : Bool) (adr : Nat) :
    (s.setTaskSwitched b).wordAt adr = s.wordAt adr := by simp [State.wordAt]
@[simp] theorem State.setTaskSwitched_flagImage (s : State) (b : Bool) :
    (s.setTaskSwitched b).flagImage = s.flagImage := by simp [State.flagImage]
@[simp] theorem State.setTaskSwitched_seg (s : State) (b : Bool) (q : SReg) :
    (s.setTaskSwitched b).seg q = s.seg q := by cases q <;> simp [State.seg]
@[simp] theorem State.setTaskSwitched_reg16 (s : State) (b : Bool) (q : Reg) :
    (s.setTaskSwitched b).reg16 q = s.reg16 q := by simp [State.reg16]

/-! ### `State.inhibitAll` -/

@[simp] theorem State.inhibitAll_physAddr (s : State) (adr : Nat) :
    (s.inhibitAll).physAddr adr = s.physAddr adr := by simp [State.physAddr]
@[simp] theorem State.inhibitAll_prot (s : State) : (s.inhibitAll).prot = s.prot := by simp [State.prot, State.pe]
@[simp] theorem State.inhibitAll_translate (s : State) (k : Segment) (o : Word) :
    (s.inhibitAll).translate k o = s.translate k o := by simp [State.translate]
@[simp] theorem State.inhibitAll_byteAt (s : State) (adr : Nat) :
    (s.inhibitAll).byteAt adr = s.byteAt adr := by simp [State.byteAt]
@[simp] theorem State.inhibitAll_wordAt (s : State) (adr : Nat) :
    (s.inhibitAll).wordAt adr = s.wordAt adr := by simp [State.wordAt]
@[simp] theorem State.inhibitAll_flagImage (s : State) :
    (s.inhibitAll).flagImage = s.flagImage := by simp [State.flagImage]
@[simp] theorem State.inhibitAll_seg (s : State) (q : SReg) :
    (s.inhibitAll).seg q = s.seg q := by cases q <;> simp [State.seg]
@[simp] theorem State.inhibitAll_cpl (s : State) : (s.inhibitAll).cpl = s.cpl := by simp [State.cpl]
@[simp] theorem State.inhibitAll_reg16 (s : State) (q : Reg) :
    (s.inhibitAll).reg16 q = s.reg16 q := by simp [State.reg16]

/-! ### `State.taken` -/

@[simp] theorem State.taken_physAddr (s : State) (adr : Nat) :
    (s.taken).physAddr adr = s.physAddr adr := by simp [State.physAddr]
@[simp] theorem State.taken_byteAt (s : State) (adr : Nat) :
    (s.taken).byteAt adr = s.byteAt adr := by simp [State.byteAt]
@[simp] theorem State.taken_wordAt (s : State) (adr : Nat) :
    (s.taken).wordAt adr = s.wordAt adr := by simp [State.wordAt]
@[simp] theorem State.taken_flagImage (s : State) : (s.taken).flagImage = s.flagImage := by simp [State.flagImage]
@[simp] theorem State.taken_seg (s : State) (q : SReg) : (s.taken).seg q = s.seg q := by cases q <;> simp [State.seg]
@[simp] theorem State.taken_reg16 (s : State) (q : Reg) : (s.taken).reg16 q = s.reg16 q := by simp [State.reg16]

/-! ### `State.shutDown` -/

@[simp] theorem State.shutDown_physAddr (s : State) (adr : Nat) :
    (s.shutDown).physAddr adr = s.physAddr adr := by simp [State.physAddr]
@[simp] theorem State.shutDown_prot (s : State) : (s.shutDown).prot = s.prot := by simp [State.prot, State.pe]
@[simp] theorem State.shutDown_translate (s : State) (k : Segment) (o : Word) :
    (s.shutDown).translate k o = s.translate k o := by simp [State.translate]
@[simp] theorem State.shutDown_byteAt (s : State) (adr : Nat) :
    (s.shutDown).byteAt adr = s.byteAt adr := by simp [State.byteAt]
@[simp] theorem State.shutDown_wordAt (s : State) (adr : Nat) :
    (s.shutDown).wordAt adr = s.wordAt adr := by simp [State.wordAt]
@[simp] theorem State.shutDown_flagImage (s : State) :
    (s.shutDown).flagImage = s.flagImage := by simp [State.flagImage]
@[simp] theorem State.shutDown_seg (s : State) (q : SReg) :
    (s.shutDown).seg q = s.seg q := by cases q <;> simp [State.seg]
@[simp] theorem State.shutDown_cpl (s : State) : (s.shutDown).cpl = s.cpl := by simp [State.cpl]
@[simp] theorem State.shutDown_reg16 (s : State) (q : Reg) : (s.shutDown).reg16 q = s.reg16 q := by simp [State.reg16]

/-! ### `State.unlocked` -/

@[simp] theorem State.unlocked_physAddr (s : State) (adr : Nat) :
    (s.unlocked).physAddr adr = s.physAddr adr := by simp [State.physAddr]
@[simp] theorem State.unlocked_byteAt (s : State) (adr : Nat) :
    (s.unlocked).byteAt adr = s.byteAt adr := by simp [State.byteAt]
@[simp] theorem State.unlocked_wordAt (s : State) (adr : Nat) :
    (s.unlocked).wordAt adr = s.wordAt adr := by simp [State.wordAt]
@[simp] theorem State.unlocked_flagImage (s : State) :
    (s.unlocked).flagImage = s.flagImage := by simp [State.flagImage]
@[simp] theorem State.unlocked_seg (s : State) (q : SReg) :
    (s.unlocked).seg q = s.seg q := by cases q <;> simp [State.seg]
@[simp] theorem State.unlocked_reg16 (s : State) (q : Reg) : (s.unlocked).reg16 q = s.reg16 q := by simp [State.reg16]

/-! ### `State.leavePending` -/

@[simp] theorem State.leavePending_physAddr (s : State) (e : Exc) (adr : Nat) :
    (s.leavePending e).physAddr adr = s.physAddr adr := by simp [State.physAddr]
@[simp] theorem State.leavePending_prot (s : State) (e : Exc) :
    (s.leavePending e).prot = s.prot := by simp [State.prot, State.pe]
@[simp] theorem State.leavePending_translate (s : State) (e : Exc) (k : Segment) (o : Word) :
    (s.leavePending e).translate k o = s.translate k o := by simp [State.translate]
@[simp] theorem State.leavePending_byteAt (s : State) (e : Exc) (adr : Nat) :
    (s.leavePending e).byteAt adr = s.byteAt adr := by simp [State.byteAt]
@[simp] theorem State.leavePending_wordAt (s : State) (e : Exc) (adr : Nat) :
    (s.leavePending e).wordAt adr = s.wordAt adr := by simp [State.wordAt]
@[simp] theorem State.leavePending_flagImage (s : State) (e : Exc) :
    (s.leavePending e).flagImage = s.flagImage := by simp [State.flagImage]
@[simp] theorem State.leavePending_seg (s : State) (e : Exc) (q : SReg) :
    (s.leavePending e).seg q = s.seg q := by cases q <;> simp [State.seg]
@[simp] theorem State.leavePending_cpl (s : State) (e : Exc) : (s.leavePending e).cpl = s.cpl := by simp [State.cpl]
@[simp] theorem State.leavePending_reg16 (s : State) (e : Exc) (q : Reg) :
    (s.leavePending e).reg16 q = s.reg16 q := by simp [State.reg16]

/-! ### `State.endNmi` -/

@[simp] theorem State.endNmi_physAddr (s : State) (adr : Nat) :
    (s.endNmi).physAddr adr = s.physAddr adr := by simp [State.physAddr]
@[simp] theorem State.endNmi_prot (s : State) : (s.endNmi).prot = s.prot := by simp [State.prot, State.pe]
@[simp] theorem State.endNmi_translate (s : State) (k : Segment) (o : Word) :
    (s.endNmi).translate k o = s.translate k o := by simp [State.translate]
@[simp] theorem State.endNmi_byteAt (s : State) (adr : Nat) :
    (s.endNmi).byteAt adr = s.byteAt adr := by simp [State.byteAt]
@[simp] theorem State.endNmi_wordAt (s : State) (adr : Nat) :
    (s.endNmi).wordAt adr = s.wordAt adr := by simp [State.wordAt]
@[simp] theorem State.endNmi_flagImage (s : State) : (s.endNmi).flagImage = s.flagImage := by simp [State.flagImage]
@[simp] theorem State.endNmi_seg (s : State) (q : SReg) :
    (s.endNmi).seg q = s.seg q := by cases q <;> simp [State.seg]
@[simp] theorem State.endNmi_cpl (s : State) : (s.endNmi).cpl = s.cpl := by simp [State.cpl]
@[simp] theorem State.endNmi_reg16 (s : State) (q : Reg) : (s.endNmi).reg16 q = s.reg16 q := by simp [State.reg16]

/-! ### `State.setRepeat` -/

@[simp] theorem State.setRepeat_physAddr (s : State) (p : Repeat) (adr : Nat) :
    (s.setRepeat p).physAddr adr = s.physAddr adr := by simp [State.physAddr]
@[simp] theorem State.setRepeat_byteAt (s : State) (p : Repeat) (adr : Nat) :
    (s.setRepeat p).byteAt adr = s.byteAt adr := by simp [State.byteAt]
@[simp] theorem State.setRepeat_wordAt (s : State) (p : Repeat) (adr : Nat) :
    (s.setRepeat p).wordAt adr = s.wordAt adr := by simp [State.wordAt]
@[simp] theorem State.setRepeat_flagImage (s : State) (p : Repeat) :
    (s.setRepeat p).flagImage = s.flagImage := by simp [State.flagImage]
@[simp] theorem State.setRepeat_seg (s : State) (p : Repeat) (q : SReg) :
    (s.setRepeat p).seg q = s.seg q := by cases q <;> simp [State.seg]
@[simp] theorem State.setRepeat_reg16 (s : State) (p : Repeat) (q : Reg) :
    (s.setRepeat p).reg16 q = s.reg16 q := by simp [State.reg16]

/-! ### `State.putByte` -/

@[simp] theorem State.putByte_physAddr (s : State) (a : Nat) (v : Byte) (adr : Nat) :
    (s.putByte a v).physAddr adr = s.physAddr adr := by simp [State.physAddr]
@[simp] theorem State.putByte_prot (s : State) (a : Nat) (v : Byte) :
    (s.putByte a v).prot = s.prot := by simp [State.prot, State.pe]
@[simp] theorem State.putByte_translate (s : State) (a : Nat) (v : Byte) (k : Segment) (o : Word) :
    (s.putByte a v).translate k o = s.translate k o := by simp [State.translate]
@[simp] theorem State.putByte_flagImage (s : State) (a : Nat) (v : Byte) :
    (s.putByte a v).flagImage = s.flagImage := by simp [State.flagImage]
@[simp] theorem State.putByte_seg (s : State) (a : Nat) (v : Byte) (q : SReg) :
    (s.putByte a v).seg q = s.seg q := by cases q <;> simp [State.seg]
@[simp] theorem State.putByte_cpl (s : State) (a : Nat) (v : Byte) :
    (s.putByte a v).cpl = s.cpl := by simp [State.cpl]
@[simp] theorem State.putByte_reg16 (s : State) (a : Nat) (v : Byte) (q : Reg) :
    (s.putByte a v).reg16 q = s.reg16 q := by simp [State.reg16]

/-! ### `State.putWord` -/

@[simp] theorem State.putWord_physAddr (s : State) (a : Nat) (v : Word) (adr : Nat) :
    (s.putWord a v).physAddr adr = s.physAddr adr := by simp [State.physAddr]
@[simp] theorem State.putWord_prot (s : State) (a : Nat) (v : Word) :
    (s.putWord a v).prot = s.prot := by simp [State.prot, State.pe]
@[simp] theorem State.putWord_translate (s : State) (a : Nat) (v : Word) (k : Segment) (o : Word) :
    (s.putWord a v).translate k o = s.translate k o := by simp [State.translate]
@[simp] theorem State.putWord_flagImage (s : State) (a : Nat) (v : Word) :
    (s.putWord a v).flagImage = s.flagImage := by simp [State.flagImage]
@[simp] theorem State.putWord_seg (s : State) (a : Nat) (v : Word) (q : SReg) :
    (s.putWord a v).seg q = s.seg q := by cases q <;> simp [State.seg]
@[simp] theorem State.putWord_cpl (s : State) (a : Nat) (v : Word) :
    (s.putWord a v).cpl = s.cpl := by simp [State.cpl]
@[simp] theorem State.putWord_reg16 (s : State) (a : Nat) (v : Word) (q : Reg) :
    (s.putWord a v).reg16 q = s.reg16 q := by simp [State.reg16]

/-! ### `State.store` -/

@[simp] theorem State.store_physAddr (s : State) (w : Width) (g : Segment) (off v : Word) (adr : Nat) :
    (s.store w g off v).physAddr adr = s.physAddr adr := by simp [State.physAddr]
@[simp] theorem State.store_prot (s : State) (w : Width) (g : Segment) (off v : Word) :
    (s.store w g off v).prot = s.prot := by simp [State.prot, State.pe]
@[simp] theorem State.store_translate (s : State) (w : Width) (g : Segment) (off v : Word) (k : Segment) (o : Word) :
    (s.store w g off v).translate k o = s.translate k o := by simp [State.translate]
@[simp] theorem State.store_flagImage (s : State) (w : Width) (g : Segment) (off v : Word) :
    (s.store w g off v).flagImage = s.flagImage := by simp [State.flagImage]
@[simp] theorem State.store_seg (s : State) (w : Width) (g : Segment) (off v : Word) (q : SReg) :
    (s.store w g off v).seg q = s.seg q := by cases q <;> simp [State.seg]
@[simp] theorem State.store_cpl (s : State) (w : Width) (g : Segment) (off v : Word) :
    (s.store w g off v).cpl = s.cpl := by simp [State.cpl]
@[simp] theorem State.store_reg16 (s : State) (w : Width) (g : Segment) (off v : Word) (q : Reg) :
    (s.store w g off v).reg16 q = s.reg16 q := by simp [State.reg16]

/-! ### `State.putStack` -/

@[simp] theorem State.putStack_physAddr (s : State) (off v : Word) (adr : Nat) :
    (s.putStack off v).physAddr adr = s.physAddr adr := by simp [State.physAddr]
@[simp] theorem State.putStack_prot (s : State) (off v : Word) :
    (s.putStack off v).prot = s.prot := by simp [State.prot, State.pe]
@[simp] theorem State.putStack_translate (s : State) (off v : Word) (k : Segment) (o : Word) :
    (s.putStack off v).translate k o = s.translate k o := by simp [State.translate]
@[simp] theorem State.putStack_flagImage (s : State) (off v : Word) :
    (s.putStack off v).flagImage = s.flagImage := by simp [State.flagImage]
@[simp] theorem State.putStack_seg (s : State) (off v : Word) (q : SReg) :
    (s.putStack off v).seg q = s.seg q := by cases q <;> simp [State.seg]
@[simp] theorem State.putStack_cpl (s : State) (off v : Word) : (s.putStack off v).cpl = s.cpl := by simp [State.cpl]
@[simp] theorem State.putStack_reg16 (s : State) (off v : Word) (q : Reg) :
    (s.putStack off v).reg16 q = s.reg16 q := by simp [State.reg16]

/-! ### `State.markAccessed` -/

@[simp] theorem State.markAccessed_physAddr (s : State) (d : Desc) (adr : Nat) :
    (s.markAccessed d).physAddr adr = s.physAddr adr := by simp [State.physAddr]
@[simp] theorem State.markAccessed_prot (s : State) (d : Desc) :
    (s.markAccessed d).prot = s.prot := by simp [State.prot, State.pe]
@[simp] theorem State.markAccessed_translate (s : State) (d : Desc) (k : Segment) (o : Word) :
    (s.markAccessed d).translate k o = s.translate k o := by simp [State.translate]
@[simp] theorem State.markAccessed_flagImage (s : State) (d : Desc) :
    (s.markAccessed d).flagImage = s.flagImage := by simp [State.flagImage]
@[simp] theorem State.markAccessed_seg (s : State) (d : Desc) (q : SReg) :
    (s.markAccessed d).seg q = s.seg q := by cases q <;> simp [State.seg]
@[simp] theorem State.markAccessed_cpl (s : State) (d : Desc) : (s.markAccessed d).cpl = s.cpl := by simp [State.cpl]
@[simp] theorem State.markAccessed_reg16 (s : State) (d : Desc) (q : Reg) :
    (s.markAccessed d).reg16 q = s.reg16 q := by simp [State.reg16]

/-! ### `State.setBusy` -/

@[simp] theorem State.setBusy_physAddr (s : State) (sel : Word) (b : Bool) (adr : Nat) :
    (s.setBusy sel b).physAddr adr = s.physAddr adr := by simp [State.physAddr]
@[simp] theorem State.setBusy_prot (s : State) (sel : Word) (b : Bool) :
    (s.setBusy sel b).prot = s.prot := by simp [State.prot, State.pe]
@[simp] theorem State.setBusy_translate (s : State) (sel : Word) (b : Bool) (k : Segment) (o : Word) :
    (s.setBusy sel b).translate k o = s.translate k o := by simp [State.translate]
@[simp] theorem State.setBusy_flagImage (s : State) (sel : Word) (b : Bool) :
    (s.setBusy sel b).flagImage = s.flagImage := by simp [State.flagImage]
@[simp] theorem State.setBusy_seg (s : State) (sel : Word) (b : Bool) (q : SReg) :
    (s.setBusy sel b).seg q = s.seg q := by cases q <;> simp [State.seg]
@[simp] theorem State.setBusy_cpl (s : State) (sel : Word) (b : Bool) :
    (s.setBusy sel b).cpl = s.cpl := by simp [State.cpl]
@[simp] theorem State.setBusy_reg16 (s : State) (sel : Word) (b : Bool) (q : Reg) :
    (s.setBusy sel b).reg16 q = s.reg16 q := by simp [State.reg16]

/-! ### `State.aluFlags` -/

@[simp] theorem State.aluFlags_physAddr (s : State) (op : AluOp) (w : Width) (a b : Word) (adr : Nat) :
    (s.aluFlags op w a b).physAddr adr = s.physAddr adr := by simp [State.physAddr]
@[simp] theorem State.aluFlags_prot (s : State) (op : AluOp) (w : Width) (a b : Word) :
    (s.aluFlags op w a b).prot = s.prot := by simp [State.prot, State.pe]
@[simp] theorem State.aluFlags_translate (s : State) (op : AluOp) (w : Width) (a b : Word) (k : Segment) (o : Word) :
    (s.aluFlags op w a b).translate k o = s.translate k o := by simp [State.translate]
@[simp] theorem State.aluFlags_byteAt (s : State) (op : AluOp) (w : Width) (a b : Word) (adr : Nat) :
    (s.aluFlags op w a b).byteAt adr = s.byteAt adr := by simp [State.byteAt]
@[simp] theorem State.aluFlags_wordAt (s : State) (op : AluOp) (w : Width) (a b : Word) (adr : Nat) :
    (s.aluFlags op w a b).wordAt adr = s.wordAt adr := by simp [State.wordAt]
@[simp] theorem State.aluFlags_seg (s : State) (op : AluOp) (w : Width) (a b : Word) (q : SReg) :
    (s.aluFlags op w a b).seg q = s.seg q := by cases q <;> simp [State.seg]
@[simp] theorem State.aluFlags_cpl (s : State) (op : AluOp) (w : Width) (a b : Word) :
    (s.aluFlags op w a b).cpl = s.cpl := by simp [State.cpl]
@[simp] theorem State.aluFlags_reg16 (s : State) (op : AluOp) (w : Width) (a b : Word) (q : Reg) :
    (s.aluFlags op w a b).reg16 q = s.reg16 q := by simp [State.reg16]

/-! ### `State.mulFlags` -/

@[simp] theorem State.mulFlags_physAddr (s : State) (b : Bool) (adr : Nat) :
    (s.mulFlags b).physAddr adr = s.physAddr adr := by simp [State.physAddr]
@[simp] theorem State.mulFlags_prot (s : State) (b : Bool) :
    (s.mulFlags b).prot = s.prot := by simp [State.prot, State.pe]
@[simp] theorem State.mulFlags_translate (s : State) (b : Bool) (k : Segment) (o : Word) :
    (s.mulFlags b).translate k o = s.translate k o := by simp [State.translate]
@[simp] theorem State.mulFlags_byteAt (s : State) (b : Bool) (adr : Nat) :
    (s.mulFlags b).byteAt adr = s.byteAt adr := by simp [State.byteAt]
@[simp] theorem State.mulFlags_wordAt (s : State) (b : Bool) (adr : Nat) :
    (s.mulFlags b).wordAt adr = s.wordAt adr := by simp [State.wordAt]
@[simp] theorem State.mulFlags_seg (s : State) (b : Bool) (q : SReg) :
    (s.mulFlags b).seg q = s.seg q := by cases q <;> simp [State.seg]
@[simp] theorem State.mulFlags_cpl (s : State) (b : Bool) : (s.mulFlags b).cpl = s.cpl := by simp [State.cpl]
@[simp] theorem State.mulFlags_reg16 (s : State) (b : Bool) (q : Reg) :
    (s.mulFlags b).reg16 q = s.reg16 q := by simp [State.reg16]

/-! ### `State.divFlags` -/

@[simp] theorem State.divFlags_physAddr (s : State) (adr : Nat) :
    (s.divFlags).physAddr adr = s.physAddr adr := by simp [State.physAddr]
@[simp] theorem State.divFlags_prot (s : State) : (s.divFlags).prot = s.prot := by simp [State.prot, State.pe]
@[simp] theorem State.divFlags_translate (s : State) (k : Segment) (o : Word) :
    (s.divFlags).translate k o = s.translate k o := by simp [State.translate]
@[simp] theorem State.divFlags_byteAt (s : State) (adr : Nat) :
    (s.divFlags).byteAt adr = s.byteAt adr := by simp [State.byteAt]
@[simp] theorem State.divFlags_wordAt (s : State) (adr : Nat) :
    (s.divFlags).wordAt adr = s.wordAt adr := by simp [State.wordAt]
@[simp] theorem State.divFlags_seg (s : State) (q : SReg) :
    (s.divFlags).seg q = s.seg q := by cases q <;> simp [State.seg]
@[simp] theorem State.divFlags_cpl (s : State) : (s.divFlags).cpl = s.cpl := by simp [State.cpl]
@[simp] theorem State.divFlags_reg16 (s : State) (q : Reg) : (s.divFlags).reg16 q = s.reg16 q := by simp [State.reg16]

/-! ### `State.asciiFlags` -/

@[simp] theorem State.asciiFlags_physAddr (s : State) (b : Bool) (adr : Nat) :
    (s.asciiFlags b).physAddr adr = s.physAddr adr := by simp [State.physAddr]
@[simp] theorem State.asciiFlags_prot (s : State) (b : Bool) :
    (s.asciiFlags b).prot = s.prot := by simp [State.prot, State.pe]
@[simp] theorem State.asciiFlags_translate (s : State) (b : Bool) (k : Segment) (o : Word) :
    (s.asciiFlags b).translate k o = s.translate k o := by simp [State.translate]
@[simp] theorem State.asciiFlags_byteAt (s : State) (b : Bool) (adr : Nat) :
    (s.asciiFlags b).byteAt adr = s.byteAt adr := by simp [State.byteAt]
@[simp] theorem State.asciiFlags_wordAt (s : State) (b : Bool) (adr : Nat) :
    (s.asciiFlags b).wordAt adr = s.wordAt adr := by simp [State.wordAt]
@[simp] theorem State.asciiFlags_seg (s : State) (b : Bool) (q : SReg) :
    (s.asciiFlags b).seg q = s.seg q := by cases q <;> simp [State.seg]
@[simp] theorem State.asciiFlags_cpl (s : State) (b : Bool) : (s.asciiFlags b).cpl = s.cpl := by simp [State.cpl]
@[simp] theorem State.asciiFlags_reg16 (s : State) (b : Bool) (q : Reg) :
    (s.asciiFlags b).reg16 q = s.reg16 q := by simp [State.reg16]

/-! ### `State.decimalFlags` -/

@[simp] theorem State.decimalFlags_physAddr (s : State) (al : Byte) (x y : Bool) (adr : Nat) :
    (s.decimalFlags al x y).physAddr adr = s.physAddr adr := by simp [State.physAddr]
@[simp] theorem State.decimalFlags_prot (s : State) (al : Byte) (x y : Bool) :
    (s.decimalFlags al x y).prot = s.prot := by simp [State.prot, State.pe]
@[simp] theorem State.decimalFlags_translate (s : State) (al : Byte) (x y : Bool) (k : Segment) (o : Word) :
    (s.decimalFlags al x y).translate k o = s.translate k o := by simp [State.translate]
@[simp] theorem State.decimalFlags_byteAt (s : State) (al : Byte) (x y : Bool) (adr : Nat) :
    (s.decimalFlags al x y).byteAt adr = s.byteAt adr := by simp [State.byteAt]
@[simp] theorem State.decimalFlags_wordAt (s : State) (al : Byte) (x y : Bool) (adr : Nat) :
    (s.decimalFlags al x y).wordAt adr = s.wordAt adr := by simp [State.wordAt]
@[simp] theorem State.decimalFlags_seg (s : State) (al : Byte) (x y : Bool) (q : SReg) :
    (s.decimalFlags al x y).seg q = s.seg q := by cases q <;> simp [State.seg]
@[simp] theorem State.decimalFlags_cpl (s : State) (al : Byte) (x y : Bool) :
    (s.decimalFlags al x y).cpl = s.cpl := by simp [State.cpl]
@[simp] theorem State.decimalFlags_reg16 (s : State) (al : Byte) (x y : Bool) (q : Reg) :
    (s.decimalFlags al x y).reg16 q = s.reg16 q := by simp [State.reg16]

/-! ### `State.asciiMulFlags` -/

@[simp] theorem State.asciiMulFlags_physAddr (s : State) (al : Byte) (adr : Nat) :
    (s.asciiMulFlags al).physAddr adr = s.physAddr adr := by simp [State.physAddr]
@[simp] theorem State.asciiMulFlags_prot (s : State) (al : Byte) :
    (s.asciiMulFlags al).prot = s.prot := by simp [State.prot, State.pe]
@[simp] theorem State.asciiMulFlags_translate (s : State) (al : Byte) (k : Segment) (o : Word) :
    (s.asciiMulFlags al).translate k o = s.translate k o := by simp [State.translate]
@[simp] theorem State.asciiMulFlags_byteAt (s : State) (al : Byte) (adr : Nat) :
    (s.asciiMulFlags al).byteAt adr = s.byteAt adr := by simp [State.byteAt]
@[simp] theorem State.asciiMulFlags_wordAt (s : State) (al : Byte) (adr : Nat) :
    (s.asciiMulFlags al).wordAt adr = s.wordAt adr := by simp [State.wordAt]
@[simp] theorem State.asciiMulFlags_seg (s : State) (al : Byte) (q : SReg) :
    (s.asciiMulFlags al).seg q = s.seg q := by cases q <;> simp [State.seg]
@[simp] theorem State.asciiMulFlags_cpl (s : State) (al : Byte) :
    (s.asciiMulFlags al).cpl = s.cpl := by simp [State.cpl]
@[simp] theorem State.asciiMulFlags_reg16 (s : State) (al : Byte) (q : Reg) :
    (s.asciiMulFlags al).reg16 q = s.reg16 q := by simp [State.reg16]

/-! ### `State.setPair` -/

@[simp] theorem State.setPair_physAddr (s : State) (x y : Word) (adr : Nat) :
    (s.setPair x y).physAddr adr = s.physAddr adr := by simp [State.physAddr]
@[simp] theorem State.setPair_prot (s : State) (x y : Word) :
    (s.setPair x y).prot = s.prot := by simp [State.prot, State.pe]
@[simp] theorem State.setPair_translate (s : State) (x y : Word) (k : Segment) (o : Word) :
    (s.setPair x y).translate k o = s.translate k o := by simp [State.translate]
@[simp] theorem State.setPair_byteAt (s : State) (x y : Word) (adr : Nat) :
    (s.setPair x y).byteAt adr = s.byteAt adr := by simp [State.byteAt]
@[simp] theorem State.setPair_wordAt (s : State) (x y : Word) (adr : Nat) :
    (s.setPair x y).wordAt adr = s.wordAt adr := by simp [State.wordAt]
@[simp] theorem State.setPair_flagImage (s : State) (x y : Word) :
    (s.setPair x y).flagImage = s.flagImage := by simp [State.flagImage]
@[simp] theorem State.setPair_seg (s : State) (x y : Word) (q : SReg) :
    (s.setPair x y).seg q = s.seg q := by cases q <;> simp [State.seg]
@[simp] theorem State.setPair_cpl (s : State) (x y : Word) : (s.setPair x y).cpl = s.cpl := by simp [State.cpl]

/-! ### `State.setAlAh` -/

@[simp] theorem State.setAlAh_physAddr (s : State) (x y : Byte) (adr : Nat) :
    (s.setAlAh x y).physAddr adr = s.physAddr adr := by simp [State.physAddr]
@[simp] theorem State.setAlAh_prot (s : State) (x y : Byte) :
    (s.setAlAh x y).prot = s.prot := by simp [State.prot, State.pe]
@[simp] theorem State.setAlAh_translate (s : State) (x y : Byte) (k : Segment) (o : Word) :
    (s.setAlAh x y).translate k o = s.translate k o := by simp [State.translate]
@[simp] theorem State.setAlAh_byteAt (s : State) (x y : Byte) (adr : Nat) :
    (s.setAlAh x y).byteAt adr = s.byteAt adr := by simp [State.byteAt]
@[simp] theorem State.setAlAh_wordAt (s : State) (x y : Byte) (adr : Nat) :
    (s.setAlAh x y).wordAt adr = s.wordAt adr := by simp [State.wordAt]
@[simp] theorem State.setAlAh_flagImage (s : State) (x y : Byte) :
    (s.setAlAh x y).flagImage = s.flagImage := by simp [State.flagImage]
@[simp] theorem State.setAlAh_seg (s : State) (x y : Byte) (q : SReg) :
    (s.setAlAh x y).seg q = s.seg q := by cases q <;> simp [State.seg]
@[simp] theorem State.setAlAh_cpl (s : State) (x y : Byte) : (s.setAlAh x y).cpl = s.cpl := by simp [State.cpl]

/-! ### `State.setZf` -/

@[simp] theorem State.setZf_physAddr (s : State) (b : Bool) (adr : Nat) :
    (s.setZf b).physAddr adr = s.physAddr adr := by simp [State.physAddr]
@[simp] theorem State.setZf_prot (s : State) (b : Bool) : (s.setZf b).prot = s.prot := by simp [State.prot, State.pe]
@[simp] theorem State.setZf_translate (s : State) (b : Bool) (k : Segment) (o : Word) :
    (s.setZf b).translate k o = s.translate k o := by simp [State.translate]
@[simp] theorem State.setZf_byteAt (s : State) (b : Bool) (adr : Nat) :
    (s.setZf b).byteAt adr = s.byteAt adr := by simp [State.byteAt]
@[simp] theorem State.setZf_wordAt (s : State) (b : Bool) (adr : Nat) :
    (s.setZf b).wordAt adr = s.wordAt adr := by simp [State.wordAt]
@[simp] theorem State.setZf_seg (s : State) (b : Bool) (q : SReg) :
    (s.setZf b).seg q = s.seg q := by cases q <;> simp [State.seg]
@[simp] theorem State.setZf_cpl (s : State) (b : Bool) : (s.setZf b).cpl = s.cpl := by simp [State.cpl]
@[simp] theorem State.setZf_reg16 (s : State) (b : Bool) (q : Reg) :
    (s.setZf b).reg16 q = s.reg16 q := by simp [State.reg16]

/-! ### `State.advance` -/

@[simp] theorem State.advance_physAddr (s : State) (w : Width) (r : Reg) (adr : Nat) :
    (s.advance w r).physAddr adr = s.physAddr adr := by simp [State.physAddr]
@[simp] theorem State.advance_prot (s : State) (w : Width) (r : Reg) :
    (s.advance w r).prot = s.prot := by simp [State.prot, State.pe]
@[simp] theorem State.advance_translate (s : State) (w : Width) (r : Reg) (k : Segment) (o : Word) :
    (s.advance w r).translate k o = s.translate k o := by simp [State.translate]
@[simp] theorem State.advance_byteAt (s : State) (w : Width) (r : Reg) (adr : Nat) :
    (s.advance w r).byteAt adr = s.byteAt adr := by simp [State.byteAt]
@[simp] theorem State.advance_wordAt (s : State) (w : Width) (r : Reg) (adr : Nat) :
    (s.advance w r).wordAt adr = s.wordAt adr := by simp [State.wordAt]
@[simp] theorem State.advance_flagImage (s : State) (w : Width) (r : Reg) :
    (s.advance w r).flagImage = s.flagImage := by simp [State.flagImage]
@[simp] theorem State.advance_seg (s : State) (w : Width) (r : Reg) (q : SReg) :
    (s.advance w r).seg q = s.seg q := by cases q <;> simp [State.seg]
@[simp] theorem State.advance_cpl (s : State) (w : Width) (r : Reg) :
    (s.advance w r).cpl = s.cpl := by simp [State.cpl]

/-! ### `State.setRm` -/

@[simp] theorem State.setRm_physAddr (s : State) (w : Width) (rm : Rm) (v : Word) (adr : Nat) :
    (s.setRm w rm v).physAddr adr = s.physAddr adr := by simp [State.physAddr]
@[simp] theorem State.setRm_prot (s : State) (w : Width) (rm : Rm) (v : Word) :
    (s.setRm w rm v).prot = s.prot := by simp [State.prot, State.pe]
@[simp] theorem State.setRm_translate (s : State) (w : Width) (rm : Rm) (v : Word) (k : Segment) (o : Word) :
    (s.setRm w rm v).translate k o = s.translate k o := by simp [State.translate]
@[simp] theorem State.setRm_flagImage (s : State) (w : Width) (rm : Rm) (v : Word) :
    (s.setRm w rm v).flagImage = s.flagImage := by simp [State.flagImage]
@[simp] theorem State.setRm_seg (s : State) (w : Width) (rm : Rm) (v : Word) (q : SReg) :
    (s.setRm w rm v).seg q = s.seg q := by cases q <;> simp [State.seg]
@[simp] theorem State.setRm_cpl (s : State) (w : Width) (rm : Rm) (v : Word) :
    (s.setRm w rm v).cpl = s.cpl := by simp [State.cpl]

/-! ### `State.loadSeg` -/

@[simp] theorem State.loadSeg_physAddr (s : State) (r : SReg) (d : Desc) (sel : Word) (adr : Nat) :
    (s.loadSeg r d sel).physAddr adr = s.physAddr adr := by simp [State.physAddr]
@[simp] theorem State.loadSeg_prot (s : State) (r : SReg) (d : Desc) (sel : Word) :
    (s.loadSeg r d sel).prot = s.prot := by simp [State.prot, State.pe]
@[simp] theorem State.loadSeg_translate (s : State) (r : SReg) (d : Desc) (sel : Word) (k : Segment) (o : Word) :
    (s.loadSeg r d sel).translate k o = s.translate k o := by simp [State.translate]
@[simp] theorem State.loadSeg_flagImage (s : State) (r : SReg) (d : Desc) (sel : Word) :
    (s.loadSeg r d sel).flagImage = s.flagImage := by simp [State.flagImage]
@[simp] theorem State.loadSeg_reg16 (s : State) (r : SReg) (d : Desc) (sel : Word) (q : Reg) :
    (s.loadSeg r d sel).reg16 q = s.reg16 q := by simp [State.reg16]

/-! ### `State.enterCode` -/

@[simp] theorem State.enterCode_physAddr (s : State) (d : Desc) (sel : Word) (l : Nat) (off : Word) (adr : Nat) :
    (s.enterCode d sel l off).physAddr adr = s.physAddr adr := by simp [State.physAddr]
@[simp] theorem State.enterCode_prot (s : State) (d : Desc) (sel : Word) (l : Nat) (off : Word) :
    (s.enterCode d sel l off).prot = s.prot := by simp [State.prot, State.pe]
@[simp] theorem State.enterCode_translate (s : State) (d : Desc) (sel : Word) (l : Nat) (off : Word) (k : Segment)
    (o : Word) :
    (s.enterCode d sel l off).translate k o = s.translate k o := by simp [State.translate]
@[simp] theorem State.enterCode_flagImage (s : State) (d : Desc) (sel : Word) (l : Nat) (off : Word) :
    (s.enterCode d sel l off).flagImage = s.flagImage := by simp [State.flagImage]
@[simp] theorem State.enterCode_reg16 (s : State) (d : Desc) (sel : Word) (l : Nat) (off : Word) (q : Reg) :
    (s.enterCode d sel l off).reg16 q = s.reg16 q := by simp [State.reg16]

/-! ### `State.applyCells` -/

@[simp] theorem State.applyCells_physAddr (s : State) (cs : List Host.Cell) (adr : Nat) :
    (s.applyCells cs).physAddr adr = s.physAddr adr := by simp [State.physAddr]
@[simp] theorem State.applyCells_prot (s : State) (cs : List Host.Cell) :
    (s.applyCells cs).prot = s.prot := by simp [State.prot, State.pe]
@[simp] theorem State.applyCells_translate (s : State) (cs : List Host.Cell) (k : Segment) (o : Word) :
    (s.applyCells cs).translate k o = s.translate k o := by simp [State.translate]
@[simp] theorem State.applyCells_flagImage (s : State) (cs : List Host.Cell) :
    (s.applyCells cs).flagImage = s.flagImage := by simp [State.flagImage]
@[simp] theorem State.applyCells_seg (s : State) (cs : List Host.Cell) (q : SReg) :
    (s.applyCells cs).seg q = s.seg q := by cases q <;> simp [State.seg]
@[simp] theorem State.applyCells_cpl (s : State) (cs : List Host.Cell) :
    (s.applyCells cs).cpl = s.cpl := by simp [State.cpl]
@[simp] theorem State.applyCells_reg16 (s : State) (cs : List Host.Cell) (q : Reg) :
    (s.applyCells cs).reg16 q = s.reg16 q := by simp [State.reg16]

/-! ### `State.moveOperand` -/

@[simp] theorem State.moveOperand_physAddr (s : State) (t : NpxTransfer) (v : Word) (adr : Nat) :
    (s.moveOperand t v).physAddr adr = s.physAddr adr := by simp [State.physAddr]
@[simp] theorem State.moveOperand_prot (s : State) (t : NpxTransfer) (v : Word) :
    (s.moveOperand t v).prot = s.prot := by simp [State.prot, State.pe]
@[simp] theorem State.moveOperand_translate (s : State) (t : NpxTransfer) (v : Word) (k : Segment) (o : Word) :
    (s.moveOperand t v).translate k o = s.translate k o := by simp [State.translate]
@[simp] theorem State.moveOperand_flagImage (s : State) (t : NpxTransfer) (v : Word) :
    (s.moveOperand t v).flagImage = s.flagImage := by simp [State.flagImage]
@[simp] theorem State.moveOperand_seg (s : State) (t : NpxTransfer) (v : Word) (q : SReg) :
    (s.moveOperand t v).seg q = s.seg q := by cases q <;> simp [State.seg]
@[simp] theorem State.moveOperand_cpl (s : State) (t : NpxTransfer) (v : Word) :
    (s.moveOperand t v).cpl = s.cpl := by simp [State.cpl]
@[simp] theorem State.moveOperand_reg16 (s : State) (t : NpxTransfer) (v : Word) (q : Reg) :
    (s.moveOperand t v).reg16 q = s.reg16 q := by simp [State.reg16]

/-! ### `State.serveExtension` -/

@[simp] theorem State.serveExtension_physAddr (s : State) (v : Word) (adr : Nat) :
    (s.serveExtension v).physAddr adr = s.physAddr adr := by simp [State.physAddr]
@[simp] theorem State.serveExtension_prot (s : State) (v : Word) :
    (s.serveExtension v).prot = s.prot := by simp [State.prot, State.pe]
@[simp] theorem State.serveExtension_translate (s : State) (v : Word) (k : Segment) (o : Word) :
    (s.serveExtension v).translate k o = s.translate k o := by simp [State.translate]
@[simp] theorem State.serveExtension_flagImage (s : State) (v : Word) :
    (s.serveExtension v).flagImage = s.flagImage := by simp [State.flagImage]
@[simp] theorem State.serveExtension_seg (s : State) (v : Word) (q : SReg) :
    (s.serveExtension v).seg q = s.seg q := by cases q <;> simp [State.seg]
@[simp] theorem State.serveExtension_cpl (s : State) (v : Word) :
    (s.serveExtension v).cpl = s.cpl := by simp [State.cpl]
@[simp] theorem State.serveExtension_reg16 (s : State) (v : Word) (q : Reg) :
    (s.serveExtension v).reg16 q = s.reg16 q := by simp [State.reg16]

/-! ### `State.grant` -/

@[simp] theorem State.grant_physAddr (s : State) (w : BusSlot) (adr : Nat) :
    (s.grant w).physAddr adr = s.physAddr adr := by simp [State.physAddr]
@[simp] theorem State.grant_prot (s : State) (w : BusSlot) :
    (s.grant w).prot = s.prot := by simp [State.prot, State.pe]
@[simp] theorem State.grant_translate (s : State) (w : BusSlot) (k : Segment) (o : Word) :
    (s.grant w).translate k o = s.translate k o := by simp [State.translate]
@[simp] theorem State.grant_flagImage (s : State) (w : BusSlot) :
    (s.grant w).flagImage = s.flagImage := by simp [State.flagImage]
@[simp] theorem State.grant_seg (s : State) (w : BusSlot) (q : SReg) :
    (s.grant w).seg q = s.seg q := by cases q <;> simp [State.seg]
@[simp] theorem State.grant_cpl (s : State) (w : BusSlot) : (s.grant w).cpl = s.cpl := by simp [State.cpl]
@[simp] theorem State.grant_reg16 (s : State) (w : BusSlot) (q : Reg) :
    (s.grant w).reg16 q = s.reg16 q := by simp [State.reg16]

/-! ### `State.grants` -/

@[simp] theorem State.grants_physAddr (s : State) (ws : List BusSlot) (adr : Nat) :
    (s.grants ws).physAddr adr = s.physAddr adr := by simp [State.physAddr]
@[simp] theorem State.grants_prot (s : State) (ws : List BusSlot) :
    (s.grants ws).prot = s.prot := by simp [State.prot, State.pe]
@[simp] theorem State.grants_translate (s : State) (ws : List BusSlot) (k : Segment) (o : Word) :
    (s.grants ws).translate k o = s.translate k o := by simp [State.translate]
@[simp] theorem State.grants_flagImage (s : State) (ws : List BusSlot) :
    (s.grants ws).flagImage = s.flagImage := by simp [State.flagImage]
@[simp] theorem State.grants_seg (s : State) (ws : List BusSlot) (q : SReg) :
    (s.grants ws).seg q = s.seg q := by cases q <;> simp [State.seg]
@[simp] theorem State.grants_cpl (s : State) (ws : List BusSlot) : (s.grants ws).cpl = s.cpl := by simp [State.cpl]
@[simp] theorem State.grants_reg16 (s : State) (ws : List BusSlot) (q : Reg) :
    (s.grants ws).reg16 q = s.reg16 q := by simp [State.reg16]

/-! ### `State.yieldBus` -/

@[simp] theorem State.yieldBus_physAddr (s : State) (adr : Nat) :
    (s.yieldBus).physAddr adr = s.physAddr adr := by simp [State.physAddr]
@[simp] theorem State.yieldBus_prot (s : State) : (s.yieldBus).prot = s.prot := by simp [State.prot, State.pe]
@[simp] theorem State.yieldBus_translate (s : State) (k : Segment) (o : Word) :
    (s.yieldBus).translate k o = s.translate k o := by simp [State.translate]
@[simp] theorem State.yieldBus_flagImage (s : State) :
    (s.yieldBus).flagImage = s.flagImage := by simp [State.flagImage]
@[simp] theorem State.yieldBus_seg (s : State) (q : SReg) :
    (s.yieldBus).seg q = s.seg q := by cases q <;> simp [State.seg]
@[simp] theorem State.yieldBus_cpl (s : State) : (s.yieldBus).cpl = s.cpl := by simp [State.cpl]
@[simp] theorem State.yieldBus_reg16 (s : State) (q : Reg) : (s.yieldBus).reg16 q = s.reg16 q := by simp [State.reg16]

/-! ### `State.yields` -/

@[simp] theorem State.yields_physAddr (s : State) (n : Nat) (adr : Nat) :
    (s.yields n).physAddr adr = s.physAddr adr := by simp [State.physAddr]
@[simp] theorem State.yields_prot (s : State) (n : Nat) : (s.yields n).prot = s.prot := by simp [State.prot, State.pe]
@[simp] theorem State.yields_translate (s : State) (n : Nat) (k : Segment) (o : Word) :
    (s.yields n).translate k o = s.translate k o := by simp [State.translate]
@[simp] theorem State.yields_flagImage (s : State) (n : Nat) :
    (s.yields n).flagImage = s.flagImage := by simp [State.flagImage]
@[simp] theorem State.yields_seg (s : State) (n : Nat) (q : SReg) :
    (s.yields n).seg q = s.seg q := by cases q <;> simp [State.seg]
@[simp] theorem State.yields_cpl (s : State) (n : Nat) : (s.yields n).cpl = s.cpl := by simp [State.cpl]
@[simp] theorem State.yields_reg16 (s : State) (n : Nat) (q : Reg) :
    (s.yields n).reg16 q = s.reg16 q := by simp [State.reg16]

/-! ### `State.putBack` -/

@[simp] theorem State.putBack_physAddr (s : State) (w : Width) (rm : Rm) (v : Word) (adr : Nat) :
    (s.putBack w rm v).physAddr adr = s.physAddr adr := by simp [State.physAddr]
@[simp] theorem State.putBack_prot (s : State) (w : Width) (rm : Rm) (v : Word) :
    (s.putBack w rm v).prot = s.prot := by simp [State.prot, State.pe]
@[simp] theorem State.putBack_translate (s : State) (w : Width) (rm : Rm) (v : Word) (k : Segment) (o : Word) :
    (s.putBack w rm v).translate k o = s.translate k o := by simp [State.translate]
@[simp] theorem State.putBack_flagImage (s : State) (w : Width) (rm : Rm) (v : Word) :
    (s.putBack w rm v).flagImage = s.flagImage := by simp [State.flagImage]
@[simp] theorem State.putBack_seg (s : State) (w : Width) (rm : Rm) (v : Word) (q : SReg) :
    (s.putBack w rm v).seg q = s.seg q := by cases q <;> simp [State.seg]
@[simp] theorem State.putBack_cpl (s : State) (w : Width) (rm : Rm) (v : Word) :
    (s.putBack w rm v).cpl = s.cpl := by simp [State.cpl]

/-! ### `State.pushList` -/

@[simp] theorem State.pushList_physAddr (s : State) (vs : List Word) (adr : Nat) :
    (s.pushList vs).physAddr adr = s.physAddr adr := by simp [State.physAddr]
@[simp] theorem State.pushList_prot (s : State) (vs : List Word) :
    (s.pushList vs).prot = s.prot := by simp [State.prot, State.pe]
@[simp] theorem State.pushList_translate (s : State) (vs : List Word) (k : Segment) (o : Word) :
    (s.pushList vs).translate k o = s.translate k o := by simp [State.translate]
@[simp] theorem State.pushList_flagImage (s : State) (vs : List Word) :
    (s.pushList vs).flagImage = s.flagImage := by simp [State.flagImage]
@[simp] theorem State.pushList_seg (s : State) (vs : List Word) (q : SReg) :
    (s.pushList vs).seg q = s.seg q := by cases q <;> simp [State.seg]
@[simp] theorem State.pushList_cpl (s : State) (vs : List Word) : (s.pushList vs).cpl = s.cpl := by simp [State.cpl]

/-! ### `State.saveTask` -/

@[simp] theorem State.saveTask_physAddr (s : State) (ret f : Word) (adr : Nat) :
    (s.saveTask ret f).physAddr adr = s.physAddr adr := by simp [State.physAddr]
@[simp] theorem State.saveTask_prot (s : State) (ret f : Word) :
    (s.saveTask ret f).prot = s.prot := by simp [State.prot, State.pe]
@[simp] theorem State.saveTask_translate (s : State) (ret f : Word) (k : Segment) (o : Word) :
    (s.saveTask ret f).translate k o = s.translate k o := by simp [State.translate]
@[simp] theorem State.saveTask_flagImage (s : State) (ret f : Word) :
    (s.saveTask ret f).flagImage = s.flagImage := by simp [State.flagImage]
@[simp] theorem State.saveTask_seg (s : State) (ret f : Word) (q : SReg) :
    (s.saveTask ret f).seg q = s.seg q := by cases q <;> simp [State.seg]
@[simp] theorem State.saveTask_cpl (s : State) (ret f : Word) : (s.saveTask ret f).cpl = s.cpl := by simp [State.cpl]
@[simp] theorem State.saveTask_reg16 (s : State) (ret f : Word) (q : Reg) :
    (s.saveTask ret f).reg16 q = s.reg16 q := by simp [State.reg16]

end Sys2Proof.Machine
end

