-- ==== Sys2Proof/Laws/Memory.lean ====
section
/-! SUPPORT. The laws of memory: a read after a write, the canonical form, and what a store leaves alone. -/

namespace Sys2Proof.Machine

/-! ### Registers -/

@[simp] theorem Regs.get_set_same (g : Regs) (r : Reg) (v : Word) : (g.set r v).get r = v := by cases r <;> rfl

@[simp] theorem Regs.get_set_other (g : Regs) {q r : Reg} (h : q ≠ r) (v : Word) : (g.set r v).get q = g.get q := by
  cases q <;> cases r <;> first | rfl | exact absurd rfl h

theorem append_low {n m : Nat} (x : BitVec n) (y : BitVec m) : (x ++ y).extractLsb' 0 m = y := by
  ext i hi; simp [BitVec.getLsbD_append, hi]

theorem append_high {n m : Nat} (x : BitVec n) (y : BitVec m) : (x ++ y).extractLsb' m n = x := by
  ext i hi; simp [BitVec.getLsbD_append, BitVec.getLsbD_eq_getElem hi]

theorem low_append (x b : Byte) : BitVec.extractLsb' 0 8 (x ++ b : Word) = b := append_low x b

theorem high_append (x b : Byte) : BitVec.extractLsb' 8 8 (x ++ b : Word) = x := append_high x b

@[simp] theorem low_setLow (x : Word) (b : Byte) : (setLow x b).extractLsb' 0 8 = b := low_append _ _

@[simp] theorem high_setLow (x : Word) (b : Byte) : (setLow x b).extractLsb' 8 8 = x.extractLsb' 8 8 :=
  high_append _ _

@[simp] theorem low_setHigh (x : Word) (b : Byte) : (setHigh x b).extractLsb' 0 8 = x.extractLsb' 0 8 :=
  low_append _ _

@[simp] theorem high_setHigh (x : Word) (b : Byte) : (setHigh x b).extractLsb' 8 8 = b := high_append _ _

@[simp] theorem Regs.getByte_setByte_same (g : Regs) (r : Reg) (b : Byte) : (g.setByte r b).getByte r = b := by
  cases r <;> simp [Regs.setByte, Regs.getByte]

@[simp] theorem Regs.getByte_setByte_other (g : Regs) {q r : Reg} (h : q ≠ r) (b : Byte) :
    (g.setByte r b).getByte q = g.getByte q := by
  cases q <;> cases r <;>
    first
    | exact absurd rfl h
    | simp [Regs.setByte, Regs.getByte]

theorem trunc_byte (v : Word) : Width.trunc .byte v = zeroExtend (v.extractLsb' 0 8) := by
  apply BitVec.eq_of_toNat_eq
  have : (v &&& 0x00FF#16).toNat = v.toNat % 2 ^ 8 := by
    rw [BitVec.toNat_and, ← Nat.and_two_pow_sub_one_eq_mod]; rfl
  simp only [Width.trunc, zeroExtend, this, BitVec.toNat_setWidth, BitVec.extractLsb'_toNat, Nat.shiftRight_zero]
  omega

/-- A register reads what was written to it, reduced to the width. -/
@[simp] theorem State.reg_setReg (s : State) (w : Width) (r : Reg) (v : Word) :
    (s.setReg w r v).reg w r = w.trunc v := by
  cases w
  · simp [State.setReg, State.reg, trunc_byte]
  · simp [State.setReg, State.reg, Width.trunc]

/-- A register write changes no other register. -/
theorem State.setReg_sameBut (s : State) (w : Width) (r : Reg) (v : Word) :
    s.regs.SameBut (s.setReg w r v).regs w r := by
  cases w
  · refine ⟨fun q h => by simp [State.setReg, h], ?_, ?_, ?_, ?_⟩ <;>
      cases r <;> rfl
  · intro q h; simp [State.setReg, h]

/-! ### Memory as data -/

@[simp] theorem Memory.get?_set_same (m : Memory) (x : Nat) (v : Byte) : (m.set x v).get? x = some v := by
  induction m with
  | nil => simp [Memory.set, Memory.get?]
  | cons c m ih =>
    obtain ⟨a, u⟩ := c
    simp only [Memory.set]
    split_ifs with h₁ h₂
    · simp [Memory.get?]
    · simp [Memory.get?]
    · simp [Memory.get?, h₂, h₁, ih]

@[simp] theorem Memory.get?_set_other (m : Memory) {x y : Nat} (h : y ≠ x) (v : Byte) :
    (m.set x v).get? y = m.get? y := by
  induction m with
  | nil => simp [Memory.set, Memory.get?, Ne.symm h]
  | cons c m ih =>
    obtain ⟨a, u⟩ := c
    simp only [Memory.set]
    split_ifs with h₁ h₂
    · simp only [Memory.get?, if_neg (Ne.symm h)]
      split_ifs <;> first | rfl | omega
    · subst h₂; simp [Memory.get?, Ne.symm h]
    · simp [Memory.get?, ih]

theorem Memory.set_risesFrom (m : Memory) (x : Nat) (v : Byte) (hx : x < 2 ^ 24) :
    ∀ lo, lo ≤ x → Memory.risesFrom lo m = true → Memory.risesFrom lo (m.set x v) = true := by
  norm_num at hx
  induction m with
  | nil => intro lo h _; simp [Memory.set, Memory.risesFrom, h, hx]
  | cons c m ih =>
    obtain ⟨a, u⟩ := c
    intro lo h hm
    simp only [Memory.risesFrom, Bool.and_eq_true, decide_eq_true_eq, Nat.reducePow] at hm
    simp only [Memory.set]
    split_ifs with h₁ h₂
    · simp [Memory.risesFrom, h, hx, hm.1.2, hm.2, h₁]
    · subst h₂; simp [Memory.risesFrom, h, hx, hm.2]
    · simp [Memory.risesFrom, hm.1.1, hm.1.2, ih (a + 1) (by omega) hm.2]

/-- A write keeps the canonical form. -/
theorem Memory.set_wf (m : Memory) (x : Nat) (v : Byte) (hx : x < 2 ^ 24) (h : m.wf = true) :
    (m.set x v).wf = true :=
  Memory.set_risesFrom m x v hx 0 (Nat.zero_le x) h

/-- Reading back: in the canonical form, equal contents are equal memories. -/
theorem Memory.get?_lt (m : Memory) : ∀ lo x, Memory.risesFrom lo m = true → x < lo → m.get? x = none := by
  induction m with
  | nil => intro lo x _ _; rfl
  | cons c m ih =>
    obtain ⟨a, u⟩ := c
    intro lo x h hx
    simp only [Memory.risesFrom, Bool.and_eq_true, decide_eq_true_eq] at h
    simp only [Memory.get?]
    split_ifs <;> first | rfl | omega

theorem Memory.ext_risesFrom (m : Memory) : ∀ (n : Memory) (lo lo' : Nat), Memory.risesFrom lo m = true →
    Memory.risesFrom lo' n = true → (∀ x, m.get? x = n.get? x) → m = n := by
  induction m with
  | nil =>
    intro n lo lo' _ _ h
    cases n with
    | nil => rfl
    | cons c n => obtain ⟨a, u⟩ := c; simpa [Memory.get?] using h a
  | cons c m ih =>
    obtain ⟨a, u⟩ := c
    intro n lo lo' hm hn h
    simp only [Memory.risesFrom, Bool.and_eq_true, decide_eq_true_eq] at hm
    cases n with
    | nil => simpa [Memory.get?] using h a
    | cons d n =>
      obtain ⟨b, w⟩ := d
      simp only [Memory.risesFrom, Bool.and_eq_true, decide_eq_true_eq] at hn
      have hab : a = b := by
        have ha := h a
        have hb := h b
        simp only [Memory.get?, if_true] at ha hb
        rcases Nat.lt_trichotomy a b with hl | he | hl
        · simp [hl, Nat.ne_of_gt hl] at ha
        · exact he
        · simp [hl, Nat.ne_of_gt hl] at hb
      subst hab
      have huw : u = w := by simpa [Memory.get?] using h a
      subst huw
      have : m = n := by
        refine ih n _ _ hm.2 hn.2 (fun x => ?_)
        by_cases hx : x < a + 1
        · rw [Memory.get?_lt m _ x hm.2 hx, Memory.get?_lt n _ x hn.2 hx]
        · have := h x
          simp only [Memory.get?] at this
          rwa [if_neg (by omega), if_neg (by omega), if_neg (by omega), if_neg (by omega)] at this
      rw [this]

/-! ### Physical addresses -/

theorem State.physAddr_lt (s : State) (a : Nat) : s.physAddr a < 2 ^ 24 :=
  Nat.lt_of_le_of_lt Nat.and_le_left (Nat.mod_lt _ (by norm_num))

/-- A platform that decodes A15-A0 leaves them as they are. -/
theorem State.physAddr_low (s : State) (hd : s.LowDecoded) (a : Nat) : s.physAddr a % 2 ^ 16 = a % 2 ^ 16 := by
  have h : (0xFFFF : Nat) = 2 ^ 16 - 1 := rfl
  rw [State.physAddr, Nat.and_mod_two_pow, hd, h, Nat.and_two_pow_sub_one_eq_mod, Nat.mod_mod,
    Nat.mod_mod_of_dvd _ (by norm_num)]

/-- An offset's low sixteen address bits, in either mode. -/
theorem State.translate_low (s : State) (g : Segment) (off : Word) :
    s.translate g off % 2 ^ 16 = (g.base.toNat + off.toNat) % 2 ^ 16 := by
  unfold State.translate Segment.translate
  simp only []
  split_ifs <;> omega

/-- Bytes at most 64K apart in one segment lie at different physical addresses. -/
theorem State.physAddr_inj (s : State) (hd : s.LowDecoded) (g : Segment) {a b : Word} {j k : Nat}
    (h : s.physAddr (s.translate g a + j) = s.physAddr (s.translate g b + k)) :
    (a.toNat + j) % 2 ^ 16 = (b.toNat + k) % 2 ^ 16 := by
  have h₁ := s.physAddr_low hd (s.translate g a + j)
  have h₂ := s.physAddr_low hd (s.translate g b + k)
  have h₃ := s.translate_low g a
  have h₄ := s.translate_low g b
  rw [h] at h₁
  omega

/-- The two bytes of a word lie at different physical addresses. -/
theorem State.physAddr_succ_ne (s : State) (hd : s.LowDecoded) (a : Nat) : s.physAddr (a + 1) ≠ s.physAddr a := by
  intro h
  have h₁ := s.physAddr_low hd (a + 1)
  have h₂ := s.physAddr_low hd a
  rw [h] at h₁
  omega

/-! ### One byte, one word -/

/-- What a byte of memory reads as after one byte is stored. -/
theorem State.byteAt_putByte (s : State) (a b : Nat) (v : Byte) :
    (s.putByte a v).byteAt b = if s.physAddr b = s.physAddr a then v else s.byteAt b := by
  simp only [State.byteAt, State.putByte_physAddr]
  simp only [State.putByte]
  split_ifs with h
  · simp [h]
  · simp [h]

@[simp] theorem State.putByte_wf (s : State) (a : Nat) (v : Byte) (h : s.mem.wf = true) :
    (s.putByte a v).mem.wf = true :=
  Memory.set_wf _ _ _ (s.physAddr_lt a) h

theorem State.putWord_wf (s : State) (a : Nat) (v : Word) (h : s.mem.wf = true) : (s.putWord a v).mem.wf = true := by
  simp [State.putWord, h]

theorem State.store_wf (s : State) (w : Width) (g : Segment) (off v : Word) (h : s.mem.wf = true) :
    (s.store w g off v).mem.wf = true := by
  cases w <;> simp [State.store, State.putWord_wf, h]

theorem State.setRm_wf (s : State) (w : Width) (rm : Rm) (v : Word) (h : s.mem.wf = true) :
    (s.setRm w rm v).mem.wf = true := by
  cases rm
  · simpa [State.setRm] using h
  · exact State.store_wf _ _ _ _ _ h

theorem State.applyCells_wf (cs : List Host.Cell) : ∀ s : State, s.mem.wf = true → (s.applyCells cs).mem.wf = true := by
  induction cs with
  | nil => exact fun _ h => h
  | cons c cs ih => exact fun s h => ih _ (State.putByte_wf s c.1 c.2 h)

theorem State.serveExtension_wf (s : State) (v : Word) (h : s.mem.wf = true) :
    (s.serveExtension v).mem.wf = true := by
  unfold State.serveExtension State.moveOperand
  dsimp only
  repeat (first | exact h | exact State.store_wf _ _ _ _ _ h | split)

theorem State.grant_wf (s : State) (w : BusSlot) (h : s.mem.wf = true) : (s.grant w).mem.wf = true := by
  have h := State.applyCells_wf w.writes s h
  unfold State.grant
  dsimp only
  repeat (first | exact h | exact State.serveExtension_wf _ _ h | split)

theorem State.yieldBus_wf (s : State) (h : s.mem.wf = true) : s.yieldBus.mem.wf = true := by
  unfold State.yieldBus
  repeat (first | exact h | exact State.grant_wf _ _ h | split)

theorem State.pushList_wf (vs : List Word) : ∀ s : State, s.mem.wf = true → (s.pushList vs).mem.wf = true := by
  induction vs with
  | nil => intro s h; exact h
  | cons v vs ih => intro s h; exact ih _ (State.yieldBus_wf _ (State.store_wf _ _ _ _ _ h))

theorem State.loadSeg_wf (s : State) (r : SReg) (d : Desc) (sel : Word) (h : s.mem.wf = true) :
    (s.loadSeg r d sel).mem.wf = true := by
  simp [State.loadSeg, State.markAccessed, h]

theorem State.enterCode_wf (s : State) (d : Desc) (sel : Word) (l : Nat) (off : Word) (h : s.mem.wf = true) :
    (s.enterCode d sel l off).mem.wf = true := by
  simpa [State.enterCode] using State.loadSeg_wf s _ _ _ h

/-! ### The record of a step's stores -/

/-- Memory is in its canonical form and every store of this step on record went to an address of memory. -/
def State.Stored (s : State) : Prop := s.mem.wf = true ∧ ∀ c ∈ s.writes, c.1 < 2 ^ 24

theorem State.Stored.congr {s t : State} (h : s.Stored) (hm : t.mem = s.mem) (hw : t.writes = s.writes) : t.Stored := by
  unfold State.Stored
  rw [hm, hw]
  exact h

theorem State.putByte_stored (s : State) (a : Nat) (v : Byte) (h : s.Stored) : (s.putByte a v).Stored := by
  refine ⟨State.putByte_wf s a v h.1, fun c hc => ?_⟩
  rcases List.mem_cons.mp hc with rfl | hc
  · exact s.physAddr_lt a
  · exact h.2 c hc

theorem State.putWord_stored (s : State) (a : Nat) (v : Word) (h : s.Stored) : (s.putWord a v).Stored :=
  State.putByte_stored _ _ _ (State.putByte_stored _ _ _ h)

theorem State.store_stored (s : State) (w : Width) (g : Segment) (off v : Word) (h : s.Stored) :
    (s.store w g off v).Stored := by
  cases w
  · exact State.putByte_stored _ _ _ h
  · exact State.putWord_stored _ _ _ h

theorem State.setRm_stored (s : State) (w : Width) (rm : Rm) (v : Word) (h : s.Stored) : (s.setRm w rm v).Stored := by
  cases rm
  · exact h.congr (by simp [State.setRm]) (by simp [State.setRm])
  · exact State.store_stored _ _ _ _ _ h

theorem State.loadSeg_stored (s : State) (r : SReg) (d : Desc) (sel : Word) (h : s.Stored) :
    (s.loadSeg r d sel).Stored :=
  State.putByte_stored _ _ _ (h.congr (by simp) (by simp))

theorem State.applyCells_stored (cs : List Host.Cell) : ∀ s : State, s.Stored → (s.applyCells cs).Stored := by
  induction cs with
  | nil => exact fun _ h => h
  | cons c cs ih => exact fun s h => ih _ (State.putByte_stored s c.1 c.2 h)

theorem State.serveExtension_stored (s : State) (v : Word) (h : s.Stored) : (s.serveExtension v).Stored := by
  unfold State.serveExtension State.moveOperand
  repeat (first | exact h | exact State.store_stored _ _ _ _ _ h | split)

theorem State.grant_stored (s : State) (w : BusSlot) (h : s.Stored) : (s.grant w).Stored := by
  have h := State.applyCells_stored w.writes s h
  unfold State.grant
  dsimp only
  repeat (first | exact h | exact State.serveExtension_stored _ _ h | split)

theorem State.grants_stored (ws : List BusSlot) : ∀ s : State, s.Stored → (s.grants ws).Stored := by
  induction ws with
  | nil => exact fun _ h => h
  | cons w ws ih => exact fun s h => ih _ (State.grant_stored s w h)

theorem State.yieldBus_stored (s : State) (h : s.Stored) : s.yieldBus.Stored := by
  unfold State.yieldBus
  repeat (first | exact h | exact State.grant_stored _ _ h | split)

theorem State.pushList_stored (vs : List Word) : ∀ s : State, s.Stored → (s.pushList vs).Stored := by
  induction vs with
  | nil => exact fun _ h => h
  | cons v vs ih => exact fun s h => ih _ (State.yieldBus_stored _ (State.store_stored _ _ _ _ _ h))

theorem State.yields_stored (n : Nat) : ∀ s : State, s.Stored → (s.yields n).Stored := by
  induction n with
  | zero => exact fun _ h => h
  | succ n ih => exact fun s h => ih _ (State.yieldBus_stored s h)

theorem State.putBack_stored (s : State) (w : Width) (rm : Rm) (v : Word) (h : s.Stored) :
    (s.putBack w rm v).Stored := by
  cases rm
  · exact State.setRm_stored s w (.reg _) v h
  · exact State.setRm_stored _ w _ v (State.yieldBus_stored s h)

/-! ### What a store leaves alone -/

theorem State.MemoryKept.refl (s : State) (l : List Nat) : s.MemoryKept s l := fun _ _ => rfl

theorem State.physAddr_congr {s t : State} (h : t.platform = s.platform) (a : Nat) : t.physAddr a = s.physAddr a := by
  simp [State.physAddr, h]

theorem State.byteAt_congr {s t : State} (h : t.mem = s.mem) (hp : t.platform = s.platform) (a : Nat) :
    t.byteAt a = s.byteAt a := by
  simp [State.byteAt, h, State.physAddr_congr hp]

theorem State.MemoryKept.of_mem {s t : State} (h : t.mem = s.mem) (hp : t.platform = s.platform) (l : List Nat) :
    s.MemoryKept t l := fun a _ => State.byteAt_congr h hp a

theorem State.MemoryKept.trans {s t u : State} {l m : List Nat} (h₁ : s.MemoryKept t l) (h₂ : t.MemoryKept u m)
    (hp : t.platform = s.platform := by simp) : s.MemoryKept u (l ++ m) := by
  intro a h
  simp only [List.mem_append, not_or] at h
  rw [h₂ a (by rw [State.physAddr_congr hp]; exact h.2), h₁ a h.1]

theorem State.MemoryKept.mono {s t : State} {l m : List Nat} (h : s.MemoryKept t l) (hl : ∀ a ∈ l, a ∈ m) :
    s.MemoryKept t m := fun a ha => h a fun hx => ha (hl _ hx)

theorem State.putByte_kept (s : State) (a : Nat) (v : Byte) : s.MemoryKept (s.putByte a v) [s.physAddr a] := by
  intro b h
  rw [State.byteAt_putByte, if_neg]
  simpa using h

theorem State.putWord_kept (s : State) (a : Nat) (v : Word) :
    s.MemoryKept (s.putWord a v) [s.physAddr a, s.physAddr (a + 1)] := by
  have h := (State.putByte_kept s a (v.extractLsb' 0 8)).trans
    (State.putByte_kept (s.putByte a (v.extractLsb' 0 8)) (a + 1) (v.extractLsb' 8 8))
  rwa [State.putByte_physAddr] at h

theorem State.store_kept (s : State) (w : Width) (g : Segment) (off v : Word) :
    s.MemoryKept (s.store w g off v) (s.cells w g off) := by
  cases w
  · exact State.putByte_kept _ _ _
  · exact State.putWord_kept s _ _

theorem word_of_bytes (v : Word) : v.extractLsb' 8 8 ++ v.extractLsb' 0 8 = v := by
  ext i hi
  simp only [BitVec.getElem_append, BitVec.getElem_extractLsb']
  split
  · simp [BitVec.getLsbD_eq_getElem hi]
  · rename_i h
    rw [Nat.add_sub_cancel' (by omega), BitVec.getLsbD_eq_getElem hi]

/-- A word reads as it was stored. -/
theorem State.wordAt_putWord (s : State) (hd : s.LowDecoded) (a : Nat) (v : Word) :
    (s.putWord a v).wordAt a = v := by
  simp [State.wordAt, State.putWord, State.byteAt_putByte, (s.physAddr_succ_ne hd a).symm, word_of_bytes]

/-- A load after a store to the same operand reads what was stored, reduced to the width. -/
theorem State.load_store (s : State) {w : Width} (hd : w = .byte ∨ s.LowDecoded) (g : Segment) (off v : Word) :
    (s.store w g off v).load w g off = w.trunc v := by
  cases w
  · simp [State.load, State.store, State.byteAt_putByte, trunc_byte]
  · have hd := hd.resolve_left (by simp)
    simp [State.load, State.store, State.wordAt_putWord _ hd, Width.trunc]

/-- A load depends on the bytes of its operand alone. -/
theorem State.load_kept {s t : State} {l : List Nat} (h : s.MemoryKept t l)
    (ht : ∀ g o, t.translate g o = s.translate g o)
    (w : Width) (g : Segment) (off : Word) (hd : ∀ a ∈ s.cells w g off, a ∉ l) : t.load w g off = s.load w g off := by
  cases w
  · simp only [State.load, ht]
    rw [h]
    exact hd _ (by simp [State.cells])
  · simp only [State.load, ht, State.wordAt]
    rw [h, h]
    · exact hd _ (by simp [State.cells])
    · exact hd _ (by simp [State.cells])

/-! ### The r/m operand -/

theorem State.ea_congr {s t : State} (h : t.regs = s.regs) (m : Mem) : t.ea m = s.ea m := by
  have hb : ∀ b, t.baseSum b = s.baseSum b := fun b => by cases b <;> simp [State.baseSum, h]
  cases m <;> simp [State.ea, hb]

theorem State.eaSeg_congr {s t : State} (h : t.inst = s.inst) (m : Mem) : t.eaSeg m = s.eaSeg m := by
  simp [State.eaSeg, State.overridden, h]

/-- Writing an r/m operand: it reads back, no other register and no byte outside it changes. -/
theorem State.setRm_writes (s : State) (w : Width) (rm : Rm) (v : Word) :
    s.Writes (s.setRm w rm v) w rm (w.trunc v) := by
  cases rm with
  | reg r =>
    refine ⟨fun _ => by simp [State.rmValue, State.setRm], ?_, ?_⟩
    · exact State.MemoryKept.of_mem (by simp [State.setRm]) (by simp) _
    · exact State.setReg_sameBut s w r v
  | mem m =>
    refine ⟨?_, ?_, ?_⟩
    · intro hd
      have h1 : (s.setRm w (.mem m) v).ea m = s.ea m := State.ea_congr (by simp [State.setRm]) m
      have h2 : (s.setRm w (.mem m) v).eaSeg m = s.eaSeg m := State.eaSeg_congr (by simp) m
      simp only [State.rmValue, h1, h2, State.setRm_seg]
      exact State.load_store s (hd.resolve_left (by simp)) _ _ v
    · exact State.store_kept s w _ _ v
    · simp [State.setRm]

/-! ### Frames field by field -/

/-- Everything `DataOnly` says, field by field. -/
theorem State.dataOnly_iff (s t : State) : s.DataOnly t ↔
    t.ip = s.ip ∧ t.msw = s.msw ∧ t.es = s.es ∧ t.cs = s.cs ∧ t.ss = s.ss ∧ t.ds = s.ds ∧ t.gdtr = s.gdtr ∧
    t.idtr = s.idtr ∧ t.ldtr = s.ldtr ∧ t.tr = s.tr ∧ t.run = s.run ∧ t.inhibit = s.inhibit ∧
    t.nmiInService = s.nmiInService ∧ t.nmiPending = s.nmiPending ∧ t.stepTrap = s.stepTrap ∧
    t.overrunPending = s.overrunPending ∧ t.npxPresent = s.npxPresent ∧ t.npx = s.npx ∧
    t.pendingExc = s.pendingExc ∧ t.fetch.lmswAt = s.fetch.lmswAt ∧ t.fetch.wrapped = s.fetch.wrapped ∧
    t.inst = s.inst ∧ t.bus = s.bus ∧ t.platform = s.platform ∧ t.pins = s.pins ∧
    t.env = s.env ∧ t.out = s.out := by
  obtain ⟨⟩ := s
  obtain ⟨_, _, _, _, _, _, _, _, _, _, _, _, _, _, _, _, _, _, _, _, _, ⟨⟩⟩ := t
  simp [State.DataOnly, and_assoc]

/-- Everything `RegsFlagsOnly` says, field by field. -/
theorem State.regsFlagsOnly_iff (s t : State) : s.RegsFlagsOnly t ↔
    t.ip = s.ip ∧ t.msw = s.msw ∧ t.es = s.es ∧ t.cs = s.cs ∧ t.ss = s.ss ∧ t.ds = s.ds ∧ t.gdtr = s.gdtr ∧
    t.idtr = s.idtr ∧ t.ldtr = s.ldtr ∧ t.tr = s.tr ∧ t.run = s.run ∧ t.inhibit = s.inhibit ∧
    t.nmiInService = s.nmiInService ∧ t.nmiPending = s.nmiPending ∧ t.stepTrap = s.stepTrap ∧
    t.overrunPending = s.overrunPending ∧ t.npxPresent = s.npxPresent ∧ t.npx = s.npx ∧
    t.pendingExc = s.pendingExc ∧ t.fetch = s.fetch ∧ t.inst = s.inst ∧ t.mem = s.mem ∧ t.writes = s.writes ∧
    t.bus = s.bus ∧ t.platform = s.platform ∧ t.pins = s.pins ∧ t.env = s.env ∧ t.out = s.out := by
  obtain ⟨⟩ := s
  obtain ⟨⟩ := t
  simp [State.RegsFlagsOnly]

/-! ### Other masters' writes -/

/-- With none to come, the place where they could fall does nothing. -/
@[simp] theorem State.yieldBus_quiet {s : State} (h : s.Quiet) : s.yieldBus = s := by
  unfold State.yieldBus
  rw [h]
  exact ite_self _

@[simp] theorem State.yields_quiet {s : State} (h : s.Quiet) : ∀ n, s.yields n = s
  | 0 => rfl
  | n + 1 => by rw [State.yields, State.yieldBus_quiet h, State.yields_quiet h n]

/-- Going on after such places is then going on, but for the form an exception takes. -/
theorem State.afterReads_quiet {α : Type} {s : State} (h : s.Quiet) (n : Nat) (f : State → Exe α) :
    s.afterReads n f = keepBus s (f s) := by rw [State.afterReads, State.yields_quiet h]

theorem State.afterBus_quiet {α : Type} {s : State} (h : s.Quiet) (f : State → Exe α) :
    s.afterBus f = keepBus s (f s) := s.afterReads_quiet h 1 f

theorem State.putBack_quiet {s : State} (h : s.Quiet) (w : Width) (rm : Rm) (v : Word) :
    s.putBack w rm v = s.setRm w rm v := by
  cases rm
  · rfl
  · rw [State.putBack, State.yieldBus_quiet h]

/-- Writes of other masters do not depend on the flags or the draws. -/
theorem State.applyCells_setFlags (f : Flags) (n : Nat) (cs : List Host.Cell) : ∀ s : State,
    ((s.setFlags f).tick n).applyCells cs = ((s.applyCells cs).setFlags f).tick n := by
  induction cs with
  | nil => exact fun _ => rfl
  | cons c cs ih => exact fun s => ih (s.putByte c.1 c.2)

theorem State.grant_setFlags (s : State) (f : Flags) (n : Nat) (w : BusSlot) :
    ((s.setFlags f).tick n).grant w = ((s.grant w).setFlags f).tick n := by
  unfold State.grant
  rw [State.applyCells_setFlags]
  cases w.pereq with
  | none => rfl
  | some v =>
    generalize s.applyCells w.writes = u
    have hf : ∀ t, ((u.setFlags f).tick n).transferFits t = u.transferFits t := fun _ => rfl
    have hm : ∀ t, ((u.setFlags f).tick n).moveOperand t v = ((u.moveOperand t v).setFlags f).tick n := fun t => by
      unfold State.moveOperand
      split <;> rfl
    show (if u.npxPresent then State.serveExtension _ v else _) =
      ((if u.npxPresent then u.serveExtension v else u).setFlags f).tick n
    split
    · unfold State.serveExtension
      show (match u.npx with | none => _ | some t => _) = _
      cases u.npx with
      | none => rfl
      | some t =>
        simp only [hf, hm]
        split <;> rfl
    · rfl

theorem State.yieldBus_setFlags (s : State) (f : Flags) (n : Nat) :
    ((s.setFlags f).tick n).yieldBus = (s.yieldBus.setFlags f).tick n := by
  have hl : ((s.setFlags f).tick n).lockHeld = s.lockHeld := rfl
  have hb : ((s.setFlags f).tick n).bus = s.bus := rfl
  unfold State.yieldBus
  rw [hl, hb]
  split
  · rfl
  · split
    · rfl
    · rename_i w ws _
      exact State.grant_setFlags { s with bus := ws } f n w

@[simp] theorem State.beforeWrite_regs (s : State) (rm : Rm) : (s.beforeWrite rm).regs = s.regs := by
  cases rm <;> simp [State.beforeWrite]

/-- What writing an operand back does: the operand holds the value, nothing else differs from the state in which it is
written. -/
theorem State.putBack_writes (s : State) (w : Width) (rm : Rm) (v : Word) :
    (s.beforeWrite rm).Writes (s.putBack w rm v) w rm (w.trunc v) := by
  cases rm
  · exact State.setRm_writes s w (.reg _) v
  · exact State.setRm_writes s.yieldBus w (.mem _) v

/-- The same after new flags. -/
theorem State.putBack_flags_writes (s : State) (f : Flags) (n : Nat) (w : Width) (rm : Rm) (v : Word) :
    (s.beforeWrite rm).Writes (((s.setFlags f).tick n).putBack w rm v) w rm (w.trunc v) := by
  cases rm with
  | reg r => exact State.setRm_writes ((s.setFlags f).tick n) w (.reg r) v
  | mem m =>
    show s.yieldBus.Writes (((s.setFlags f).tick n).yieldBus.setRm w (.mem m) v) w (.mem m) (w.trunc v)
    rw [State.yieldBus_setFlags]
    exact State.setRm_writes ((s.yieldBus.setFlags f).tick n) w (.mem m) v

/-- And with them it changes data only. -/
theorem State.putBack_flags_dataOnly (s : State) (f : Flags) (n : Nat) (w : Width) (rm : Rm) (v : Word) :
    (s.beforeWrite rm).DataOnly (((s.setFlags f).tick n).putBack w rm v) := by
  cases rm with
  | reg r => rw [State.dataOnly_iff]; simp [State.beforeWrite, State.putBack]
  | mem m =>
    show s.yieldBus.DataOnly (((s.setFlags f).tick n).yieldBus.setRm w (.mem m) v)
    rw [State.yieldBus_setFlags, State.dataOnly_iff]
    simp

@[simp] theorem keepBus_ok {α : Type} (s : State) (a : α) : keepBus s (.ok a) = .ok a := rfl

/-- An exception after such a place, with no write to come there, is taken as one before it. -/
theorem complete_keepBus (s : State) (m : Exe State) : complete s (keepBus s m) = complete s m := by
  cases m with
  | ok t => rfl
  | error e => cases e <;> rfl

/-- The same behind an operation that has succeeded or failed before. -/
theorem complete_bind_keepBus {α : Type} (s : State) (m : Exe α) (f : α → Exe State) :
    complete s (m >>= fun a => keepBus s (f a)) = complete s (m >>= f) := by
  cases m with
  | ok a => exact complete_keepBus s (f a)
  | error e => rfl

/-- Everything that can happen at such a place: memory, the record of the step's stores, the queue's copies of the bytes
written, the list of what is to come, and the extension's transfer with its output and its overrun may differ. -/
theorem State.yieldBus_only (s : State) : s.yieldBus = { s with
    mem := s.yieldBus.mem, writes := s.yieldBus.writes, bus := s.yieldBus.bus, npx := s.yieldBus.npx,
    out := s.yieldBus.out, overrunPending := s.yieldBus.overrunPending,
    fetch := { s.fetch with stale := s.yieldBus.fetch.stale } } := by
  have h : ∀ t, t = s.yieldBus →
      t.regs = s.regs ∧ t.ip = s.ip ∧ t.flags = s.flags ∧ t.msw = s.msw ∧ t.es = s.es ∧ t.cs = s.cs ∧
      t.ss = s.ss ∧ t.ds = s.ds ∧ t.gdtr = s.gdtr ∧ t.idtr = s.idtr ∧ t.ldtr = s.ldtr ∧ t.tr = s.tr ∧
      t.run = s.run ∧ t.inhibit = s.inhibit ∧ t.nmiInService = s.nmiInService ∧ t.nmiPending = s.nmiPending ∧
      t.stepTrap = s.stepTrap ∧ t.npxPresent = s.npxPresent ∧ t.pendingExc = s.pendingExc ∧ t.inst = s.inst ∧
      t.platform = s.platform ∧ t.pins = s.pins ∧ t.env = s.env ∧ t.draws = s.draws ∧
      t.fetch.lmswAt = s.fetch.lmswAt ∧ t.fetch.wrapped = s.fetch.wrapped := by
    rintro t rfl
    simp
  revert h
  generalize s.yieldBus = t
  intro h
  have h := h t rfl
  obtain ⟨⟩ := s
  obtain ⟨_, _, _, _, _, _, _, _, _, _, _, _, _, _, _, _, _, _, _, _, _, ⟨⟩⟩ := t
  simp_all

end Sys2Proof.Machine
end

