-- ==== Sys2Proof/Laws/Arithmetic.lean ====
section
/-! SUPPORT. The flag computations in plain arithmetic, and how an instruction's checks end. -/

namespace Sys2Proof

/-! ### Values of a width -/

/-- The values an operand of a width can have. -/
def Width.Holds (w : Width) (v : Word) : Prop := v.toNat < 2 ^ w.bits

theorem Width.holds_word (v : Word) : Width.Holds .word v := v.isLt

theorem Width.holds_zeroExtend (b : Byte) : Width.Holds .byte (zeroExtend b) := by
  have := b.isLt
  simp only [Width.Holds, Width.bits, zeroExtend, BitVec.toNat_setWidth]
  omega

theorem Width.trunc_of_holds (w : Width) (v : Word) (h : w.Holds v) : w.trunc v = v := by
  cases w
  · apply BitVec.eq_of_toNat_eq
    simp only [Width.Holds, Width.bits] at h
    rw [Width.trunc, BitVec.toNat_and, show (0x00FF#16).toNat = 2 ^ 8 - 1 by rfl, Nat.and_two_pow_sub_one_eq_mod]
    omega
  · rfl

theorem Width.holds_trunc (w : Width) (v : Word) : w.Holds (w.trunc v) := by
  cases w
  · rw [Machine.trunc_byte]; exact Width.holds_zeroExtend _
  · exact Width.holds_word _

theorem Width.msb_eq (w : Width) (v : Word) (h : w.Holds v) : w.msb v = decide (2 ^ (w.bits - 1) ≤ v.toNat) := by
  cases w
  · simp only [Width.Holds, Width.bits] at h
    simp only [Width.msb, Width.bits, BitVec.getLsbD, Nat.testBit_eq_decide_div_mod_eq]
    congr 1; apply propext; constructor <;> intro <;> omega
  · simp only [Width.Holds, Width.bits] at h
    simp only [Width.msb, Width.bits, BitVec.getLsbD, Nat.testBit_eq_decide_div_mod_eq]
    congr 1; apply propext; constructor <;> intro <;> omega

theorem Width.toInt_eq (w : Width) (v : Word) (h : w.Holds v) :
    w.toInt v = if 2 ^ (w.bits - 1) ≤ v.toNat then (v.toNat : Int) - 2 ^ w.bits else v.toNat := by
  cases w
  · simp only [Width.Holds, Width.bits] at h
    have : (v.extractLsb' 0 8).toNat = v.toNat := by
      rw [BitVec.extractLsb'_toNat, Nat.shiftRight_zero]; omega
    simp only [Width.toInt, BitVec.toInt_eq_toNat_cond, this, Width.bits]
    split_ifs <;> first | rfl | omega
  · simp only [Width.toInt, BitVec.toInt_eq_toNat_cond, Width.bits]
    split_ifs <;> first | rfl | omega

theorem Imm.holds_value (x : Imm) : x.width.Holds x.value := by
  cases x
  · exact Width.holds_zeroExtend _
  · exact Width.holds_word _

theorem parity_eq (v : Word) : Machine.evenParity v = evenOnes v := by
  simp only [Machine.evenParity, evenOnes]
  simp only [show List.range 8 = [0, 1, 2, 3, 4, 5, 6, 7] by rfl, List.countP_cons, List.countP_nil]
  generalize v.getLsbD 0 = b0
  generalize v.getLsbD 1 = b1
  generalize v.getLsbD 2 = b2
  generalize v.getLsbD 3 = b3
  generalize v.getLsbD 4 = b4
  generalize v.getLsbD 5 = b5
  generalize v.getLsbD 6 = b6
  generalize v.getLsbD 7 = b7
  revert b0 b1 b2 b3 b4 b5 b6 b7
  decide

namespace Machine

/-! ### Operands are of their width -/

theorem State.holds_reg (s : State) (w : Width) (r : Reg) : w.Holds (s.reg w r) := by
  cases w
  · exact Width.holds_zeroExtend _
  · exact Width.holds_word _

theorem State.holds_load (s : State) (w : Width) (g : Segment) (o : Word) : w.Holds (s.load w g o) := by
  cases w
  · exact Width.holds_zeroExtend _
  · exact Width.holds_word _

theorem State.holds_rmValue (s : State) (w : Width) (rm : Rm) : w.Holds (s.rmValue w rm) := by
  cases rm
  · exact State.holds_reg _ _ _
  · exact State.holds_load _ _ _ _

/-! ### Results and flags -/

theorem holds_ofNat_mod (w : Width) (n : Nat) : w.Holds (BitVec.ofNat 16 (n % 2 ^ w.bits)) := by
  cases w <;> simp only [Width.Holds, Width.bits, BitVec.toNat_ofNat] <;> omega

theorem toNat_ofNat_mod (w : Width) (n : Nat) : (BitVec.ofNat 16 (n % 2 ^ w.bits)).toNat = n % 2 ^ w.bits := by
  cases w <;> simp only [Width.bits, BitVec.toNat_ofNat] <;> omega

theorem Flags.setSZP_show (f : Flags) (w : Width) (r : Word) (h : w.Holds r) : (f.setSZP w r).ShowResult w r := by
  refine ⟨w.msb_eq r h, ?_, parity_eq r⟩
  simp only [Flags.setSZP]
  congr 1
  apply propext
  exact ⟨fun h => by simp [h], fun h => BitVec.eq_of_toNat_eq h⟩

/-- AddFlags (41 R281): every flag it writes, and that it writes no other. -/
theorem Flags.add_spec (f : Flags) (w : Width) (c : Bool) (a b : Word) (ha : w.Holds a) (hb : w.Holds b) :
    f.StatusOnly (f.add w c a b) ∧ (f.add w c a b).ShowResult w (addResult w c a b) ∧
    (f.add w c a b).cf = decide (2 ^ w.bits ≤ a.toNat + b.toNat + c.toNat) ∧
    (f.add w c a b).af = decide (16 ≤ a.toNat % 16 + b.toNat % 16 + c.toNat) ∧
    (f.add w c a b).of = !w.fits (w.toInt a + w.toInt b + c.toNat) := by
  refine ⟨rfl, Flags.setSZP_show _ _ _ (holds_ofNat_mod _ _), rfl, rfl, ?_⟩
  have hr : w.Holds (addResult w c a b) := holds_ofNat_mod _ _
  simp only [Flags.add, Flags.setSZP, Width.fits]
  rw [w.msb_eq a ha, w.msb_eq b hb, w.msb_eq _ hr, w.toInt_eq a ha, w.toInt_eq b hb, addResult, toNat_ofNat_mod]
  have hc : c.toNat ≤ 1 := Bool.toNat_le c
  generalize c.toNat = k at *
  cases w <;> simp only [Width.Holds, Width.bits] at * <;>
    rw [Bool.eq_iff_iff] <;>
    simp only [Bool.and_eq_true, beq_iff_eq, bne_iff_ne, ne_eq, Bool.not_eq_true', Bool.and_eq_false_iff] <;>
    split_ifs <;> norm_num at * <;> omega

/-- SubFlags (41 R281). -/
theorem Flags.sub_spec (f : Flags) (w : Width) (c : Bool) (a b : Word) (ha : w.Holds a) (hb : w.Holds b) :
    f.StatusOnly (f.sub w c a b) ∧ (f.sub w c a b).ShowResult w (subResult w c a b) ∧
    (f.sub w c a b).cf = decide (a.toNat < b.toNat + c.toNat) ∧
    (f.sub w c a b).af = decide (a.toNat % 16 < b.toNat % 16 + c.toNat) ∧
    (f.sub w c a b).of = !w.fits (w.toInt a - w.toInt b - c.toNat) := by
  refine ⟨rfl, Flags.setSZP_show _ _ _ (holds_ofNat_mod _ _), rfl, rfl, ?_⟩
  have hr : w.Holds (subResult w c a b) := holds_ofNat_mod _ _
  simp only [Flags.sub, Flags.setSZP, Width.fits]
  rw [w.msb_eq a ha, w.msb_eq b hb, w.msb_eq _ hr, w.toInt_eq a ha, w.toInt_eq b hb, subResult, toNat_ofNat_mod]
  have hc : c.toNat ≤ 1 := Bool.toNat_le c
  generalize c.toNat = k at *
  cases w <;> simp only [Width.Holds, Width.bits] at * <;>
    rw [Bool.eq_iff_iff] <;>
    simp only [Bool.and_eq_true, bne_iff_ne, ne_eq, Bool.not_eq_true', Bool.and_eq_false_iff] <;>
    split_ifs <;> norm_num at * <;> omega

theorem subResult_toNat (w : Width) (c : Bool) (a b : Word) (ha : w.Holds a) (hb : w.Holds b) :
    ((subResult w c a b).toNat : Int) = ((a.toNat : Int) - b.toNat - c.toNat) % 2 ^ w.bits := by
  rw [subResult, toNat_ofNat_mod]
  have hc : c.toNat ≤ 1 := Bool.toNat_le c
  generalize c.toNat = k at *
  cases w <;> simp only [Width.Holds, Width.bits] at * <;> norm_num at * <;> omega

/-! ### How checks end -/

@[simp] theorem check_none : check none = .ok () := rfl

@[simp] theorem check_some (e : Exc) : check (some e) = .error (.exc e) := rfl

@[simp] theorem ensure_true (e : Exc) : ensure true e = .ok () := rfl

@[simp] theorem ensure_false (e : Exc) : ensure false e = .error (.exc e) := rfl

@[simp] theorem complete_ok (s t : State) : complete s (.ok t) = .next t := rfl

@[simp] theorem complete_exc (s : State) (e : Exc) :
    complete s (.error (.exc e)) = raise e.event s.inst.ipInst s.unlocked := rfl

@[simp] theorem exe_bind_ok {α β : Type} (a : α) (f : α → Exe β) : (Except.ok a >>= f : Exe β) = f a := rfl

@[simp] theorem exe_bind_error {α β : Type} (e : Abort) (f : α → Exe β) : (Except.error e >>= f : Exe β) = .error e :=
  rfl

theorem check_eq_ok (o : Option Exc) (u : Unit) : check o = .ok u ↔ o = none := by cases o <;> simp

theorem ensure_eq_ok (c : Bool) (e : Exc) (u : Unit) : ensure c e = .ok u ↔ c = true := by cases c <;> simp

/-- A computation that answers went through its first part. -/
theorem exe_bind_eq_ok {α β : Type} (m : Exe α) (f : α → Exe β) (b : β) :
    (m >>= f) = .ok b ↔ ∃ a, m = .ok a ∧ f a = .ok b := by
  cases m <;> simp

end Machine

end Sys2Proof
end

