-- ==== Sys2Proof/Laws/Operations.lean ====
section
/-! SUPPORT. What each shared operation does once its checks pass, said once for the proofs that use it. -/

namespace Sys2Proof.Machine

/-! ### Operands -/

theorem State.readRm_ok (s : State) (w : Width) (rm : Rm) (h : s.rmReadFault w rm = none) :
    s.readRm w rm = .ok (s.rmValue w rm) := by simp [State.readRm, h]

theorem State.modifyRm_ok (s : State) (w : Width) (rm : Rm) (h : s.rmWriteFault w rm = none) :
    s.modifyRm w rm = .ok (s.rmValue w rm) := by simp [State.modifyRm, h]

theorem State.writeRm_ok (s : State) (w : Width) (rm : Rm) (v : Word) (h : s.rmWriteFault w rm = none) :
    s.writeRm w rm v = .ok (s.setRm w rm v) := by simp [State.writeRm, h]

theorem State.readMem_ok (s : State) (w : Width) (r : SReg) (off : Word) (h : s.readFault r off w.bytes = none) :
    s.readMem w r off = .ok (s.load w (s.seg r) off) := by simp [State.readMem, h]

theorem State.writeMem_ok (s : State) (w : Width) (r : SReg) (off v : Word)
    (h : s.writeFault r off w.bytes = none) : s.writeMem w r off v = .ok (s.store w (s.seg r) off v) := by
  simp [State.writeMem, h]

/-- A doubleword operand whose two words can be read. -/
theorem State.readPair_ok {α : Type} (s : State) (m : Mem) (f : Word → Word → State → Exe α)
    (h₁ : s.readFault (s.eaSeg m) (s.ea m) 2 = none)
    (h₂ : s.readPart (s.eaSeg m) (s.ea m) 2 = none) :
    s.readPair m f =
      s.afterReads 2 (f (s.load .word (s.seg (s.eaSeg m)) (s.ea m))
        ((s.yields 1).load .word (s.seg (s.eaSeg m)) (s.ea m + 2))) := by
  simp only [State.readPair]
  rw [h₁, h₂]
  rfl

/-! ### Operands that fail their checks -/

/-- An access that fails is #GP or, through SS, #SS, with error code 0. -/
theorem State.accessFault_cases (s : State) (r : SReg) (allowed : Bool) (off : Word) (n : Nat) (e : Exc)
    (h : s.accessFault r allowed off n = some e) : e = Exc.gp 0 ∨ e = Exc.ss 0 := by
  unfold State.accessFault limitExc at h
  split at h <;> split at h <;> first | cases h | skip
  · split at h
    · cases h
    · split at h <;> cases h <;> simp
  · exact .inl rfl
  · exact .inl rfl

/-- The exception of an operand's check, as an event of its instruction. -/
theorem State.trap_of_access (s : State) (r : SReg) (allowed : Bool) (off : Word) (n : Nat) (e : Exc)
    (h : s.accessFault r allowed off n = some e) : raise e.event s.inst.ipInst s.unlocked = s.trap e.vector e.code := by
  rcases s.accessFault_cases r allowed off n e h with rfl | rfl <;> rfl

theorem State.trap_of_rmRead (s : State) (w : Width) (rm : Rm) (e : Exc) (h : s.rmReadFault w rm = some e) :
    raise e.event s.inst.ipInst s.unlocked = s.trap e.vector e.code := by
  cases rm with
  | reg r => cases h
  | mem m => exact s.trap_of_access _ _ _ _ e h

theorem State.trap_of_rmWrite (s : State) (w : Width) (rm : Rm) (e : Exc) (h : s.rmWriteFault w rm = some e) :
    raise e.event s.inst.ipInst s.unlocked = s.trap e.vector e.code := by
  cases rm with
  | reg r => cases h
  | mem m => exact s.trap_of_access _ _ _ _ e h

theorem State.readRm_fault (s : State) (w : Width) (rm : Rm) (e : Exc) (h : s.rmReadFault w rm = some e) :
    s.readRm w rm = .error (.exc e) := by
  rw [State.readRm, h]
  rfl

theorem State.modifyRm_fault (s : State) (w : Width) (rm : Rm) (e : Exc) (h : s.rmWriteFault w rm = some e) :
    s.modifyRm w rm = .error (.exc e) := by
  rw [State.modifyRm, h]
  rfl

theorem State.writeRm_fault (s : State) (w : Width) (rm : Rm) (v : Word) (e : Exc)
    (h : s.rmWriteFault w rm = some e) : s.writeRm w rm v = .error (.exc e) := by
  rw [State.writeRm, h]
  rfl

theorem State.readMem_fault (s : State) (w : Width) (r : SReg) (off : Word) (e : Exc)
    (h : s.readFault r off w.bytes = some e) : s.readMem w r off = .error (.exc e) := by
  rw [State.readMem, h]
  rfl

theorem State.writeMem_fault (s : State) (w : Width) (r : SReg) (off v : Word) (e : Exc)
    (h : s.writeFault r off w.bytes = some e) : s.writeMem w r off v = .error (.exc e) := by
  rw [State.writeMem, h]
  rfl

/-! ### The two-operand and one-operand instructions -/

/-- An operation on an r/m operand whose check passes. -/
theorem aluToRm_next (op : AluOp) (w : Width) (rm : Rm) (b : Word) (s : State)
    (h : (if op = .cmp then s.rmReadFault w rm else s.rmWriteFault w rm) = none) :
    aluToRm op w rm b s = .next (s.aluWrite op w rm (s.rmValue w rm) b) := by
  unfold aluToRm State.aluRead
  split_ifs at h ⊢ <;> simp [State.readRm, State.modifyRm, h]

/-- What an operation other than CMP leaves: its result in the operand, its flags, nothing else. -/
theorem State.aluWrite_spec (s : State) (op : AluOp) (w : Width) (rm : Rm) (a b : Word) (h : op ≠ .cmp) :
    (s.beforeWrite rm).DataOnly (s.aluWrite op w rm a b) ∧
    (s.beforeWrite rm).Writes (s.aluWrite op w rm a b) w rm (w.trunc (op.result w s.flags.cf a b)) ∧
    (s.aluWrite op w rm a b).flags = op.flags s.flags w a b (s.freeBit 0) := by
  have e : s.aluWrite op w rm a b =
      ((s.setFlags (op.flags s.flags w a b (s.freeBit 0))).tick ((s.aluFlags op w a b).draws - s.draws)).putBack w rm
        (op.result w s.flags.cf a b) := by
    simp only [State.aluWrite, if_neg h]
    congr 1
    simp [State.aluFlags, State.tick, State.setFlags]
  rw [e]
  exact ⟨State.putBack_flags_dataOnly _ _ _ _ _ _, State.putBack_flags_writes _ _ _ _ _ _, by simp⟩

/-- A read-modify-write instruction whose operand passes its check. -/
theorem modifyWith_next (w : Width) (rm : Rm) (f : Word → Word) (g : Word → Flags) (s : State)
    (h : s.rmWriteFault w rm = none) :
    modifyWith w rm f g s = .next ((s.setFlags (g (s.rmValue w rm))).putBack w rm (f (s.rmValue w rm))) := by
  simp [modifyWith, State.modifyRm, h]

/-- What it leaves. -/
theorem State.modify_spec (s : State) (w : Width) (rm : Rm) (v : Word) (g : Flags) (hv : w.Holds v) :
    (s.beforeWrite rm).DataOnly ((s.setFlags g).putBack w rm v) ∧
    (s.beforeWrite rm).Writes ((s.setFlags g).putBack w rm v) w rm v ∧
    ((s.setFlags g).putBack w rm v).flags = g := by
  have h := State.putBack_flags_writes s g 0 w rm v
  rw [Width.trunc_of_holds _ _ hv] at h
  exact ⟨State.putBack_flags_dataOnly s g 0 w rm v, h, by simp⟩

/-! ### The stack -/

theorem State.push_ok (s : State) (v : Word) (h : s.writeFault .ss (s.regs.sp - 2) 2 = none) :
    s.push v = .ok ((s.putStack (s.regs.sp - 2) v).setSp (s.regs.sp - 2)) := by
  rw [State.push, h]
  rfl

theorem State.push_fault (s : State) (v : Word) (e : Exc) (h : s.writeFault .ss (s.regs.sp - 2) 2 = some e) :
    s.push v = .error (.exc e) := by
  rw [State.push, h]
  rfl

/-- A stack read that the read check allows; in real mode that excludes offset FFFFH. -/
theorem State.popCheck_ok (s : State) (off : Word) (h : s.readFault .ss off 2 = none) : s.popCheck off = .ok () := by
  unfold State.popCheck
  rw [if_neg, h]
  · rfl
  · simp only [Bool.and_eq_true, Bool.not_eq_true', beq_iff_eq, not_and]
    intro hp hs
    rw [State.readFault, State.accessFault, hp, hs] at h
    simp at h

theorem State.top_ok (s : State) (h : s.readFault .ss s.regs.sp 2 = none) :
    s.top = .ok (s.load .word s.ss s.regs.sp) := by
  simp only [State.top, State.popCheck_ok s _ h, exe_bind_ok]
  rfl

/-- Checks of accesses depend on the segment registers and the mode alone. -/
theorem State.accessFault_congr {s t : State} (hp : t.prot = s.prot) (hs : ∀ r, t.seg r = s.seg r) (r : SReg)
    (b : Bool) (off : Word) (n : Nat) : t.accessFault r b off n = s.accessFault r b off n := by
  simp only [State.accessFault, hp, hs]

theorem State.readFault_congr {s t : State} (hp : t.prot = s.prot) (hs : ∀ r, t.seg r = s.seg r) (r : SReg)
    (off : Word) (n : Nat) : t.readFault r off n = s.readFault r off n := by
  simp only [State.readFault, hs, State.accessFault_congr hp hs]

theorem State.writeFault_congr {s t : State} (hp : t.prot = s.prot) (hs : ∀ r, t.seg r = s.seg r) (r : SReg)
    (off : Word) (n : Nat) : t.writeFault r off n = s.writeFault r off n := by
  simp only [State.writeFault, hs, State.accessFault_congr hp hs]

theorem sub_two_mul (x : Word) (k : Nat) :
    x - 2 - BitVec.ofNat 16 (2 * k) = x - BitVec.ofNat 16 (2 * (k + 1)) := by
  apply BitVec.eq_of_toNat_eq
  have h2 : (2 : Word).toNat = 2 := rfl
  simp only [BitVec.toNat_sub, BitVec.toNat_ofNat, h2]
  omega

/-- Room for n words, word by word. -/
theorem State.pushFault_none (s : State) : ∀ (n : Nat) (sp : Word),
    (∀ k < n, s.writeFault .ss (sp - 2 - BitVec.ofNat 16 (2 * k)) 2 = none) → s.pushFault n sp = none
  | 0, _, _ => rfl
  | n + 1, sp, h => by
    have h₀ : s.writeFault .ss (sp - 2) 2 = none := by simpa using h 0 (Nat.succ_pos n)
    rw [State.pushFault, h₀]
    apply State.pushFault_none s n
    intro k hk
    rw [sub_two_mul (sp - 2), sub_two_mul]
    have := h (k + 1) (Nat.succ_lt_succ hk)
    rwa [sub_two_mul] at this

/-- Room for n words on a new stack, word by word. -/
theorem Segment.roomFor_iff (g : Segment) : ∀ (n : Nat) (sp : Word),
    (∀ k < n, g.inLimit (sp - 2 - BitVec.ofNat 16 (2 * k)) 2 = true) → g.roomFor n sp = true
  | 0, _, _ => rfl
  | n + 1, sp, h => by
    have h₀ : g.inLimit (sp - 2) 2 = true := by simpa using h 0 (Nat.succ_pos n)
    rw [Segment.roomFor, h₀, Bool.true_and]
    apply Segment.roomFor_iff g n
    intro k hk
    rw [sub_two_mul (sp - 2), sub_two_mul]
    have := h (k + 1) (Nat.succ_lt_succ hk)
    rwa [sub_two_mul] at this

/-- SP after pushing words. -/
theorem State.pushList_sp : ∀ (vs : List Word) (s : State),
    (s.pushList vs).regs = s.regs.set .sp (s.regs.sp - BitVec.ofNat 16 (2 * vs.length))
  | [], s => by simp [State.pushList, Regs.set]
  | v :: vs, s => by
    rw [State.pushList, State.pushList_sp vs]
    simp only [State.yieldBus_regs, State.setSp_regs, State.putStack_regs, Regs.set, List.length_cons]
    rw [sub_two_mul]

/-- A push where no other master's write is to come: that of the first word, then those of the others. -/
theorem State.pushList_cons {s : State} (h : s.Quiet) (v : Word) (vs : List Word) :
    s.pushList (v :: vs) = ((s.putStack (s.regs.sp - 2) v).setSp (s.regs.sp - 2)).pushList vs := by
  rw [State.pushList, State.yieldBus_quiet (s := (s.putStack (s.regs.sp - 2) v).setSp (s.regs.sp - 2)) h]

/-- Pushing words then changes SP, memory, the record of the step's stores and the queue's copies of the bytes
stored. -/
theorem State.pushList_only (vs : List Word) : ∀ s : State, s.Quiet →
    s.pushList vs =
      { s with
        regs := (s.pushList vs).regs, mem := (s.pushList vs).mem, writes := (s.pushList vs).writes
        fetch := (s.pushList vs).fetch } := by
  induction vs with
  | nil => exact fun _ _ => rfl
  | cons v vs ih =>
    intro s h
    rw [State.pushList_cons h]
    exact ih ((s.putStack (s.regs.sp - 2) v).setSp (s.regs.sp - 2)) h

theorem State.stackCells_congr {s t : State} (hs : t.ss = s.ss) (ht : ∀ g o, t.translate g o = s.translate g o)
    (hp : t.platform = s.platform) : ∀ (n : Nat) (off : Word), t.stackCells off n = s.stackCells off n
  | 0, _ => rfl
  | n + 1, off => by
    simp only [State.stackCells, State.cells, hs, ht, State.physAddr_congr hp, State.stackCells_congr hs ht hp n]

/-- The cells of n words are their 2n bytes. -/
theorem State.mem_stackCells (s : State) (a : Nat) : ∀ (n : Nat) (off : Word),
    a ∈ s.stackCells off n ↔
      ∃ j < n, ∃ k < 2, a = s.physAddr (s.translate s.ss (off + BitVec.ofNat 16 (2 * j)) + k)
  | 0, off => by simp [State.stackCells]
  | n + 1, off => by
    rw [State.stackCells, List.mem_append, State.mem_stackCells s a n]
    have e : ∀ j, off + 2 + BitVec.ofNat 16 (2 * j) = off + BitVec.ofNat 16 (2 * (j + 1)) := by
      intro j
      rw [BitVec.add_assoc, Nat.mul_add, Nat.add_comm (2 * j), BitVec.ofNat_add]
      rfl
    simp only [State.cells, List.mem_cons, List.not_mem_nil, or_false, e]
    constructor
    · rintro ((rfl | rfl) | ⟨j, hj, k, hk, rfl⟩)
      · exact ⟨0, by omega, 0, by omega, by simp⟩
      · exact ⟨0, by omega, 1, by omega, by simp⟩
      · exact ⟨j + 1, by omega, k, hk, rfl⟩
    · rintro ⟨j, hj, k, hk, rfl⟩
      match j with
      | 0 =>
        left
        match k with
        | 0 => left; simp
        | 1 => right; simp
      | j + 1 => right; exact ⟨j, by omega, k, hk, rfl⟩

/-- Pushing words changes no byte outside their cells. -/
theorem State.pushList_kept : ∀ (vs : List Word) (s : State), s.Quiet →
    s.MemoryKept (s.pushList vs) (s.stackCells (s.regs.sp - BitVec.ofNat 16 (2 * vs.length)) vs.length)
  | [], s, _ => fun _ _ => rfl
  | v :: vs, s, hq => by
    rw [State.pushList_cons hq]
    have h := State.pushList_kept vs ((s.putStack (s.regs.sp - 2) v).setSp (s.regs.sp - 2)) hq
    rw [State.stackCells_congr (s := s) (by simp) (by simp) (by simp)] at h
    have h0 : s.MemoryKept ((s.putStack (s.regs.sp - 2) v).setSp (s.regs.sp - 2))
        (s.cells .word s.ss (s.regs.sp - 2)) :=
      State.store_kept s .word s.ss (s.regs.sp - 2) v
    refine (h0.trans h).mono ?_
    intro a ha
    rw [List.mem_append] at ha
    rw [State.mem_stackCells]
    have e : ∀ (n j : Nat), s.regs.sp - 2 - BitVec.ofNat 16 (2 * n) + BitVec.ofNat 16 j =
        s.regs.sp - BitVec.ofNat 16 (2 * (n + 1)) + BitVec.ofNat 16 j := by
      intro n j; rw [sub_two_mul]
    rcases ha with ha | ha
    · have e2 : s.regs.sp - BitVec.ofNat 16 (2 * (vs.length + 1)) + BitVec.ofNat 16 (2 * vs.length) =
          s.regs.sp - 2 := by
        apply BitVec.eq_of_toNat_eq
        have h2 : (2 : Word).toNat = 2 := rfl
        simp only [BitVec.toNat_add, BitVec.toNat_sub, BitVec.toNat_ofNat, h2]
        omega
      simp only [State.cells, List.mem_cons, List.not_mem_nil, or_false] at ha
      rcases ha with rfl | rfl
      · exact ⟨vs.length, by simp, 0, by omega, by rw [List.length_cons, e2]; rfl⟩
      · exact ⟨vs.length, by simp, 1, by omega, by rw [List.length_cons, e2]⟩
    · rw [State.mem_stackCells] at ha
      obtain ⟨j, hj, k, hk, rfl⟩ := ha
      refine ⟨j, by rw [List.length_cons]; omega, k, hk, ?_⟩
      rw [List.length_cons, ← e]; simp [Regs.set]

/-- Words pushed lie where they were pushed, on a platform that decodes A15-A0. -/
theorem State.pushList_load (vs : List Word) : ∀ s : State, s.Quiet → s.LowDecoded → vs.length ≤ 2 ^ 15 →
    ∀ (k : Nat) (hk : k < vs.length),
    (s.pushList vs).load .word s.ss (s.regs.sp - 2 - BitVec.ofNat 16 (2 * k)) = vs[k] := by
  induction vs with
  | nil => intro s _ _ _ k hk; exact absurd hk (by simp)
  | cons v vs ih =>
    intro s hq hd hl k hk
    obtain ⟨u, hu⟩ : ∃ u, u = (s.putStack (s.regs.sp - 2) v).setSp (s.regs.sp - 2) := ⟨_, rfl⟩
    have hsp : u.regs.sp = s.regs.sp - 2 := by rw [hu]; rfl
    have hss : u.ss = s.ss := by rw [hu]; simp
    have hu' : u.Quiet := by rw [hu]; exact hq
    have hd' : u.LowDecoded := by rw [hu]; exact hd
    have hpush : s.pushList (v :: vs) = u.pushList vs := by rw [State.pushList_cons hq, hu]
    rw [hpush]
    cases k with
    | succ k =>
      have h := ih u hu' hd' (by simp at hl; omega) k (by simpa using hk)
      rw [hsp, hss] at h
      rw [List.getElem_cons_succ, ← h, ← sub_two_mul, sub_two_mul, sub_two_mul]
    | zero =>
      have h := State.pushList_kept vs u hu'
      have hv : u.load .word s.ss (s.regs.sp - 2) = v := by
        rw [hu]; exact State.load_store s (w := .word) (.inr hd) s.ss (s.regs.sp - 2) v
      have e0 : s.regs.sp - 2 - BitVec.ofNat 16 (2 * 0) = s.regs.sp - 2 := by simp
      rw [List.getElem_cons_zero, ← hv, e0]
      refine State.load_kept h (by simp) .word s.ss _ ?_
      intro a ha hb
      rw [State.mem_stackCells] at hb
      obtain ⟨j, hj, i, hi, rfl⟩ := hb
      simp only [State.cells, List.mem_cons, List.not_mem_nil, or_false, hss, hsp] at ha
      simp only [List.length_cons] at hl
      have h2 : (2 : Word).toNat = 2 := rfl
      rcases ha with ha | ha
      · have := State.physAddr_inj (k := 0) u hd' s.ss ha
        simp only [BitVec.toNat_add, BitVec.toNat_sub, BitVec.toNat_ofNat, h2] at this
        omega
      · have := State.physAddr_inj u hd' s.ss ha
        simp only [BitVec.toNat_add, BitVec.toNat_sub, BitVec.toNat_ofNat, h2] at this
        omega

/-! ### Ports -/

theorem State.ioCheck_ok (s : State) (h : s.prot = true → s.cpl ≤ s.flags.iopl.toNat) : s.ioCheck = .ok () := by
  simp only [State.ioCheck, State.ioAllowed]
  cases hp : s.prot
  · rfl
  · simp [h hp]

theorem State.ioCheck_trap (s : State) (hp : s.prot = true) (h : s.flags.iopl.toNat < s.cpl) :
    s.ioCheck = .error (.exc (Exc.gp 0)) := by
  rw [State.ioCheck, State.ioAllowed, hp, decide_eq_false (by omega)]
  rfl

theorem State.supervisorCheck_ok (s : State) (h : s.prot = true → s.cpl = 0) : s.supervisorCheck = .ok () := by
  simp only [State.supervisorCheck, State.supervisor]
  cases hp : s.prot
  · rfl
  · simp [h hp]

theorem State.supervisorCheck_trap (s : State) (hp : s.prot = true) (h : s.cpl ≠ 0) :
    s.supervisorCheck = .error (.exc (Exc.gp 0)) := by
  simp [State.supervisorCheck, State.supervisor, hp, h]

theorem portRefused_false (w : Width) (port : Word) (h : w = .byte ∨ port ≠ 0xFFFF#16) :
    portRefused w port = false := by
  unfold portRefused
  rcases h with rfl | h
  · rfl
  · simp [h]

/-! ### Strings -/

/-- A string instruction whose iteration answers `u`. -/
theorem stringPass_next (compares : Bool) (m : Exe State) (s u : State) (hm : m = .ok u)
    (h : s.inst.rep ≠ none → s.regs.cx ≠ 0) (hi : u.inst = s.inst) :
    stringPass compares m s = .next (s.afterIteration u compares) := by
  unfold stringPass State.afterIteration
  cases hr : s.inst.rep with
  | none => rw [hm]; rfl
  | some p =>
    simp only []
    rw [if_neg (h (by rw [hr]; simp)), hm]
    show Host.Outcome.next _ = _
    congr 1
    have e : (u.setReg16 .cx (u.regs.cx - 1)).repeatEnds p compares = true ↔
        (u.regs.cx - 1 = 0 ∨ (compares = true ∧ u.flags.zf ≠ decide (p = .repe))) := by
      simp [State.repeatEnds, Regs.set]
    by_cases hc : (u.setReg16 .cx (u.regs.cx - 1)).repeatEnds p compares = true
    · rw [if_pos hc, if_pos (e.mp hc)]; rfl
    · rw [if_neg hc, if_neg (fun x => hc (e.mpr x))]
      simp only [State.goOn, State.setReg16, hi]; rfl

/-! ### Near transfers -/

/-- A relative target is the signed sum. -/
theorem relative_target (ip : Word) (cb : Byte) : ip + signExtend cb = BitVec.ofInt 16 (ip.toNat + cb.toInt) := by
  apply BitVec.eq_of_toInt_eq
  rw [BitVec.toInt_add, BitVec.toInt_ofInt, signExtend, BitVec.toInt_signExtend_of_le (by norm_num),
    BitVec.toInt_eq_toNat_bmod ip]
  simp

theorem State.nearFault_eq (s : State) (t : Word) :
    s.nearFault t = if s.prot = true ∧ ¬ t.toNat ≤ s.cs.limit.toNat then some (Exc.gp 0) else none := by
  simp [State.nearFault]

theorem State.nearFault_none (s : State) (t : Word) (h : s.InCode t) : s.nearFault t = none := by
  rw [State.nearFault_eq, if_neg]
  rintro ⟨a, b⟩
  exact b (h a)

theorem State.nearFault_some (s : State) (t : Word) (h : ¬ s.InCode t) : s.nearFault t = some (Exc.gp 0) := by
  rw [State.nearFault_eq, if_pos]
  unfold State.InCode at h
  push Not at h
  exact ⟨h.1, not_le.mpr h.2⟩

/-! ### Selectors and descriptors -/

theorem selNull_iff (sel : Word) : selNull sel = true ↔ sel.toNat < 4 := by
  have h : (sel &&& 0xFFFC#16).toNat = sel.toNat / 4 * 4 := by
    have e : sel &&& 0xFFFC#16 = (sel >>> 2) <<< 2 := by
      ext i hi
      have : i < 16 := hi
      interval_cases i <;> simp [BitVec.getElem_and]
    rw [e]
    simp only [BitVec.toNat_shiftLeft, BitVec.toNat_ushiftRight, Nat.shiftLeft_eq, Nat.shiftRight_eq_div_pow]
    have := sel.isLt
    omega
  simp only [selNull, beq_iff_eq]
  constructor
  · intro hn
    have := congrArg BitVec.toNat hn
    rw [h] at this
    simp at this
    omega
  · intro hl
    apply BitVec.eq_of_toNat_eq
    rw [h]
    simp
    omega

theorem selCode_false (sel : Word) : selCode sel false = sel &&& 0xFFFC#16 := by simp [selCode]

/-- Replacing the RPL of a selector. -/
theorem selWithRpl_eq (sel : Word) (level : Nat) : selWithRpl sel level = withLevel sel level := by
  have e : sel &&& 0xFFFC#16 = (sel >>> 2) <<< 2 := by
    ext i hi
    have : i < 16 := hi
    interval_cases i <;> simp [BitVec.getElem_and]
  have hd : selWithRpl sel level = (sel >>> 2) <<< 2 + BitVec.ofNat 16 (level % 4) := by
    rw [selWithRpl, e, BitVec.add_eq_or_of_and_eq_zero]
    have hl : level % 4 < 4 := Nat.mod_lt _ (by norm_num)
    ext i hi
    rcases Nat.lt_or_ge i 2 with h | h
    · simp [BitVec.getElem_and, BitVec.getElem_shiftLeft, h]
    · have : (BitVec.ofNat 16 (level % 4))[i] = false := by
        rw [← BitVec.getLsbD_eq_getElem, BitVec.getLsbD_ofNat]
        simp [hi, Nat.testBit_lt_two_pow (show level % 4 < 2 ^ i from lt_of_lt_of_le hl (by
          calc 4 = 2 ^ 2 := rfl
            _ ≤ 2 ^ i := Nat.pow_le_pow_right (by norm_num) h))]
      simp [BitVec.getElem_and, this]
  rw [hd, withLevel]
  apply BitVec.eq_of_toNat_eq
  simp only [BitVec.toNat_add, BitVec.toNat_shiftLeft, BitVec.toNat_ushiftRight, Nat.shiftLeft_eq,
    Nat.shiftRight_eq_div_pow, BitVec.toNat_ofNat]
  have := sel.isLt
  omega

/-- A selector at the level it names is unchanged. -/
theorem withLevel_self (sel : Word) : withLevel sel (sel.toNat % 4) = sel := by
  apply BitVec.eq_of_toNat_eq
  have := sel.isLt
  simp only [withLevel, BitVec.toNat_ofNat]
  omega

/-- The test of a selector that names a descriptor. -/
theorem State.testSel_named (s : State) (sel : Word) (d : Desc) (test : Desc → Bool) (h : s.Named sel d) :
    s.testSel sel test =
      if test d = true then if d.ar.getLsbD 7 = true then .ok d else .error .absent else .error .bad := by
  have hn : selNull sel = false := by
    rw [Bool.eq_false_iff, ne_eq, selNull_iff]
    have := h.1
    omega
  simp only [State.testSel, hn, h.2, rightsPresent]
  rfl

/-- A segment register loaded from a descriptor. -/
theorem Desc.toSegment_eq (d : Desc) (sel : Word) : d.toSegment sel = d.cached sel := rfl

end Sys2Proof.Machine
end

