-- ==== Sys2Proof/Laws/Invariant.lean ====
section
/-! SUPPORT. What no operation but LGDT, LIDT and LMSW changes, carried through checks, delivery and returns: the
table registers, every bit of MSW but TS, the canonical form of memory and of the record of stores, and IOPL and NT in
real mode. -/

namespace Sys2Proof.Machine

/-- The system state that ordinary operations keep. -/
structure State.Keeps (s t : State) : Prop where
  gdtr : t.gdtr = s.gdtr
  idtr : t.idtr = s.idtr
  msw : t.msw ||| 8#16 = s.msw ||| 8#16
  mem : s.Stored → t.Stored
  flags : s.pe = false → t.flags.iopl = s.flags.iopl ∧ t.flags.nt = s.flags.nt
  code : t.inst.code = s.inst.code

theorem pe_of_msw {s t : State} (h : t.msw ||| 8#16 = s.msw ||| 8#16) : t.pe = s.pe := by
  have := congrArg (fun v => BitVec.getLsbD v 0) h
  simpa [State.pe, BitVec.getLsbD_or] using this

theorem State.Keeps.refl (s : State) : s.Keeps s := ⟨rfl, rfl, rfl, id, fun _ => ⟨rfl, rfl⟩, rfl⟩

theorem State.Keeps.trans {s t u : State} (h : s.Keeps t) (k : t.Keeps u) : s.Keeps u where
  gdtr := k.gdtr.trans h.gdtr
  idtr := k.idtr.trans h.idtr
  msw := k.msw.trans h.msw
  mem := fun w => k.mem (h.mem w)
  flags := fun p =>
    have q := h.flags p
    have r := k.flags ((pe_of_msw h.msw).trans p)
    ⟨r.1.trans q.1, r.2.trans q.2⟩
  code := k.code.trans h.code

/-- Updates that touch none of it. -/
theorem State.Keeps.of_fields {s t : State} (h₁ : t.gdtr = s.gdtr) (h₂ : t.idtr = s.idtr) (h₃ : t.msw = s.msw)
    (h₄ : s.Stored → t.Stored) (h₅ : t.flags.iopl = s.flags.iopl) (h₆ : t.flags.nt = s.flags.nt)
    (h₇ : t.inst.code = s.inst.code) : s.Keeps t :=
  ⟨h₁, h₂, by rw [h₃], h₄, fun _ => ⟨h₅, h₆⟩, h₇⟩

theorem State.keeps_setReg (s : State) (w : Width) (r : Reg) (v : Word) : s.Keeps (s.setReg w r v) :=
  .of_fields (by simp) (by simp) (by simp) (fun h => h.congr (by simp) (by simp)) (by simp) (by simp) (by simp)

theorem State.keeps_putByte (s : State) (a : Nat) (v : Byte) : s.Keeps (s.putByte a v) :=
  .of_fields rfl rfl rfl (State.putByte_stored s a v) rfl rfl rfl

theorem State.keeps_putWord (s : State) (a : Nat) (v : Word) : s.Keeps (s.putWord a v) :=
  .of_fields rfl rfl rfl (State.putWord_stored s a v) rfl rfl rfl

theorem State.keeps_store (s : State) (w : Width) (g : Segment) (off v : Word) : s.Keeps (s.store w g off v) :=
  .of_fields (by simp) (by simp) (by simp) (State.store_stored s w g off v) (by simp) (by simp) (by simp)

theorem State.keeps_setRm (s : State) (w : Width) (rm : Rm) (v : Word) : s.Keeps (s.setRm w rm v) :=
  .of_fields (by simp) (by simp) (by simp) (State.setRm_stored s w rm v) (by simp) (by simp) (by simp)

theorem State.keeps_pushList (s : State) (vs : List Word) : s.Keeps (s.pushList vs) :=
  .of_fields (by simp) (by simp) (by simp) (State.pushList_stored vs s) (by simp) (by simp) (by simp)

theorem State.keeps_setSeg (s : State) (r : SReg) (g : Segment) : s.Keeps (s.setSeg r g) :=
  .of_fields (by simp) (by simp) (by simp) (fun h => h.congr (by simp) (by simp)) (by simp) (by simp) (by simp)

theorem State.keeps_loadSeg (s : State) (r : SReg) (d : Desc) (sel : Word) : s.Keeps (s.loadSeg r d sel) :=
  .of_fields (by simp) (by simp) (by simp) (State.loadSeg_stored s r d sel) (by simp) (by simp) (by simp)

theorem State.keeps_enterCode (s : State) (d : Desc) (sel : Word) (l : Nat) (off : Word) :
    s.Keeps (s.enterCode d sel l off) :=
  (State.keeps_loadSeg s .cs d _).trans (.of_fields rfl rfl rfl id rfl rfl rfl)

/-- Another master's writes in the middle of a step. -/
theorem State.keeps_yieldBus (s : State) : s.Keeps s.yieldBus :=
  .of_fields (by simp) (by simp) (by simp) (State.yieldBus_stored s) (by simp) (by simp) (by simp)

theorem State.keeps_yields (s : State) (n : Nat) : s.Keeps (s.yields n) :=
  .of_fields (by simp) (by simp) (by simp) (State.yields_stored n s) (by simp) (by simp) (by simp)

theorem State.keeps_putBack (s : State) (w : Width) (rm : Rm) (v : Word) : s.Keeps (s.putBack w rm v) :=
  .of_fields (by simp) (by simp) (by simp) (State.putBack_stored s w rm v) (by simp) (by simp) (by simp)

theorem State.keeps_enterReal (s : State) (sel off : Word) : s.Keeps (s.enterReal sel off) :=
  .of_fields rfl rfl rfl id rfl rfl rfl

theorem State.keeps_jumpTo (s : State) (off : Word) : s.Keeps (s.jumpTo off) := .of_fields rfl rfl rfl id rfl rfl rfl

theorem State.keeps_setSp (s : State) (v : Word) : s.Keeps (s.setSp v) := .of_fields rfl rfl rfl id rfl rfl rfl

theorem State.keeps_taken (s : State) : s.Keeps s.taken := .of_fields rfl rfl rfl id rfl rfl rfl

theorem State.keeps_shutDown (s : State) : s.Keeps s.shutDown := .of_fields rfl rfl rfl id rfl rfl rfl

theorem State.keeps_unlocked (s : State) : s.Keeps s.unlocked := .of_fields rfl rfl rfl id rfl rfl rfl

theorem State.keeps_leavePending (s : State) (e : Exc) : s.Keeps (s.leavePending e) :=
  .of_fields rfl rfl rfl id rfl rfl rfl

theorem State.keeps_endNmi (s : State) : s.Keeps s.endNmi := .of_fields rfl rfl rfl id rfl rfl rfl

/-- Writing the flags in protected mode, or with IOPL and NT as they are. -/
theorem State.keeps_setFlags (s : State) (f : Flags)
    (h : s.pe = false → f.iopl = s.flags.iopl ∧ f.nt = s.flags.nt) : s.Keeps (s.setFlags f) :=
  ⟨rfl, rfl, rfl, id, h, rfl⟩

theorem State.pe_of_prot {s : State} (h : s.prot = true) : s.pe = true := by
  simp only [State.prot, Bool.and_eq_true] at h
  exact h.1

/-! ### Operations that answer or stop -/

/-- Where an operation answers, its answer has a property; where it stops in a state of its own, that state keeps
the system state. -/
def Keeping {α : Type} (s : State) (P : α → Prop) (m : Exe α) : Prop :=
  match m with
  | .ok a => P a
  | .error (.after _ t) => s.Keeps t
  | .error (.excAt _ t) => s.Keeps t
  | .error (.doubleAt _ t) => s.Keeps t
  | .error (.shutdown t) => s.Keeps t
  | .error _ => True

theorem Keeping.bind {α β : Type} {s : State} {P : α → Prop} {Q : β → Prop} {m : Exe α} {f : α → Exe β}
    (h : Keeping s P m) (k : ∀ a, P a → Keeping s Q (f a)) : Keeping s Q (m >>= f) := by
  cases m with
  | ok a => exact k a h
  | error e => cases e <;> exact h

theorem Keeping.mono {α : Type} {s : State} {P Q : α → Prop} {m : Exe α} (h : Keeping s P m) (k : ∀ a, P a → Q a) :
    Keeping s Q m := by
  cases m with
  | ok a => exact k a h
  | error e => cases e <;> exact h

/-- What keeps the system state of a later state keeps that of an earlier one. -/
theorem Keeping.after {α : Type} {s t : State} {P : α → Prop} {m : Exe α} (h : s.Keeps t) (k : Keeping t P m) :
    Keeping s P m := by
  cases m with
  | ok a => exact k
  | error e =>
    cases e with
    | after e u => exact h.trans k
    | excAt e u => exact h.trans k
    | doubleAt e u => exact h.trans k
    | shutdown u => exact h.trans k
    | _ => trivial

/-- Going on after places where other masters' writes may fall. -/
theorem keeping_afterReads {α : Type} {s : State} {P : α → Prop} (t : State) (h : s.Keeps t) (n : Nat)
    {f : State → Exe α} (k : ∀ u, s.Keeps u → Keeping s P (f u)) : Keeping s P (t.afterReads n f) := by
  have hy : s.Keeps (t.yields n) := h.trans (State.keeps_yields t n)
  have hk := k _ hy
  unfold State.afterReads keepBus
  cases hm : f (t.yields n) with
  | ok a => rw [hm] at hk; exact hk
  | error e =>
    rw [hm] at hk
    cases e with
    | exc e => exact hy
    | _ => exact hk

theorem keeping_check (s : State) (o : Option Exc) : Keeping s (fun _ => True) (check o) := by
  cases o <;> trivial

theorem keeping_ensure (s : State) (c : Bool) (e : Exc) : Keeping s (fun _ => True) (ensure c e) := by
  cases c <;> trivial

theorem keeping_orExc {α : Type} (s : State) (m : Except SelError α) (a b : Exc) :
    Keeping s (fun _ => True) (orExc m a b) := by
  cases m with
  | ok => trivial
  | error e => cases e <;> trivial

theorem keeping_orExcAt {α : Type} (s : State) (m : Except SelError α) (a b : Exc) :
    Keeping s (fun _ => True) (orExcAt s m a b) := by
  cases m with
  | ok => trivial
  | error e => cases e <;> exact State.Keeps.refl s

theorem State.keeping_popCheck (s : State) (off : Word) : Keeping s (fun _ => True) (s.popCheck off) := by
  unfold State.popCheck
  split_ifs
  · exact State.Keeps.refl s
  · trivial
  · exact keeping_check s _

/-! ### Task switches -/

theorem State.keeps_saveTask (s : State) (ret f : Word) : s.Keeps (s.saveTask ret f) := by
  have h : ∀ (l : List (Nat × Word)) (b : Nat) (t : State), s.Keeps t →
      s.Keeps (l.foldl (fun t x => (t.putWord (b + x.1) x.2).yieldBus) t) := by
    intro l b
    induction l with
    | nil => exact fun _ h => h
    | cons x l ih => exact fun t h => ih _ ((h.trans (State.keeps_putWord t _ _)).trans (State.keeps_yieldBus _))
  exact h _ _ s (State.Keeps.refl s)

theorem State.keeps_setTaskSwitched (s : State) (b : Bool) : s.Keeps (s.setTaskSwitched b) := by
  refine ⟨rfl, rfl, ?_, id, fun _ => ⟨rfl, rfl⟩, rfl⟩
  simp only [State.setTaskSwitched]
  ext i hi
  have : i < 16 := hi
  cases b <;> interval_cases i <;> simp [BitVec.getElem_or, BitVec.getElem_and]

/-- A task switch is made in protected mode alone. -/
theorem State.keeps_commitSwitch (s : State) (kind : SwitchKind) (sel : Word) (d : Desc) (ret : Word)
    (hp : s.pe = true) : s.Keeps (s.commitSwitch kind sel d ret) := by
  unfold State.commitSwitch
  simp only []
  have h₁ : ∀ f, s.Keeps (s.yieldBus.saveTask ret f) := fun f =>
    (State.keeps_yieldBus s).trans (State.keeps_saveTask _ ret f)
  have h₂ := fun t (h : s.Keeps t) => show s.Keeps (if kind = .nest then t else (t.setBusy s.tr.sel false).yieldBus) by
    split_ifs
    · exact h
    · exact (h.trans (State.keeps_putByte _ _ _)).trans (State.keeps_yieldBus _)
  have h₃ := fun t (h : s.Keeps t) => show s.Keeps (if kind = .iret then t else (t.setBusy sel true).yieldBus) by
    split_ifs
    · exact h
    · exact (h.trans (State.keeps_putByte _ _ _)).trans (State.keeps_yieldBus _)
  have h₄ := fun t (h : s.Keeps t) =>
    show s.Keeps (({ t with tr := { sel := sel, base := d.base, limit := d.word0 } } : State).setTaskSwitched true) from
      (h.trans (u := { t with tr := { sel := sel, base := d.base, limit := d.word0 } })
        (.of_fields rfl rfl rfl id rfl rfl rfl)).trans (State.keeps_setTaskSwitched _ _)
  have h₅ := fun t (h : s.Keeps t) =>
    show s.Keeps (if kind = .nest then t.putWord d.base.toNat s.tr.sel else t) by
      split_ifs
      · exact h.trans (State.keeps_putWord _ _ _)
      · exact h
  have h₆ := fun t (h : s.Keeps t) (b : Bool) =>
    show s.Keeps (t.loadTask b) from
      h.trans
        { gdtr := by simp [State.loadTask]
          idtr := by simp [State.loadTask]
          msw := by simp [State.loadTask]
          mem := fun w => (State.yields_stored 14 t w).congr rfl rfl
          flags := fun q => absurd q (by rw [pe_of_msw h.msw, hp]; decide)
          code := by simp [State.loadTask] }
  exact h₆ _ ((h₅ _ (h₄ _ (h₃ _ (h₂ _ (h₁ _))))).trans (State.keeps_yieldBus _)) _

theorem State.keeping_enterTask (s : State) (ext : Bool) : Keeping s s.Keeps (s.enterTask ext) := by
  have data : ∀ (t : State) (r : SReg), s.Keeps t → Keeping s s.Keeps (t.enterTaskData r ext) := by
    intro t r h
    unfold State.enterTaskData
    simp only []
    split_ifs
    · exact h
    · exact (Keeping.after h (keeping_orExcAt t _ _ _)).bind fun d _ => h.trans (State.keeps_loadSeg t r d _)
  have ldt : ∀ t : State, s.Keeps t → Keeping s s.Keeps (t.enterLdt ext) := by
    intro t h
    unfold State.enterLdt
    simp only []
    split_ifs
    · exact h
    · exact (Keeping.after h (keeping_orExcAt t _ _ _)).bind fun d _ =>
        h.trans (.of_fields rfl rfl rfl id rfl rfl rfl)
  have cs : ∀ t : State, s.Keeps t → Keeping s s.Keeps (t.enterTaskCs ext) := fun t h =>
    (Keeping.after h (keeping_orExcAt t _ _ _)).bind fun d _ => h.trans (State.keeps_loadSeg t .cs d _)
  have ss : ∀ t : State, s.Keeps t → Keeping s s.Keeps (t.enterTaskSs ext) := fun t h =>
    (Keeping.after h (keeping_orExcAt t _ _ _)).bind fun d _ => h.trans (State.keeps_loadSeg t .ss d _)
  have y := fun t (h : s.Keeps t) => h.trans (State.keeps_yieldBus t)
  exact (ldt _ (y _ (State.Keeps.refl s))).bind fun t₁ h₁ => (cs _ (y _ h₁)).bind fun t₂ h₂ =>
    (ss _ (y _ h₂)).bind fun t₃ h₃ => (data _ .ds (y _ h₃)).bind fun t₄ h₄ => data _ .es (y _ h₄)

theorem State.keeping_switchTasks (s : State) (kind : SwitchKind) (sel : Word) (d : Desc) (ret : Word) (ext : Bool)
    (hp : s.pe = true) : Keeping s s.Keeps (s.switchTasks kind sel d ret ext) :=
  (keeping_ensure s _ _).bind fun _ _ => (keeping_ensure s _ _).bind fun _ _ =>
    (Keeping.after (State.keeps_commitSwitch s kind sel d ret hp) (State.keeping_enterTask _ ext)).mono
      fun _ h => (State.keeps_commitSwitch s kind sel d ret hp).trans h

theorem State.keeping_taskIpCheck {s t : State} (h : s.Keeps t) (ext : Bool) :
    Keeping s s.Keeps (t.taskIpCheck ext) := by
  unfold State.taskIpCheck
  split_ifs
  · exact h.trans (State.keeps_jumpTo t _)
  · exact h

/-! ### Delivery -/

theorem State.keeping_deliverReal (s : State) (ev : Event) (ra : Word) : Keeping s s.Keeps (s.deliverReal ev ra) := by
  unfold State.deliverReal
  simp only []
  split_ifs
  · exact State.Keeps.refl s
  · trivial
  · exact State.Keeps.refl s
  · have h : s.Keeps ((s.pushList [s.flagImage, s.cs.sel, ra]).setFlags (s.flags.enter true false)) :=
      (State.keeps_pushList s _).trans (State.keeps_setFlags _ _ fun _ => by simp [Flags.enter])
    exact (h.trans (State.keeps_yieldBus _)).trans (State.keeps_enterReal _ _ _)

theorem State.keeping_deliverProt (s : State) (ev : Event) (ra : Word) (hp : s.prot = true) :
    Keeping s s.Keeps (s.deliverProt ev ra) := by
  have pe := State.pe_of_prot hp
  have y := fun t (h : s.Keeps t) => h.trans (State.keeps_yieldBus t)
  have flags : ∀ (t : State) (f : Flags), s.Keeps t → s.Keeps (t.setFlags f) := fun t f h =>
    h.trans (State.keeps_setFlags t f fun q => by rw [pe_of_msw h.msw, pe] at q; cases q)
  have inner : ∀ (u : State) (gate code : Desc) (sel : Word) (b : Bool), s.Keeps u →
      Keeping s s.Keeps (u.deliverInner ev ra gate code sel b) := by
    intro u gate code sel b hu
    have desc : ∀ (v : State) l x e, Keeping s (fun _ => True) (v.innerStackDesc l x e) := fun v l x e =>
      (keeping_ensure s _ _).bind fun _ _ => keeping_orExc s _ _ _
    refine (keeping_ensure s _ _).bind fun _ _ => keeping_afterReads u hu 3 fun v hv => ?_
    refine (desc v _ _ _).bind fun d _ => ?_
    refine (keeping_ensure s _ _).bind fun _ _ => (keeping_ensure s _ _).bind fun _ _ => ?_
    refine (flags _ _ ?_).trans (State.keeps_jumpTo _ _)
    exact (y _ ((((y _ ((y _ hv).trans (State.keeps_loadSeg _ _ _ _))).trans
      (State.keeps_loadSeg _ _ _ _)).trans (State.keeps_setSp _ _)))).trans (State.keeps_pushList _ _)
  have same : ∀ (u : State) (gate code : Desc) (sel : Word) (b : Bool), s.Keeps u →
      Keeping s s.Keeps (u.deliverSame ev ra gate code sel b) := by
    intro u gate code sel b hu
    refine (keeping_check s _).bind fun _ _ => (keeping_ensure s _ _).bind fun _ _ => ?_
    refine (flags _ _ ?_).trans (State.keeps_jumpTo _ _)
    exact (y _ (((y _ hu).trans (State.keeps_pushList _ _)).trans (State.keeps_loadSeg _ _ _ _))).trans
      (State.keeps_pushList _ _)
  have gate : ∀ (gate : Desc) (b : Bool), Keeping s s.Keeps (s.deliverGate ev ra gate b) := by
    intro gate b
    unfold State.deliverGate
    refine keeping_afterReads s (State.Keeps.refl s) 1 fun u hu => ?_
    refine (keeping_ensure s _ _).bind fun _ _ => (keeping_orExc s _ _ _).bind fun code _ => ?_
    split_ifs
    · exact inner _ _ _ _ _ hu
    · exact same _ _ _ _ _ hu
    · trivial
  have task : ∀ gate : Desc, Keeping s s.Keeps (s.deliverTask ev ra gate) := by
    intro gate
    unfold State.deliverTask
    refine keeping_afterReads s (State.Keeps.refl s) 1 fun v hy => ?_
    refine (keeping_orExc s _ _ _).bind fun d _ => ?_
    refine ((Keeping.after hy (State.keeping_switchTasks v .nest _ d ra ev.ext
      ((pe_of_msw hy.msw).trans pe))).mono fun _ h => hy.trans h).bind fun t ht => ?_
    have push : Keeping s s.Keeps (t.pushTaskCode ev) := by
      unfold State.pushTaskCode
      split
      · exact ht
      · split
        · exact ht
        · exact (y _ ht).trans (State.keeps_pushList _ _)
    exact push.bind fun u hu => State.keeping_taskIpCheck hu _
  refine (keeping_ensure s _ _).bind fun _ _ => (keeping_ensure s _ _).bind fun _ _ =>
    (keeping_ensure s _ _).bind fun _ _ => (keeping_ensure s _ _).bind fun _ _ => ?_
  split_ifs
  · exact task _
  · exact gate _ _

theorem State.keeping_deliver (s : State) (ev : Event) (ra : Word) : Keeping s s.Keeps (s.deliver ev ra) := by
  unfold State.deliver
  split_ifs with h
  · exact State.keeping_deliverProt s ev ra h
  · exact State.keeping_deliverReal s ev ra

/-- The double exception keeps the system state. -/
theorem raiseDouble_keeps {ev : Event} {ra : Word} {s t : State} (h : raiseDouble ev ra s = .next t) : s.Keeps t := by
  have hy := State.keeps_yieldBus s
  have one := State.keeping_deliver s.yieldBus ev.double ra
  unfold raiseDouble at h
  simp only [] at h
  have down := fun u (k : s.yieldBus.Keeps u) =>
    (hy.trans k).trans ((State.keeps_shutDown u).trans (State.keeps_taken _))
  cases hd : s.yieldBus.deliver ev.double ra with
  | ok u =>
    rw [hd] at h one
    cases h
    exact hy.trans (State.Keeps.trans one (State.keeps_taken u))
  | error e =>
    rw [hd] at h one
    cases e with
    | refuse r => cases h
    | exc e => cases h; exact down _ (State.Keeps.refl _)
    | after e u => cases h; exact down u one
    | excAt e u => cases h; exact down u one
    | doubleAt e u => cases h; exact down u one
    | shutdown u => cases h; exact down u one

/-- Taking an exception keeps the system state. -/
theorem raise_keeps {ev : Event} {ra : Word} {s t : State} (h : raise ev ra s = .next t) : s.Keeps t := by
  have hy := State.keeps_yieldBus s
  have one := State.keeping_deliver s.yieldBus ev ra
  unfold raise at h
  simp only [] at h
  refine hy.trans ?_
  cases hd : s.yieldBus.deliver ev ra with
  | ok u =>
    rw [hd] at h one
    cases h
    exact State.Keeps.trans one (State.keeps_taken u)
  | error e =>
    rw [hd] at h one
    cases e with
    | refuse r => cases h
    | exc e => exact raiseDouble_keeps h
    | after e u => exact State.Keeps.trans one (raiseDouble_keeps h)
    | doubleAt e u => exact State.Keeps.trans one (raiseDouble_keeps h)
    | excAt e u =>
      cases h
      exact State.Keeps.trans one ((State.keeps_leavePending u e).trans (State.keeps_taken _))
    | shutdown u =>
      cases h
      exact State.Keeps.trans one ((State.keeps_shutDown u).trans (State.keeps_taken _))

/-- An instruction whose computation keeps the system state keeps it in every answer. -/
theorem complete_keeps {s t : State} {m : Exe State} (hm : Keeping s s.Keeps m) (h : complete s m = .next t) :
    s.Keeps t := by
  cases m with
  | ok u => cases h; exact hm
  | error e =>
    cases e with
    | exc e => exact (State.keeps_unlocked s).trans (raise_keeps h)
    | after e u => exact State.Keeps.trans hm ((State.keeps_unlocked u).trans (raise_keeps h))
    | excAt e u => exact State.Keeps.trans hm ((State.keeps_unlocked u).trans (raise_keeps h))
    | doubleAt e u => exact State.Keeps.trans hm ((State.keeps_unlocked u).trans (raise_keeps h))
    | shutdown u =>
      cases h
      exact State.Keeps.trans hm ((State.keeps_shutDown u).trans (State.keeps_taken _))
    | refuse r => cases h

end Sys2Proof.Machine
end

