-- ==== Sys2Proof/Laws/PerInstr.lean ====
section
/-! SUPPORT. What holds of every instruction's encoding, one lemma for each constructor. -/

namespace Sys2Proof.Laws.EncodeLength

open Sys2Proof

/-- An instruction or prefix takes 1 to 6 bytes by itself, at most two of opcode, one of ModRM, two of displacement and
two of immediate (30 R180, R193). -/
def Statement (i : Instr) : Prop := 1 ≤ (encode i).length ∧ (encode i).length ≤ 6

/-- An r/m operand takes 1 to 3 bytes (30 R184). -/
theorem length_rmBytes (r : BitVec 3) : ∀ rm : Rm, (rmBytes r rm).length ≤ 3
  | .reg _ => Nat.le_of_ble_eq_true rfl
  | .mem (.direct _) => Nat.le_of_ble_eq_true rfl
  | .mem (.base _) => Nat.le_of_ble_eq_true rfl
  | .mem (.disp8 _ _) => Nat.le_of_ble_eq_true rfl
  | .mem (.disp16 _ _) => Nat.le_of_ble_eq_true rfl

/-- An immediate takes one or two bytes. -/
theorem length_immBytes : ∀ x : Imm, (immBytes x).length ≤ 2
  | .byte _ => Nat.le_of_ble_eq_true rfl
  | .word _ => Nat.le_of_ble_eq_true rfl

/-- The bounds for a first byte followed by few. -/
theorem first {b : Byte} {l : List Byte} (h : l.length ≤ 5) : 1 ≤ (b :: l).length ∧ (b :: l).length ≤ 6 :=
  ⟨Nat.succ_le_succ (Nat.zero_le _), Nat.succ_le_succ h⟩

/-- An opcode byte and an r/m operand. -/
theorem rmForm (b : Byte) (r : BitVec 3) (rm : Rm) :
    1 ≤ (b :: rmBytes r rm).length ∧ (b :: rmBytes r rm).length ≤ 6 :=
  first (Nat.le_trans (length_rmBytes r rm) (by decide))

/-- Two opcode bytes and an r/m operand. -/
theorem rmForm2 (b c : Byte) (r : BitVec 3) (rm : Rm) :
    1 ≤ (b :: c :: rmBytes r rm).length ∧ (b :: c :: rmBytes r rm).length ≤ 6 :=
  first (Nat.le_trans (Nat.succ_le_succ (length_rmBytes r rm)) (by decide))

/-- An opcode byte, an r/m operand and an immediate. -/
theorem rmImmForm (b : Byte) (r : BitVec 3) (rm : Rm) {l : List Byte} (h : l.length ≤ 2) :
    1 ≤ (b :: (rmBytes r rm ++ l)).length ∧ (b :: (rmBytes r rm ++ l)).length ≤ 6 :=
  first (List.length_append ▸ Nat.add_le_add (length_rmBytes r rm) h)

/-- An opcode byte and an immediate. -/
theorem immForm (b : Byte) (x : Imm) : 1 ≤ (b :: immBytes x).length ∧ (b :: immBytes x).length ≤ 6 :=
  first (Nat.le_trans (length_immBytes x) (by decide))

theorem addRmReg (d : Dir) (w : Width) (rm : Rm) (r : Reg) : Statement (.addRmReg d w rm r) := rmForm _ _ _

theorem addAccImm (x : Imm) : Statement (.addAccImm x) := immForm _ x

theorem addRmImm (rm : Rm) (x : Imm) : Statement (.addRmImm rm x) := rmImmForm _ _ _ (length_immBytes x)

theorem addRmImm8 (rm : Rm) (v : Byte) : Statement (.addRmImm8 rm v) := rmImmForm _ _ _ (Nat.le_of_ble_eq_true rfl)

theorem orRmReg (d : Dir) (w : Width) (rm : Rm) (r : Reg) : Statement (.orRmReg d w rm r) := rmForm _ _ _

theorem orAccImm (x : Imm) : Statement (.orAccImm x) := immForm _ x

theorem orRmImm (rm : Rm) (x : Imm) : Statement (.orRmImm rm x) := rmImmForm _ _ _ (length_immBytes x)

theorem adcRmReg (d : Dir) (w : Width) (rm : Rm) (r : Reg) : Statement (.adcRmReg d w rm r) := rmForm _ _ _

theorem adcAccImm (x : Imm) : Statement (.adcAccImm x) := immForm _ x

theorem adcRmImm (rm : Rm) (x : Imm) : Statement (.adcRmImm rm x) := rmImmForm _ _ _ (length_immBytes x)

theorem adcRmImm8 (rm : Rm) (v : Byte) : Statement (.adcRmImm8 rm v) := rmImmForm _ _ _ (Nat.le_of_ble_eq_true rfl)

theorem sbbRmReg (d : Dir) (w : Width) (rm : Rm) (r : Reg) : Statement (.sbbRmReg d w rm r) := rmForm _ _ _

theorem sbbAccImm (x : Imm) : Statement (.sbbAccImm x) := immForm _ x

theorem sbbRmImm (rm : Rm) (x : Imm) : Statement (.sbbRmImm rm x) := rmImmForm _ _ _ (length_immBytes x)

theorem sbbRmImm8 (rm : Rm) (v : Byte) : Statement (.sbbRmImm8 rm v) := rmImmForm _ _ _ (Nat.le_of_ble_eq_true rfl)

theorem andRmReg (d : Dir) (w : Width) (rm : Rm) (r : Reg) : Statement (.andRmReg d w rm r) := rmForm _ _ _

theorem andAccImm (x : Imm) : Statement (.andAccImm x) := immForm _ x

theorem andRmImm (rm : Rm) (x : Imm) : Statement (.andRmImm rm x) := rmImmForm _ _ _ (length_immBytes x)

theorem subRmReg (d : Dir) (w : Width) (rm : Rm) (r : Reg) : Statement (.subRmReg d w rm r) := rmForm _ _ _

theorem subAccImm (x : Imm) : Statement (.subAccImm x) := immForm _ x

theorem subRmImm (rm : Rm) (x : Imm) : Statement (.subRmImm rm x) := rmImmForm _ _ _ (length_immBytes x)

theorem subRmImm8 (rm : Rm) (v : Byte) : Statement (.subRmImm8 rm v) := rmImmForm _ _ _ (Nat.le_of_ble_eq_true rfl)

theorem xorRmReg (d : Dir) (w : Width) (rm : Rm) (r : Reg) : Statement (.xorRmReg d w rm r) := rmForm _ _ _

theorem xorAccImm (x : Imm) : Statement (.xorAccImm x) := immForm _ x

theorem xorRmImm (rm : Rm) (x : Imm) : Statement (.xorRmImm rm x) := rmImmForm _ _ _ (length_immBytes x)

theorem cmpRmReg (d : Dir) (w : Width) (rm : Rm) (r : Reg) : Statement (.cmpRmReg d w rm r) := rmForm _ _ _

theorem cmpAccImm (x : Imm) : Statement (.cmpAccImm x) := immForm _ x

theorem cmpRmImm (rm : Rm) (x : Imm) : Statement (.cmpRmImm rm x) := rmImmForm _ _ _ (length_immBytes x)

theorem cmpRmImm8 (rm : Rm) (v : Byte) : Statement (.cmpRmImm8 rm v) := rmImmForm _ _ _ (Nat.le_of_ble_eq_true rfl)

theorem incReg (r : Reg) : Statement (.incReg r) := first (Nat.le_of_ble_eq_true rfl)

theorem incRm (w : Width) (rm : Rm) : Statement (.incRm w rm) := rmForm _ _ _

theorem decReg (r : Reg) : Statement (.decReg r) := first (Nat.le_of_ble_eq_true rfl)

theorem decRm (w : Width) (rm : Rm) : Statement (.decRm w rm) := rmForm _ _ _

theorem negRm (w : Width) (rm : Rm) : Statement (.negRm w rm) := rmForm _ _ _

theorem notRm (w : Width) (rm : Rm) : Statement (.notRm w rm) := rmForm _ _ _

theorem mulRm (w : Width) (rm : Rm) : Statement (.mulRm w rm) := rmForm _ _ _

theorem imulRm (w : Width) (rm : Rm) : Statement (.imulRm w rm) := rmForm _ _ _

theorem imulImm (r : Reg) (rm : Rm) (v : Word) : Statement (.imulImm r rm v) :=
  rmImmForm _ _ _ (Nat.le_of_ble_eq_true rfl)

theorem imulImm8 (r : Reg) (rm : Rm) (v : Byte) : Statement (.imulImm8 r rm v) :=
  rmImmForm _ _ _ (Nat.le_of_ble_eq_true rfl)

theorem divRm (w : Width) (rm : Rm) : Statement (.divRm w rm) := rmForm _ _ _

theorem idivRm (w : Width) (rm : Rm) : Statement (.idivRm w rm) := rmForm _ _ _

theorem testRmReg (w : Width) (rm : Rm) (r : Reg) : Statement (.testRmReg w rm r) := rmForm _ _ _

theorem testAccImm (x : Imm) : Statement (.testAccImm x) := immForm _ x

theorem testRmImm (rm : Rm) (x : Imm) : Statement (.testRmImm rm x) := rmImmForm _ _ _ (length_immBytes x)

theorem aaa : Statement .aaa := first (Nat.le_of_ble_eq_true rfl)

theorem daa : Statement .daa := first (Nat.le_of_ble_eq_true rfl)

theorem aas : Statement .aas := first (Nat.le_of_ble_eq_true rfl)

theorem das : Statement .das := first (Nat.le_of_ble_eq_true rfl)

theorem aam : Statement .aam := first (Nat.le_of_ble_eq_true rfl)

theorem aad : Statement .aad := first (Nat.le_of_ble_eq_true rfl)

theorem cbw : Statement .cbw := first (Nat.le_of_ble_eq_true rfl)

theorem cwd : Statement .cwd := first (Nat.le_of_ble_eq_true rfl)

theorem rolOne (w : Width) (rm : Rm) : Statement (.rolOne w rm) := rmForm _ _ _

theorem rolCl (w : Width) (rm : Rm) : Statement (.rolCl w rm) := rmForm _ _ _

theorem rolImm (w : Width) (rm : Rm) (n : Byte) : Statement (.rolImm w rm n) :=
  rmImmForm _ _ _ (Nat.le_of_ble_eq_true rfl)

theorem rorOne (w : Width) (rm : Rm) : Statement (.rorOne w rm) := rmForm _ _ _

theorem rorCl (w : Width) (rm : Rm) : Statement (.rorCl w rm) := rmForm _ _ _

theorem rorImm (w : Width) (rm : Rm) (n : Byte) : Statement (.rorImm w rm n) :=
  rmImmForm _ _ _ (Nat.le_of_ble_eq_true rfl)

theorem rclOne (w : Width) (rm : Rm) : Statement (.rclOne w rm) := rmForm _ _ _

theorem rclCl (w : Width) (rm : Rm) : Statement (.rclCl w rm) := rmForm _ _ _

theorem rclImm (w : Width) (rm : Rm) (n : Byte) : Statement (.rclImm w rm n) :=
  rmImmForm _ _ _ (Nat.le_of_ble_eq_true rfl)

theorem rcrOne (w : Width) (rm : Rm) : Statement (.rcrOne w rm) := rmForm _ _ _

theorem rcrCl (w : Width) (rm : Rm) : Statement (.rcrCl w rm) := rmForm _ _ _

theorem rcrImm (w : Width) (rm : Rm) (n : Byte) : Statement (.rcrImm w rm n) :=
  rmImmForm _ _ _ (Nat.le_of_ble_eq_true rfl)

theorem shlOne (w : Width) (rm : Rm) : Statement (.shlOne w rm) := rmForm _ _ _

theorem shlCl (w : Width) (rm : Rm) : Statement (.shlCl w rm) := rmForm _ _ _

theorem shlImm (w : Width) (rm : Rm) (n : Byte) : Statement (.shlImm w rm n) :=
  rmImmForm _ _ _ (Nat.le_of_ble_eq_true rfl)

theorem shrOne (w : Width) (rm : Rm) : Statement (.shrOne w rm) := rmForm _ _ _

theorem shrCl (w : Width) (rm : Rm) : Statement (.shrCl w rm) := rmForm _ _ _

theorem shrImm (w : Width) (rm : Rm) (n : Byte) : Statement (.shrImm w rm n) :=
  rmImmForm _ _ _ (Nat.le_of_ble_eq_true rfl)

theorem sarOne (w : Width) (rm : Rm) : Statement (.sarOne w rm) := rmForm _ _ _

theorem sarCl (w : Width) (rm : Rm) : Statement (.sarCl w rm) := rmForm _ _ _

theorem sarImm (w : Width) (rm : Rm) (n : Byte) : Statement (.sarImm w rm n) :=
  rmImmForm _ _ _ (Nat.le_of_ble_eq_true rfl)

theorem movRmReg (d : Dir) (w : Width) (rm : Rm) (r : Reg) : Statement (.movRmReg d w rm r) := rmForm _ _ _

theorem movRmSreg (rm : Rm) (sr : SReg) : Statement (.movRmSreg rm sr) := rmForm _ _ _

theorem movEsRm (rm : Rm) : Statement (.movEsRm rm) := rmForm _ _ _

theorem movSsRm (rm : Rm) : Statement (.movSsRm rm) := rmForm _ _ _

theorem movDsRm (rm : Rm) : Statement (.movDsRm rm) := rmForm _ _ _

theorem movAccMem (w : Width) (a : Word) : Statement (.movAccMem w a) := first (Nat.le_of_ble_eq_true rfl)

theorem movMemAcc (w : Width) (a : Word) : Statement (.movMemAcc w a) := first (Nat.le_of_ble_eq_true rfl)

theorem movRegImm (r : Reg) (x : Imm) : Statement (.movRegImm r x) := immForm _ x

theorem movRmImm (rm : Rm) (x : Imm) : Statement (.movRmImm rm x) := rmImmForm _ _ _ (length_immBytes x)

theorem pushReg (r : Reg) : Statement (.pushReg r) := first (Nat.le_of_ble_eq_true rfl)

theorem pushRm (rm : Rm) : Statement (.pushRm rm) := rmForm _ _ _

theorem pushSreg (sr : SReg) : Statement (.pushSreg sr) := first (Nat.le_of_ble_eq_true rfl)

theorem pushImm (v : Word) : Statement (.pushImm v) := first (Nat.le_of_ble_eq_true rfl)

theorem pushImm8 (v : Byte) : Statement (.pushImm8 v) := first (Nat.le_of_ble_eq_true rfl)

theorem pusha : Statement .pusha := first (Nat.le_of_ble_eq_true rfl)

theorem popa : Statement .popa := first (Nat.le_of_ble_eq_true rfl)

theorem popReg (r : Reg) : Statement (.popReg r) := first (Nat.le_of_ble_eq_true rfl)

theorem popRm (rm : Rm) : Statement (.popRm rm) := rmForm _ _ _

theorem popEs : Statement .popEs := first (Nat.le_of_ble_eq_true rfl)

theorem popSs : Statement .popSs := first (Nat.le_of_ble_eq_true rfl)

theorem popDs : Statement .popDs := first (Nat.le_of_ble_eq_true rfl)

theorem xchgRmReg (w : Width) (rm : Rm) (r : Reg) : Statement (.xchgRmReg w rm r) := rmForm _ _ _

theorem xchgAx (r : Reg) : Statement (.xchgAx r) := first (Nat.le_of_ble_eq_true rfl)

theorem nop : Statement .nop := first (Nat.le_of_ble_eq_true rfl)

theorem xlat : Statement .xlat := first (Nat.le_of_ble_eq_true rfl)

theorem inImm (w : Width) (p : Byte) : Statement (.inImm w p) := first (Nat.le_of_ble_eq_true rfl)

theorem inDx (w : Width) : Statement (.inDx w) := first (Nat.le_of_ble_eq_true rfl)

theorem outImm (w : Width) (p : Byte) : Statement (.outImm w p) := first (Nat.le_of_ble_eq_true rfl)

theorem outDx (w : Width) : Statement (.outDx w) := first (Nat.le_of_ble_eq_true rfl)

theorem lea (r : Reg) (m : Mem) : Statement (.lea r m) := rmForm _ _ (.mem m)

theorem lds (r : Reg) (m : Mem) : Statement (.lds r m) := rmForm _ _ (.mem m)

theorem les (r : Reg) (m : Mem) : Statement (.les r m) := rmForm _ _ (.mem m)

theorem lahf : Statement .lahf := first (Nat.le_of_ble_eq_true rfl)

theorem sahf : Statement .sahf := first (Nat.le_of_ble_eq_true rfl)

theorem pushf : Statement .pushf := first (Nat.le_of_ble_eq_true rfl)

theorem popf : Statement .popf := first (Nat.le_of_ble_eq_true rfl)

theorem movs (w : Width) : Statement (.movs w) := first (Nat.le_of_ble_eq_true rfl)

theorem cmps (w : Width) : Statement (.cmps w) := first (Nat.le_of_ble_eq_true rfl)

theorem stos (w : Width) : Statement (.stos w) := first (Nat.le_of_ble_eq_true rfl)

theorem lods (w : Width) : Statement (.lods w) := first (Nat.le_of_ble_eq_true rfl)

theorem scas (w : Width) : Statement (.scas w) := first (Nat.le_of_ble_eq_true rfl)

theorem ins (w : Width) : Statement (.ins w) := first (Nat.le_of_ble_eq_true rfl)

theorem outs (w : Width) : Statement (.outs w) := first (Nat.le_of_ble_eq_true rfl)

theorem rep : Statement .rep := first (Nat.le_of_ble_eq_true rfl)

theorem repne : Statement .repne := first (Nat.le_of_ble_eq_true rfl)

theorem jo (cb : Byte) : Statement (.jo cb) := first (Nat.le_of_ble_eq_true rfl)

theorem jno (cb : Byte) : Statement (.jno cb) := first (Nat.le_of_ble_eq_true rfl)

theorem jb (cb : Byte) : Statement (.jb cb) := first (Nat.le_of_ble_eq_true rfl)

theorem jnb (cb : Byte) : Statement (.jnb cb) := first (Nat.le_of_ble_eq_true rfl)

theorem je (cb : Byte) : Statement (.je cb) := first (Nat.le_of_ble_eq_true rfl)

theorem jne (cb : Byte) : Statement (.jne cb) := first (Nat.le_of_ble_eq_true rfl)

theorem jbe (cb : Byte) : Statement (.jbe cb) := first (Nat.le_of_ble_eq_true rfl)

theorem jnbe (cb : Byte) : Statement (.jnbe cb) := first (Nat.le_of_ble_eq_true rfl)

theorem js (cb : Byte) : Statement (.js cb) := first (Nat.le_of_ble_eq_true rfl)

theorem jns (cb : Byte) : Statement (.jns cb) := first (Nat.le_of_ble_eq_true rfl)

theorem jp (cb : Byte) : Statement (.jp cb) := first (Nat.le_of_ble_eq_true rfl)

theorem jnp (cb : Byte) : Statement (.jnp cb) := first (Nat.le_of_ble_eq_true rfl)

theorem jl (cb : Byte) : Statement (.jl cb) := first (Nat.le_of_ble_eq_true rfl)

theorem jnl (cb : Byte) : Statement (.jnl cb) := first (Nat.le_of_ble_eq_true rfl)

theorem jle (cb : Byte) : Statement (.jle cb) := first (Nat.le_of_ble_eq_true rfl)

theorem jnle (cb : Byte) : Statement (.jnle cb) := first (Nat.le_of_ble_eq_true rfl)

theorem jcxz (cb : Byte) : Statement (.jcxz cb) := first (Nat.le_of_ble_eq_true rfl)

theorem loop (cb : Byte) : Statement (.loop cb) := first (Nat.le_of_ble_eq_true rfl)

theorem loope (cb : Byte) : Statement (.loope cb) := first (Nat.le_of_ble_eq_true rfl)

theorem loopne (cb : Byte) : Statement (.loopne cb) := first (Nat.le_of_ble_eq_true rfl)

theorem jmpShort (cb : Byte) : Statement (.jmpShort cb) := first (Nat.le_of_ble_eq_true rfl)

theorem jmpNear (cw : Word) : Statement (.jmpNear cw) := first (Nat.le_of_ble_eq_true rfl)

theorem jmpRm (rm : Rm) : Statement (.jmpRm rm) := rmForm _ _ _

theorem jmpFar (off : Word) (sel : Word) : Statement (.jmpFar off sel) := first (Nat.le_of_ble_eq_true rfl)

theorem jmpFarMem (m : Mem) : Statement (.jmpFarMem m) := rmForm _ _ (.mem m)

theorem callNear (cw : Word) : Statement (.callNear cw) := first (Nat.le_of_ble_eq_true rfl)

theorem callRm (rm : Rm) : Statement (.callRm rm) := rmForm _ _ _

theorem callFar (off : Word) (sel : Word) : Statement (.callFar off sel) := first (Nat.le_of_ble_eq_true rfl)

theorem callFarMem (m : Mem) : Statement (.callFarMem m) := rmForm _ _ (.mem m)

theorem retNear : Statement .retNear := first (Nat.le_of_ble_eq_true rfl)

theorem retNearImm (n : Word) : Statement (.retNearImm n) := first (Nat.le_of_ble_eq_true rfl)

theorem retFar : Statement .retFar := first (Nat.le_of_ble_eq_true rfl)

theorem retFarImm (n : Word) : Statement (.retFarImm n) := first (Nat.le_of_ble_eq_true rfl)

theorem int3 : Statement .int3 := first (Nat.le_of_ble_eq_true rfl)

theorem intImm (v : Byte) : Statement (.intImm v) := first (Nat.le_of_ble_eq_true rfl)

theorem into : Statement .into := first (Nat.le_of_ble_eq_true rfl)

theorem iret : Statement .iret := first (Nat.le_of_ble_eq_true rfl)

theorem enter (size : Word) (level : Byte) : Statement (.enter size level) := first (Nat.le_of_ble_eq_true rfl)

theorem leave : Statement .leave := first (Nat.le_of_ble_eq_true rfl)

theorem bound (r : Reg) (m : Mem) : Statement (.bound r m) := rmForm _ _ (.mem m)

theorem stc : Statement .stc := first (Nat.le_of_ble_eq_true rfl)

theorem clc : Statement .clc := first (Nat.le_of_ble_eq_true rfl)

theorem cmc : Statement .cmc := first (Nat.le_of_ble_eq_true rfl)

theorem std : Statement .std := first (Nat.le_of_ble_eq_true rfl)

theorem cld : Statement .cld := first (Nat.le_of_ble_eq_true rfl)

theorem sti : Statement .sti := first (Nat.le_of_ble_eq_true rfl)

theorem cli : Statement .cli := first (Nat.le_of_ble_eq_true rfl)

theorem hlt : Statement .hlt := first (Nat.le_of_ble_eq_true rfl)

theorem esc (ttt : BitVec 3) (lll : BitVec 3) (rm : Rm) : Statement (.esc ttt lll rm) := rmForm _ _ _

theorem wait : Statement .wait := first (Nat.le_of_ble_eq_true rfl)

theorem lock : Statement .lock := first (Nat.le_of_ble_eq_true rfl)

theorem seg (sr : SReg) : Statement (.seg sr) := first (Nat.le_of_ble_eq_true rfl)

theorem lmsw (rm : Rm) : Statement (.lmsw rm) := rmForm2 _ _ _ _

theorem smsw (rm : Rm) : Statement (.smsw rm) := rmForm2 _ _ _ _

theorem lgdt (m : Mem) : Statement (.lgdt m) := rmForm2 _ _ _ (.mem m)

theorem lidt (m : Mem) : Statement (.lidt m) := rmForm2 _ _ _ (.mem m)

theorem sgdt (m : Mem) : Statement (.sgdt m) := rmForm2 _ _ _ (.mem m)

theorem sidt (m : Mem) : Statement (.sidt m) := rmForm2 _ _ _ (.mem m)

theorem lldt (rm : Rm) : Statement (.lldt rm) := rmForm2 _ _ _ _

theorem sldt (rm : Rm) : Statement (.sldt rm) := rmForm2 _ _ _ _

theorem ltr (rm : Rm) : Statement (.ltr rm) := rmForm2 _ _ _ _

theorem str (rm : Rm) : Statement (.str rm) := rmForm2 _ _ _ _

theorem lar (r : Reg) (rm : Rm) : Statement (.lar r rm) := rmForm2 _ _ _ _

theorem lsl (r : Reg) (rm : Rm) : Statement (.lsl r rm) := rmForm2 _ _ _ _

theorem verr (rm : Rm) : Statement (.verr rm) := rmForm2 _ _ _ _

theorem verw (rm : Rm) : Statement (.verw rm) := rmForm2 _ _ _ _

theorem arpl (rm : Rm) (r : Reg) : Statement (.arpl rm r) := rmForm _ _ _

theorem clts : Statement .clts := first (Nat.le_of_ble_eq_true rfl)

end Sys2Proof.Laws.EncodeLength
end

