-- ==== Sys2Proof/Laws/Stack.lean ====
section
/-! SUPPORT. The instructions that push or pop several words: what PUSHA, POPA and ENTER leave when every word passes
its check, and when one of them does not (40 R243, R244; 46 R471). -/

namespace Sys2Proof.Machine

/-! ### Words pushed one after another -/

theorem State.pushList_append (vs ws : List Word) : ∀ s : State,
    s.pushList (vs ++ ws) = (s.pushList vs).pushList ws := by
  induction vs with
  | nil => exact fun _ => rfl
  | cons v vs ih => exact fun s => ih _

theorem State.pushList_quiet {s : State} (h : s.Quiet) (vs : List Word) : (s.pushList vs).Quiet := by
  rw [State.pushList_only vs s h]
  exact h

/-- Pushing words changes nothing but what `DataOnly` lists, where no other master's write is to come. -/
theorem State.pushList_dataOnly {s : State} (h : s.Quiet) (vs : List Word) : s.DataOnly (s.pushList vs) := by
  have e := State.pushList_only vs s h
  have hl : (s.pushList vs).fetch.lmswAt = s.fetch.lmswAt := by simp
  have hw : (s.pushList vs).fetch.wrapped = s.fetch.wrapped := by simp
  generalize s.pushList vs = t at e hl hw
  rw [State.dataOnly_iff, hl, hw, e]
  simp

/-- The words pushed by k pushes, PUSHA's or ENTER's, each where it was pushed. -/
theorem State.pushList_words {s : State} (h : s.Quiet) (hd : s.LowDecoded) (vs : List Word) (hl : vs.length ≤ 2 ^ 15)
    (j : Nat) (w : Word) (hj : vs[j]? = some w) :
    (s.pushList vs).load .word s.ss (s.regs.sp - 2 - BitVec.ofNat 16 (2 * j)) = w := by
  obtain ⟨hk, rfl⟩ := List.getElem?_eq_some_iff.mp hj
  exact State.pushList_load vs s h hd hl j hk

/-- The word below the next one. -/
theorem sub_two_sub (x : Word) (k : Nat) :
    x - 2 - 2 - BitVec.ofNat 16 (2 * k) = x - 2 - BitVec.ofNat 16 (2 * (k + 1)) := sub_two_mul (x - 2) k

/-- PUSHA's pushes up to the first word that fails its check (40 R243). -/
theorem State.pushWhile_stop (e : Exc) : ∀ (k : Nat) (vs : List Word) (s : State), k < vs.length →
    (∀ j < k, s.writeFault .ss (s.regs.sp - 2 - BitVec.ofNat 16 (2 * j)) 2 = none) →
    s.writeFault .ss (s.regs.sp - 2 - BitVec.ofNat 16 (2 * k)) 2 = some e →
    s.pushWhile vs = (some e, s.pushList (vs.take k))
  | _, [], _, hk, _, _ => absurd hk (Nat.not_lt_zero _)
  | 0, v :: vs, s, _, _, he => by
    have he : s.writeFault .ss (s.regs.sp - 2) 2 = some e := by simpa using he
    rw [State.pushWhile, he]
    rfl
  | k + 1, v :: vs, s, hk, hj, he => by
    have h₀ : s.writeFault .ss (s.regs.sp - 2) 2 = none := by simpa using hj 0 (Nat.succ_pos k)
    rw [State.pushWhile, h₀, List.take_succ_cons, State.pushList]
    have hs : (((s.putStack (s.regs.sp - 2) v).setSp (s.regs.sp - 2)).yieldBus).regs.sp = s.regs.sp - 2 := by
      rw [State.yieldBus_regs]
      rfl
    refine State.pushWhile_stop e k vs _ (Nat.lt_of_succ_lt_succ hk) (fun j h => ?_) ?_
    · rw [State.writeFault_congr (s := s) (by simp) (by simp), hs, sub_two_sub]
      exact hj (j + 1) (Nat.succ_lt_succ h)
    · rw [State.writeFault_congr (s := s) (by simp) (by simp), hs, sub_two_sub]
      exact he

/-- How many words POPA pops before the first that fails its check (40 R244). -/
theorem State.popCount_stop (s : State) : ∀ (k n : Nat) (off : Word), k < n →
    (∀ j < k, s.readFault .ss (off + BitVec.ofNat 16 (2 * j)) 2 = none) →
    s.readFault .ss (off + BitVec.ofNat 16 (2 * k)) 2 ≠ none → s.popCount n off = k
  | _, 0, _, hk, _, _ => absurd hk (Nat.not_lt_zero _)
  | 0, n + 1, off, _, _, he => by
    obtain ⟨e, he⟩ := Option.ne_none_iff_exists'.mp he
    have he : s.readFault .ss off 2 = some e := by simpa using he
    simp [State.popCount, he]
  | k + 1, n + 1, off, hk, hj, he => by
    have h₀ : s.readFault .ss off 2 = none := by simpa using hj 0 (Nat.succ_pos k)
    have next : ∀ j, off + 2 + BitVec.ofNat 16 (2 * j) = off + BitVec.ofNat 16 (2 * (j + 1)) := by
      intro j
      rw [BitVec.add_assoc, Nat.mul_add, Nat.add_comm (2 * j), BitVec.ofNat_add]
      rfl
    simp only [State.popCount, h₀]
    rw [State.popCount_stop s k n (off + 2) (Nat.lt_of_succ_lt_succ hk)]
    · intro j h
      rw [next]
      exact hj (j + 1) (Nat.succ_lt_succ h)
    · rw [next]
      exact he

/-! ### ENTER -/

@[simp] theorem State.enterWords_length (s : State) (n : Nat) : ∀ k, (s.enterWords n k).length = k
  | 0 => rfl
  | k + 1 => by simp [State.enterWords, State.enterWords_length s n k]

/-- ENTER once k of its words are pushed: BP names the display word read last. -/
def State.entering (s : State) (n k : Nat) : State :=
  (s.pushList (s.enterWords n k)).setReg16 .bp (s.regs.bp - BitVec.ofNat 16 (2 * (k - 1)))

theorem State.entering_bp (s : State) (n k : Nat) :
    (s.entering n k).regs.bp = s.regs.bp - BitVec.ofNat 16 (2 * (k - 1)) := rfl

theorem State.entering_sp (s : State) (n k : Nat) :
    (s.entering n k).regs.sp = s.regs.sp - BitVec.ofNat 16 (2 * k) := by
  simp [State.entering, State.pushList_sp, Regs.set]

theorem State.entering_eq (s : State) (n k : Nat) : s.entering n k = { s.pushList (s.enterWords n k) with
    regs := { s.regs with
      bp := s.regs.bp - BitVec.ofNat 16 (2 * (k - 1)), sp := s.regs.sp - BitVec.ofNat 16 (2 * k) } } := by
  have h : (s.pushList (s.enterWords n k)).regs = s.regs.set .sp (s.regs.sp - BitVec.ofNat 16 (2 * k)) := by
    rw [State.pushList_sp, State.enterWords_length]
  rw [State.entering, State.setReg16, h]
  rfl

theorem State.entering_quiet {s : State} (h : s.Quiet) (n k : Nat) : (s.entering n k).Quiet :=
  State.pushList_quiet h (s.enterWords n k)

/-- The check of a display word while ENTER is in progress. -/
theorem State.entering_readFault (s : State) (n k : Nat) (off : Word) :
    (s.entering n k).readFault .ss off 2 = s.readFault .ss off 2 :=
  State.readFault_congr (by simp [State.entering]) (by simp [State.entering]) .ss off 2

theorem State.entering_writeFault (s : State) (n k : Nat) (off : Word) :
    (s.entering n k).writeFault .ss off 2 = s.writeFault .ss off 2 :=
  State.writeFault_congr (by simp [State.entering]) (by simp [State.entering]) .ss off 2

/-- ENTER's next push, its display word read or its frame pointer made. -/
theorem State.entering_push {s : State} (h : s.Quiet) (n k : Nat) (v bp : Word)
    (hv : s.enterWords n (k + 1) = s.enterWords n k ++ [v]) (hb : bp = s.regs.bp - BitVec.ofNat 16 (2 * k)) :
    (((s.entering n k).setReg16 .bp bp).putStack ((s.entering n k).regs.sp - 2) v).setSp
      ((s.entering n k).regs.sp - 2) = s.entering n (k + 1) := by
  subst hb
  rw [State.entering, State.entering, hv, State.pushList_append, State.pushList_cons (State.pushList_quiet h _)]
  rfl

theorem word_before (x : Word) (k : Nat) (hk : 1 ≤ k) :
    x - BitVec.ofNat 16 (2 * (k - 1)) - 2 = x - BitVec.ofNat 16 (2 * k) := by
  apply BitVec.eq_of_toNat_eq
  have h2 : (2 : Word).toNat = 2 := rfl
  simp only [BitVec.toNat_sub, BitVec.toNat_ofNat, h2]
  omega

theorem sub_comm_two (x : Word) (k : Nat) : x - BitVec.ofNat 16 (2 * k) - 2 = x - 2 - BitVec.ofNat 16 (2 * k) := by
  apply BitVec.eq_of_toNat_eq
  have h2 : (2 : Word).toNat = 2 := rfl
  simp only [BitVec.toNat_sub, BitVec.toNat_ofNat, h2]
  omega

/-- The k-th display word once its check passes (46 R471). -/
theorem copyDisplay_read {s : State} (h : s.Quiet) (n k m : Nat) (hk : 1 ≤ k)
    (hr : s.readFault .ss (s.regs.bp - BitVec.ofNat 16 (2 * k)) 2 = none) :
    copyDisplay s (m + 1) (s.entering n k) = (do
      let t := (s.entering n k).setReg16 .bp (s.regs.bp - BitVec.ofNat 16 (2 * k))
      let u ← keepWrites s t
        (t.push ((s.pushList (s.enterWords n k)).load .word s.ss (s.regs.bp - BitVec.ofNat 16 (2 * k))))
      copyDisplay s m u) := by
  have hb : (s.entering n k).regs.bp - 2 = s.regs.bp - BitVec.ofNat 16 (2 * k) := by
    rw [State.entering_bp, word_before _ _ hk]
  have hq := State.entering_quiet h n k
  have hq' : ((s.entering n k).setReg16 .bp (s.regs.bp - BitVec.ofNat 16 (2 * k))).Quiet := hq
  have hf : ((s.entering n k).setReg16 .bp (s.regs.bp - BitVec.ofNat 16 (2 * k))).readFault .ss
      (s.regs.bp - BitVec.ofNat 16 (2 * k)) 2 = none := by
    rw [← hr, ← State.entering_readFault s n k]
    rfl
  have hl : ((s.entering n k).setReg16 .bp (s.regs.bp - BitVec.ofNat 16 (2 * k))).load .word
      (((s.entering n k).setReg16 .bp (s.regs.bp - BitVec.ofNat 16 (2 * k))).seg .ss)
      (s.regs.bp - BitVec.ofNat 16 (2 * k)) =
      (s.pushList (s.enterWords n k)).load .word s.ss (s.regs.bp - BitVec.ofNat 16 (2 * k)) := by
    rw [← State.pushList_ss (s.enterWords n k) s]
    rfl
  have hs : ((s.entering n k).setReg16 .bp (s.regs.bp - BitVec.ofNat 16 (2 * k))).regs.bp =
      s.regs.bp - BitVec.ofNat 16 (2 * k) := rfl
  simp only [copyDisplay, State.yieldBus_quiet hq, hb, hs, State.yieldBus_quiet hq']
  rw [State.readMem_ok _ .word .ss _ hf, hl]
  rfl

/-- A display word copied (46 R471). -/
theorem copyDisplay_step {s : State} (h : s.Quiet) (n k m : Nat) (hk : 1 ≤ k) (hn : k < n)
    (hr : s.readFault .ss (s.regs.bp - BitVec.ofNat 16 (2 * k)) 2 = none)
    (hw : s.writeFault .ss (s.regs.sp - 2 - BitVec.ofNat 16 (2 * k)) 2 = none) :
    copyDisplay s (m + 1) (s.entering n k) = copyDisplay s m (s.entering n (k + 1)) := by
  rw [copyDisplay_read h n k m hk hr]
  show (keepWrites s _ (State.push _ _) >>= _) = _
  rw [State.push_ok]
  · have hv : s.enterWords n (k + 1) = s.enterWords n k ++
        [(s.pushList (s.enterWords n k)).load .word s.ss (s.regs.bp - BitVec.ofNat 16 (2 * k))] := by
      rw [State.enterWords, if_neg (by omega), if_pos hn]
    rw [← State.entering_push h n k _ _ hv rfl]
    rfl
  · have : (s.entering n k).writeFault .ss ((s.entering n k).regs.sp - 2) 2 = none := by
      rw [State.entering_writeFault, State.entering_sp, sub_comm_two, hw]
    exact this

/-- A display word that cannot be read, or whose copy cannot be pushed: the words before it stay pushed, with the
registers of before (46 R471; D9, log 35). -/
theorem copyDisplay_fault {s : State} (h : s.Quiet) (n k m : Nat) (e : Exc) (hk : 1 ≤ k)
    (he : [s.readFault .ss (s.regs.bp - BitVec.ofNat 16 (2 * k)) 2,
      s.writeFault .ss (s.regs.sp - 2 - BitVec.ofNat 16 (2 * k)) 2].findSome? id = some e) :
    copyDisplay s (m + 1) (s.entering n k) =
      .error (.excAt e { s.pushList (s.enterWords n k) with regs := s.regs }) := by
  have hq := State.entering_quiet h n k
  cases hr : s.readFault .ss (s.regs.bp - BitVec.ofNat 16 (2 * k)) 2 with
  | none =>
    rw [hr] at he
    have hw : s.writeFault .ss (s.regs.sp - 2 - BitVec.ofNat 16 (2 * k)) 2 = some e := by simpa using he
    have hf : ((s.entering n k).setReg16 .bp (s.regs.bp - BitVec.ofNat 16 (2 * k))).writeFault .ss
        ((s.entering n k).regs.sp - 2) 2 = some e := by
      rw [← hw, ← sub_comm_two, ← State.entering_sp s n k, ← State.entering_writeFault s n k]
      rfl
    rw [copyDisplay_read h n k m hk hr]
    show (keepWrites s _ (State.push _ _) >>= _) = _
    rw [State.push_fault _ _ e hf]
    rfl
  | some e' =>
    rw [hr] at he
    obtain rfl : e' = e := by simpa using he
    have hf : ((s.entering n k).setReg16 .bp ((s.entering n k).regs.bp - 2)).readFault .ss
        ((s.entering n k).regs.bp - 2) 2 = some e' := by
      rw [← hr, State.entering_bp, word_before _ _ hk, ← State.entering_readFault s n k]
      rfl
    simp only [copyDisplay, State.yieldBus_quiet hq]
    have hs : ((s.entering n k).setReg16 .bp ((s.entering n k).regs.bp - 2)).regs.bp =
      (s.entering n k).regs.bp - 2 := rfl
    rw [hs, State.readMem_fault _ .word .ss _ e' hf]
    rfl

/-- Display words copied while every check passes (46 R471). -/
theorem copyDisplay_steps {s : State} (h : s.Quiet) (n m : Nat) : ∀ j k, 1 ≤ k → k + j ≤ n →
    (∀ i, k ≤ i → i < k + j → s.readFault .ss (s.regs.bp - BitVec.ofNat 16 (2 * i)) 2 = none ∧
      s.writeFault .ss (s.regs.sp - 2 - BitVec.ofNat 16 (2 * i)) 2 = none) →
    copyDisplay s (j + m) (s.entering n k) = copyDisplay s m (s.entering n (k + j))
  | 0, k, _, _, _ => by rw [Nat.zero_add, Nat.add_zero]
  | j + 1, k, hk, hn, hi => by
    have h₀ := hi k (Nat.le_refl k) (by omega)
    rw [show j + 1 + m = j + m + 1 by omega, copyDisplay_step h n k (j + m) hk (by omega) h₀.1 h₀.2,
      copyDisplay_steps h n m j (k + 1) (by omega) (by omega) fun i h₁ h₂ => hi i (by omega) (by omega),
      show k + 1 + j = k + (j + 1) by omega]

theorem State.entering_one {s : State} (h : s.Quiet) (n : Nat) :
    (s.putStack (s.regs.sp - 2) s.regs.bp).setSp (s.regs.sp - 2) = s.entering n 1 := by
  rw [State.entering, show s.enterWords n 1 = [s.regs.bp] from rfl, State.pushList_cons h]
  simp [State.pushList, State.setReg16, State.setSp, State.putStack, State.store, Regs.set]

/-- ENTER's frame pointer pushed over BP and the display. -/
theorem State.entering_frame {s : State} (h : s.Quiet) (n : Nat) (hn : n ≠ 0) :
    ((s.entering n n).putStack ((s.entering n n).regs.sp - 2) (s.regs.sp - 2)).setSp ((s.entering n n).regs.sp - 2) =
      { s.pushList (s.enterWords n (n + 1)) with
        regs := { s.regs with
          bp := s.regs.bp - BitVec.ofNat 16 (2 * (n - 1)), sp := s.regs.sp - BitVec.ofNat 16 (2 * (n + 1)) } } := by
  have hv : s.enterWords n (n + 1) = s.enterWords n n ++ [s.regs.sp - 2] := by
    rw [State.enterWords, if_neg hn, if_neg (Nat.lt_irrefl n)]
  have e : (s.entering n n).regs.sp - 2 = s.regs.sp - BitVec.ofNat 16 (2 * (n + 1)) := by
    rw [State.entering_sp, sub_comm_two, sub_two_mul]
  rw [e, hv, State.pushList_append, State.pushList_cons (State.pushList_quiet h _)]
  have hs : (s.pushList (s.enterWords n n)).regs.sp - 2 = s.regs.sp - BitVec.ofNat 16 (2 * (n + 1)) := e
  have hr : (s.pushList (s.enterWords n n)).regs = s.regs.set .sp (s.regs.sp - BitVec.ofNat 16 (2 * n)) := by
    rw [State.pushList_sp, State.enterWords_length]
  rw [hs, State.entering]
  simp only [State.setReg16, State.setSp, State.putStack, State.pushList, hr]
  rfl

/-- The part of ENTER after its first push (46 R471). -/
theorem execEnter_pushed {s : State} (h : s.Quiet) (size : Word) (level : Byte) (n : Nat) (hn : level.toNat % 32 = n)
    (hw : s.writeFault .ss (s.regs.sp - 2) 2 = none) :
    execEnter size level s = complete s (do
      let t ← if n = 0 then .ok (s.entering n 1)
        else do
          let u ← copyDisplay s (n - 1) (s.entering n 1)
          keepWrites s u.yieldBus (u.yieldBus.push (s.regs.sp - 2))
      .ok ((t.setReg16 .bp (s.regs.sp - 2)).setSp (t.regs.sp - size))) := by
  have hp : s.push s.regs.bp = .ok (s.entering n 1) := by rw [State.push_ok s _ hw, State.entering_one h n]
  have hf : (s.entering n 1).regs.sp = s.regs.sp - 2 := State.entering_sp s n 1
  simp only [execEnter, hn, hp, exe_bind_ok, hf]

/-- ENTER whose every word passes its check: the words, BP at the first of them, SP below the frame (46 R471). -/
theorem execEnter_next {s : State} (h : s.Quiet) (size : Word) (level : Byte) (n : Nat) (hn : level.toNat % 32 = n)
    (hw : ∀ j ≤ n, s.writeFault .ss (s.regs.sp - 2 - BitVec.ofNat 16 (2 * j)) 2 = none)
    (hr : ∀ j, 1 ≤ j → j < n → s.readFault .ss (s.regs.bp - BitVec.ofNat 16 (2 * j)) 2 = none) :
    execEnter size level s = .next { s.pushList (s.enterWords n (n + 1)) with
      regs := { s.regs with bp := s.regs.sp - 2, sp := s.regs.sp - BitVec.ofNat 16 (2 * (n + 1)) - size } } := by
  rw [execEnter_pushed h size level n hn (by simpa using hw 0 (Nat.zero_le n))]
  by_cases h0 : n = 0
  · subst h0
    rw [if_pos rfl, exe_bind_ok, State.entering_eq]
    rfl
  · have hc := copyDisplay_steps h n 0 (n - 1) 1 (Nat.le_refl 1) (by omega)
      fun i h₁ h₂ => ⟨hr i h₁ (by omega), hw i (by omega)⟩
    rw [Nat.add_zero, show 1 + (n - 1) = n by omega] at hc
    have hp : (s.entering n n).writeFault .ss ((s.entering n n).regs.sp - 2) 2 = none := by
      rw [State.entering_writeFault, State.entering_sp, sub_comm_two, hw n (Nat.le_refl n)]
    rw [if_neg h0, hc, copyDisplay, exe_bind_ok, State.yieldBus_quiet (State.entering_quiet h n n),
      State.push_ok _ _ hp, State.entering_frame h n h0]
    rfl

/-- ENTER whose word k is the first that cannot be read or pushed: the words before it stay pushed, with the registers
of before (46 R471; D9, log 35). -/
theorem execEnter_fault {s : State} (h : s.Quiet) (size : Word) (level : Byte) (n k : Nat) (e : Exc)
    (hn : level.toNat % 32 = n) (hk : k ≤ n)
    (hj : ∀ j < k, s.writeFault .ss (s.regs.sp - 2 - BitVec.ofNat 16 (2 * j)) 2 = none ∧
      (1 ≤ j → s.readFault .ss (s.regs.bp - BitVec.ofNat 16 (2 * j)) 2 = none))
    (he : (if 1 ≤ k ∧ k < n then
        [s.readFault .ss (s.regs.bp - BitVec.ofNat 16 (2 * k)) 2,
          s.writeFault .ss (s.regs.sp - 2 - BitVec.ofNat 16 (2 * k)) 2].findSome? id
      else s.writeFault .ss (s.regs.sp - 2 - BitVec.ofNat 16 (2 * k)) 2) = some e) :
    execEnter size level s =
      raise e.event s.inst.ipInst ({ s.pushList (s.enterWords n k) with regs := s.regs } : State).unlocked := by
  have hi : (s.pushList (s.enterWords n k)).inst = s.inst := by simp
  rcases Nat.eq_zero_or_pos k with rfl | hk1
  · have hw : s.writeFault .ss (s.regs.sp - 2) 2 = some e := by simpa using he
    simp only [execEnter, State.push_fault _ _ _ hw]
    rfl
  · rw [execEnter_pushed h size level n hn (by simpa using (hj 0 hk1).1), if_neg (by omega), ← hi]
    have hc := copyDisplay_steps h n (n - k) (k - 1) 1 (Nat.le_refl 1) (by omega)
      fun i h₁ h₂ => ⟨(hj i (by omega)).2 h₁, (hj i (by omega)).1⟩
    rw [show k - 1 + (n - k) = n - 1 by omega, show 1 + (k - 1) = k by omega] at hc
    rw [hc]
    by_cases hl : k < n
    · rw [if_pos ⟨hk1, hl⟩] at he
      rw [show n - k = n - k - 1 + 1 by omega, copyDisplay_fault h n k _ e hk1 he]
      rfl
    · obtain rfl : k = n := by omega
      rw [if_neg (fun x => Nat.lt_irrefl k x.2)] at he
      have hp : (s.entering k k).writeFault .ss ((s.entering k k).regs.sp - 2) 2 = some e := by
        rw [State.entering_writeFault, State.entering_sp, sub_comm_two, he]
      rw [Nat.sub_self, copyDisplay, exe_bind_ok, State.yieldBus_quiet (State.entering_quiet h k k),
        State.push_fault _ _ e hp]
      rfl

end Sys2Proof.Machine
end

