-- ==== Sys2Proof/Tests/Slice0.lean ====
section
/-! SUPPORT. The model's own tests: ill-formed terms are refused, every row of the opcode table decodes from bytes
written out by hand, single steps give values worked out from the spec, and every statement's hypotheses can be met. -/

namespace Sys2Proof.Tests

open Sys2Proof Sys2Proof.Machine

/-! ### Well-formedness (30 R185, R203) -/

/-- `[BP]` without displacement has no encoding: mod 00, r/m 110 is the direct address (30 R185). -/
theorem test_wf_refuses_bp : Instr.wf (.incRm .word (.mem (.base .bp))) = false := by decide

/-- Nor as a memory-only operand. -/
theorem test_wf_refuses_bp_lea : Instr.wf (.lea .ax (.base .bp)) = false := by decide

/-- XCHG AX,AX is NOP (30 R203). -/
theorem test_wf_refuses_xchg_ax : Instr.wf (.xchgAx .ax) = false := by decide

theorem test_wf_allows : Instr.wf (.incRm .word (.mem (.disp8 .bp 0#8))) = true ∧ Instr.wf (.xchgAx .bx) = true := by
  decide

/-! ### Decoding: one example of every row, and encodings that are refused -/

/-- Each byte string decodes to its instruction, nothing left over, and is what the instruction encodes to. -/
def decodesAll (rows : List (List Byte × Instr)) : Bool :=
  rows.all fun p =>
    match decodeInstr p.1 with
    | .ok (i, []) => decide (i = p.2) && decide (encode p.2 = p.1)
    | _ => false

/-- One row: the bytes and the instruction they stand for. -/
def row (bs : List Byte) (i : Instr) : List Byte × Instr := (bs, i)

/-- Arithmetic rows of the opcode table, part 1: bytes written from each row's encoding. -/
theorem test_decode_Arithmetic1 :
    decodesAll
      [ row [0x00, 0xDA] (.addRmReg .toRm .byte (.reg .dx) .bx),
        row [0x04, 0x9C] (.addAccImm (.byte 0x9C#8)),
        row [0x80, 0x46, 0xFE, 0x9C] (.addRmImm (.mem (.disp8 .bp 0xFE#8)) (.byte 0x9C#8)),
        row [0x83, 0x85, 0x34, 0x12, 0x85] (.addRmImm8 (.mem (.disp16 .di 0x1234#16)) 0x85#8),
        row [0x09, 0x3E, 0x78, 0x56] (.orRmReg .toRm .word (.mem (.direct 0x5678#16)) .di),
        row [0x0D, 0xCD, 0xAB] (.orAccImm (.word 0xABCD#16)),
        row [0x80, 0x0C, 0x9C] (.orRmImm (.mem (.base .si)) (.byte 0x9C#8)),
        row [0x12, 0xB3, 0x00, 0x80] (.adcRmReg .toReg .byte (.mem (.disp16 .bpDi 0x8000#16)) .si),
        row [0x14, 0x9C] (.adcAccImm (.byte 0x9C#8)),
        row [0x81, 0x52, 0x7F, 0xCD, 0xAB] (.adcRmImm (.mem (.disp8 .bpSi 0x7F#8)) (.word 0xABCD#16)),
        row [0x83, 0xD0, 0x85] (.adcRmImm8 (.reg .ax) 0x85#8),
        row [0x1B, 0x10] (.sbbRmReg .toReg .word (.mem (.base .bxSi)) .dx),
        row [0x1C, 0x9C] (.sbbAccImm (.byte 0x9C#8)),
        row [0x80, 0x9D, 0x34, 0x12, 0x9C] (.sbbRmImm (.mem (.disp16 .di 0x1234#16)) (.byte 0x9C#8)) ] =
      true :=
  rfl

/-- Arithmetic rows of the opcode table, part 2: bytes written from each row's encoding. -/
theorem test_decode_Arithmetic2 :
    decodesAll
      [ row [0x83, 0x1E, 0x78, 0x56, 0x85] (.sbbRmImm8 (.mem (.direct 0x5678#16)) 0x85#8),
        row [0x23, 0x77, 0x10] (.andRmReg .toReg .word (.mem (.disp8 .bx 0x10#8)) .si),
        row [0x25, 0xCD, 0xAB] (.andAccImm (.word 0xABCD#16)),
        row [0x81, 0xA3, 0x00, 0x80, 0xCD, 0xAB] (.andRmImm (.mem (.disp16 .bpDi 0x8000#16)) (.word 0xABCD#16)),
        row [0x2A, 0x29] (.subRmReg .toReg .byte (.mem (.base .bxDi)) .bp),
        row [0x2C, 0x9C] (.subAccImm (.byte 0x9C#8)),
        row [0x80, 0xEE, 0x9C] (.subRmImm (.reg .si) (.byte 0x9C#8)),
        row [0x83, 0x28, 0x85] (.subRmImm8 (.mem (.base .bxSi)) 0x85#8),
        row [0x33, 0x4E, 0xFE] (.xorRmReg .toReg .word (.mem (.disp8 .bp 0xFE#8)) .cx),
        row [0x35, 0xCD, 0xAB] (.xorAccImm (.word 0xABCD#16)),
        row [0x80, 0x36, 0x78, 0x56, 0x9C] (.xorRmImm (.mem (.direct 0x5678#16)) (.byte 0x9C#8)),
        row [0x38, 0x47, 0x10] (.cmpRmReg .toRm .byte (.mem (.disp8 .bx 0x10#8)) .ax),
        row [0x3C, 0x9C] (.cmpAccImm (.byte 0x9C#8)),
        row [0x81, 0xBB, 0x00, 0x80, 0xCD, 0xAB] (.cmpRmImm (.mem (.disp16 .bpDi 0x8000#16)) (.word 0xABCD#16)) ] =
      true :=
  rfl

/-- Arithmetic rows of the opcode table, part 3: bytes written from each row's encoding. -/
theorem test_decode_Arithmetic3 :
    decodesAll
      [ row [0x83, 0x39, 0x85] (.cmpRmImm8 (.mem (.base .bxDi)) 0x85#8),
        row [0x40] (.incReg .ax),
        row [0xFE, 0xC4] (.incRm .byte (.reg .sp)),
        row [0x4E] (.decReg .si),
        row [0xFE, 0x4E, 0xFE] (.decRm .byte (.mem (.disp8 .bp 0xFE#8))),
        row [0xF7, 0x9D, 0x34, 0x12] (.negRm .word (.mem (.disp16 .di 0x1234#16))),
        row [0xF7, 0x16, 0x78, 0x56] (.notRm .word (.mem (.direct 0x5678#16))),
        row [0xF7, 0x67, 0x10] (.mulRm .word (.mem (.disp8 .bx 0x10#8))),
        row [0xF6, 0x2C] (.imulRm .byte (.mem (.base .si))),
        row [0x69, 0xA3, 0x00, 0x80, 0x11, 0x22] (.imulImm .sp (.mem (.disp16 .bpDi 0x8000#16)) 0x2211#16),
        row [0x6B, 0x09, 0x85] (.imulImm8 .cx (.mem (.base .bxDi)) 0x85#8),
        row [0xF7, 0x72, 0x7F] (.divRm .word (.mem (.disp8 .bpSi 0x7F#8))),
        row [0xF7, 0xFA] (.idivRm .word (.reg .dx)) ] =
      true :=
  rfl

/-- LogicAndAdjust rows of the opcode table: bytes written from each row's encoding. -/
theorem test_decode_LogicAndAdjust :
    decodesAll
      [ row [0x85, 0x00] (.testRmReg .word (.mem (.base .bxSi)) .ax),
        row [0xA8, 0x9C] (.testAccImm (.byte 0x9C#8)),
        row [0xF6, 0x85, 0x34, 0x12, 0x9C] (.testRmImm (.mem (.disp16 .di 0x1234#16)) (.byte 0x9C#8)),
        row [0x37] .aaa,
        row [0x27] .daa,
        row [0x3F] .aas,
        row [0x2F] .das,
        row [0xD4, 0x0A] .aam,
        row [0xD5, 0x0A] .aad,
        row [0x98] .cbw,
        row [0x99] .cwd ] =
      true :=
  rfl

/-- Shift rows of the opcode table, part 1: bytes written from each row's encoding. -/
theorem test_decode_Shift1 :
    decodesAll
      [ row [0xD1, 0x46, 0xFE] (.rolOne .word (.mem (.disp8 .bp 0xFE#8))),
        row [0xD3, 0x85, 0x34, 0x12] (.rolCl .word (.mem (.disp16 .di 0x1234#16))),
        row [0xC0, 0x06, 0x78, 0x56, 0x85] (.rolImm .byte (.mem (.direct 0x5678#16)) 0x85#8),
        row [0xD0, 0x4F, 0x10] (.rorOne .byte (.mem (.disp8 .bx 0x10#8))),
        row [0xD2, 0x0C] (.rorCl .byte (.mem (.base .si))),
        row [0xC1, 0x8B, 0x00, 0x80, 0x85] (.rorImm .word (.mem (.disp16 .bpDi 0x8000#16)) 0x85#8),
        row [0xD1, 0x11] (.rclOne .word (.mem (.base .bxDi))),
        row [0xD3, 0x52, 0x7F] (.rclCl .word (.mem (.disp8 .bpSi 0x7F#8))),
        row [0xC0, 0xD6, 0x85] (.rclImm .byte (.reg .si) 0x85#8),
        row [0xD0, 0x18] (.rcrOne .byte (.mem (.base .bxSi))),
        row [0xD2, 0x5E, 0xFE] (.rcrCl .byte (.mem (.disp8 .bp 0xFE#8))),
        row [0xC1, 0x9D, 0x34, 0x12, 0x85] (.rcrImm .word (.mem (.disp16 .di 0x1234#16)) 0x85#8),
        row [0xD1, 0x26, 0x78, 0x56] (.shlOne .word (.mem (.direct 0x5678#16))),
        row [0xD3, 0x67, 0x10] (.shlCl .word (.mem (.disp8 .bx 0x10#8))) ] =
      true :=
  rfl

/-- Shift rows of the opcode table, part 2: bytes written from each row's encoding. -/
theorem test_decode_Shift2 :
    decodesAll
      [ row [0xC0, 0x24, 0x85] (.shlImm .byte (.mem (.base .si)) 0x85#8),
        row [0xD0, 0xAB, 0x00, 0x80] (.shrOne .byte (.mem (.disp16 .bpDi 0x8000#16))),
        row [0xD2, 0x29] (.shrCl .byte (.mem (.base .bxDi))),
        row [0xC1, 0x6A, 0x7F, 0x85] (.shrImm .word (.mem (.disp8 .bpSi 0x7F#8)) 0x85#8),
        row [0xD1, 0xFC] (.sarOne .word (.reg .sp)),
        row [0xD3, 0x38] (.sarCl .word (.mem (.base .bxSi))),
        row [0xC0, 0x7E, 0xFE, 0x85] (.sarImm .byte (.mem (.disp8 .bp 0xFE#8)) 0x85#8) ] =
      true :=
  rfl

/-- Transfer rows of the opcode table, part 1: bytes written from each row's encoding. -/
theorem test_decode_Transfer1 :
    decodesAll
      [ row [0x88, 0x85, 0x34, 0x12] (.movRmReg .toRm .byte (.mem (.disp16 .di 0x1234#16)) .ax),
        row [0x8C, 0x16, 0x78, 0x56] (.movRmSreg (.mem (.direct 0x5678#16)) .ss),
        row [0x8E, 0x47, 0x10] (.movEsRm (.mem (.disp8 .bx 0x10#8))),
        row [0x8E, 0x14] (.movSsRm (.mem (.base .si))),
        row [0x8E, 0x9B, 0x00, 0x80] (.movDsRm (.mem (.disp16 .bpDi 0x8000#16))),
        row [0xA0, 0xEF, 0xBE] (.movAccMem .byte 0xBEEF#16),
        row [0xA2, 0xEF, 0xBE] (.movMemAcc .byte 0xBEEF#16),
        row [0xB1, 0x9C] (.movRegImm .cx (.byte 0x9C#8)),
        row [0xC7, 0x00, 0xCD, 0xAB] (.movRmImm (.mem (.base .bxSi)) (.word 0xABCD#16)),
        row [0x57] (.pushReg .di),
        row [0xFF, 0xB5, 0x34, 0x12] (.pushRm (.mem (.disp16 .di 0x1234#16))),
        row [0x0E] (.pushSreg .cs),
        row [0x68, 0x11, 0x22] (.pushImm 0x2211#16),
        row [0x6A, 0x85] (.pushImm8 0x85#8) ] =
      true :=
  rfl

/-- Transfer rows of the opcode table, part 2: bytes written from each row's encoding. -/
theorem test_decode_Transfer2 :
    decodesAll
      [ row [0x60] .pusha,
        row [0x61] .popa,
        row [0x5C] (.popReg .sp),
        row [0x8F, 0xC0] (.popRm (.reg .ax)),
        row [0x07] .popEs,
        row [0x17] .popSs,
        row [0x1F] .popDs,
        row [0x87, 0x0E, 0x78, 0x56] (.xchgRmReg .word (.mem (.direct 0x5678#16)) .cx),
        row [0x93] (.xchgAx .bx),
        row [0x90] .nop,
        row [0xD7] .xlat,
        row [0xE4, 0x85] (.inImm .byte 0x85#8),
        row [0xED] (.inDx .word),
        row [0xE7, 0x85] (.outImm .word 0x85#8) ] =
      true :=
  rfl

/-- Transfer rows of the opcode table, part 3: bytes written from each row's encoding. -/
theorem test_decode_Transfer3 :
    decodesAll
      [ row [0xEF] (.outDx .word),
        row [0x8D, 0x4E, 0xFE] (.lea .cx (.disp8 .bp 0xFE#8)),
        row [0xC5, 0xB5, 0x34, 0x12] (.lds .si (.disp16 .di 0x1234#16)),
        row [0xC4, 0x1E, 0x78, 0x56] (.les .bx (.direct 0x5678#16)),
        row [0x9F] .lahf,
        row [0x9E] .sahf,
        row [0x9C] .pushf,
        row [0x9D] .popf ] =
      true :=
  rfl

/-- String rows of the opcode table: bytes written from each row's encoding. -/
theorem test_decode_String :
    decodesAll
      [ row [0xA4] (.movs .byte),
        row [0xA6] (.cmps .byte),
        row [0xAB] (.stos .word),
        row [0xAD] (.lods .word),
        row [0xAF] (.scas .word),
        row [0x6C] (.ins .byte),
        row [0x6E] (.outs .byte),
        row [0xF3] .rep,
        row [0xF2] .repne ] =
      true :=
  rfl

/-- Jump rows of the opcode table, part 1: bytes written from each row's encoding. -/
theorem test_decode_Jump1 :
    decodesAll
      [ row [0x70, 0x85] (.jo 0x85#8),
        row [0x71, 0x85] (.jno 0x85#8),
        row [0x72, 0x85] (.jb 0x85#8),
        row [0x73, 0x85] (.jnb 0x85#8),
        row [0x74, 0x85] (.je 0x85#8),
        row [0x75, 0x85] (.jne 0x85#8),
        row [0x76, 0x85] (.jbe 0x85#8),
        row [0x77, 0x85] (.jnbe 0x85#8),
        row [0x78, 0x85] (.js 0x85#8),
        row [0x79, 0x85] (.jns 0x85#8),
        row [0x7A, 0x85] (.jp 0x85#8),
        row [0x7B, 0x85] (.jnp 0x85#8),
        row [0x7C, 0x85] (.jl 0x85#8),
        row [0x7D, 0x85] (.jnl 0x85#8) ] =
      true :=
  rfl

/-- Jump rows of the opcode table, part 2: bytes written from each row's encoding. -/
theorem test_decode_Jump2 :
    decodesAll
      [ row [0x7E, 0x85] (.jle 0x85#8),
        row [0x7F, 0x85] (.jnle 0x85#8),
        row [0xE3, 0x85] (.jcxz 0x85#8),
        row [0xE2, 0x85] (.loop 0x85#8),
        row [0xE1, 0x85] (.loope 0x85#8),
        row [0xE0, 0x85] (.loopne 0x85#8) ] =
      true :=
  rfl

/-- Control rows of the opcode table, part 1: bytes written from each row's encoding. -/
theorem test_decode_Control1 :
    decodesAll
      [ row [0xEB, 0x85] (.jmpShort 0x85#8),
        row [0xE9, 0x11, 0x22] (.jmpNear 0x2211#16),
        row [0xFF, 0xE6] (.jmpRm (.reg .si)),
        row [0xEA, 0x05, 0x10, 0x08, 0x20] (.jmpFar 0x1005#16 0x2008#16),
        row [0xFF, 0x6E, 0xFE] (.jmpFarMem (.disp8 .bp 0xFE#8)),
        row [0xE8, 0x11, 0x22] (.callNear 0x2211#16),
        row [0xFF, 0x16, 0x78, 0x56] (.callRm (.mem (.direct 0x5678#16))),
        row [0x9A, 0x05, 0x10, 0x08, 0x20] (.callFar 0x1005#16 0x2008#16),
        row [0xFF, 0x1C] (.callFarMem (.base .si)),
        row [0xC3] .retNear,
        row [0xC2, 0x11, 0x22] (.retNearImm 0x2211#16),
        row [0xCB] .retFar,
        row [0xCA, 0x11, 0x22] (.retFarImm 0x2211#16),
        row [0xCC] .int3 ] =
      true :=
  rfl

/-- Control rows of the opcode table, part 2: bytes written from each row's encoding. -/
theorem test_decode_Control2 :
    decodesAll
      [ row [0xCD, 0x85] (.intImm 0x85#8),
        row [0xCE] .into,
        row [0xCF] .iret,
        row [0xC8, 0x20, 0x01, 0x03] (.enter 0x0120#16 3#8),
        row [0xC9] .leave,
        row [0x62, 0xA3, 0x00, 0x80] (.bound .sp (.disp16 .bpDi 0x8000#16)) ] =
      true :=
  rfl

/-- Processor rows of the opcode table: bytes written from each row's encoding. -/
theorem test_decode_Processor :
    decodesAll
      [ row [0xF9] .stc,
        row [0xF8] .clc,
        row [0xF5] .cmc,
        row [0xFD] .std,
        row [0xFC] .cld,
        row [0xFB] .sti,
        row [0xFA] .cli,
        row [0xF4] .hlt,
        row [0xDD, 0x14] (.esc 5#3 2#3 (.mem (.base .si))),
        row [0x9B] .wait,
        row [0xF0] .lock,
        row [0x36] (.seg .ss),
        row [0x0F, 0x01, 0xF0] (.lmsw (.reg .ax)),
        row [0x0F, 0x01, 0x20] (.smsw (.mem (.base .bxSi))) ] =
      true :=
  rfl

/-- Protection rows of the opcode table: bytes written from each row's encoding. -/
theorem test_decode_Protection :
    decodesAll
      [ row [0x0F, 0x01, 0x56, 0xFE] (.lgdt (.disp8 .bp 0xFE#8)),
        row [0x0F, 0x01, 0x9D, 0x34, 0x12] (.lidt (.disp16 .di 0x1234#16)),
        row [0x0F, 0x01, 0x06, 0x78, 0x56] (.sgdt (.direct 0x5678#16)),
        row [0x0F, 0x01, 0x4F, 0x10] (.sidt (.disp8 .bx 0x10#8)),
        row [0x0F, 0x00, 0x14] (.lldt (.mem (.base .si))),
        row [0x0F, 0x00, 0x83, 0x00, 0x80] (.sldt (.mem (.disp16 .bpDi 0x8000#16))),
        row [0x0F, 0x00, 0x19] (.ltr (.mem (.base .bxDi))),
        row [0x0F, 0x00, 0x4A, 0x7F] (.str (.mem (.disp8 .bpSi 0x7F#8))),
        row [0x0F, 0x02, 0xFE] (.lar .di (.reg .si)),
        row [0x0F, 0x03, 0x20] (.lsl .sp (.mem (.base .bxSi))),
        row [0x0F, 0x00, 0x66, 0xFE] (.verr (.mem (.disp8 .bp 0xFE#8))),
        row [0x0F, 0x00, 0xAD, 0x34, 0x12] (.verw (.mem (.disp16 .di 0x1234#16))),
        row [0x63, 0x1E, 0x78, 0x56] (.arpl (.mem (.direct 0x5678#16)) .bx),
        row [0x0F, 0x06] .clts ] =
      true :=
  rfl

/-- Refused: 82H, 0F1H, 0F FF, MOV CS, bit 5 of MOV from a segment register, LEA with a register, group 5 /7, POP /1,
SHL /6, AAM without 0AH (30 R195-R200). -/
theorem test_decode_refused :
    decodeInstr [0x82, 0xC0, 0x00] = .error .undefinedOpcode ∧ decodeInstr [0xF1] = .error .undefinedOpcode ∧
    decodeInstr [0x0F, 0xFF] = .error .undefinedOpcode ∧ decodeInstr [0x8E, 0xC8] = .error .undefinedOpcode ∧
    decodeInstr [0x8C, 0xE0] = .error .undefinedOpcode ∧ decodeInstr [0x8D, 0xC0] = .error .memoryRequired ∧
    decodeInstr [0xFF, 0xF8] = .error .undefinedPushPop ∧ decodeInstr [0x8F, 0xC8] = .error .undefinedPushPop ∧
    decodeInstr [0xD1, 0xF0] = .error .undefinedOpcode ∧ decodeInstr [0xD4, 0x0B] = .error .undefinedOpcode ∧
    decodeInstr [0xB8, 0x34] = .error .needMore := by
  refine ⟨?_, ?_, ?_, ?_, ?_, ?_, ?_, ?_, ?_, ?_, ?_⟩ <;> rfl

/-- Prefixes belong to the instruction they stand before: ES: REP MOVSB is three bytes (30 R181, R193). -/
theorem test_decode_prefixes :
    (match decode [0x26, 0xF3, 0xA4, 0x90] with
      | .ok d => decide (d = { prefixes := [.seg .es, .rep], instr := .movs .byte, length := 3 })
      | .error _ => false) = true := by
  decide

/-- The table numbers the first byte highest: 0F06H is CLTS, 83C0H is ADD AX with a sign-extended byte. -/
theorem test_table_words :
    decodeTableWord 16 0x0F06 = some .clts ∧ decodeTableWord 16 0x83C0 = some (.addRmImm8 (.reg .ax) 0) ∧
    decodeTableWord 24 0x0F0110 = some (.lgdt (.base .bxSi)) ∧ decodeTableWord 8 0xF4 = some .hlt := by
  decide

/-! ### Small states -/

/-- What an answer's next state shows. -/
def shown {α : Type} (a : Answer) (f : State → α) : Option α :=
  match a with
  | .next t => some (f t)
  | _ => none

/-- A real-mode state in the middle of an instruction at 0010H whose next one is at 0012H. -/
def realState : State :=
  { State.reset with
    regs :=
      { ax := 0x1234#16, cx := 0x0003#16, dx := 0x0000#16, bx := 0x0040#16, sp := 0x0100#16, bp := 0x0200#16,
        si := 0x0050#16, di := 0x0060#16 }
    ip := 0x0012#16
    cs := Segment.ofReal 0x0100#16
    ss := Segment.ofReal 0x0200#16
    ds := Segment.ofReal 0x0300#16
    es := Segment.ofReal 0x0400#16
    inst := { InstState.idle with ipInst := 0x0010#16, active := true } }

/-- Bytes from an address on. -/
def bytesAt (a : Nat) (bs : List Byte) : Memory := (List.range bs.length).zip bs |>.map fun p => (a + p.1, p.2)

/-- The tables of the protected-mode tests: GDT at 1000H, IDT at 2000H, the new TSS at 3000H, the current TSS at
3100H, operands from 5000H, the stack from 6000H. -/
def protMemory : Memory :=
  bytesAt 0x1008 [0xFF, 0xFF, 0x00, 0x00, 0x01, 0x9A, 0x00, 0x00] ++ -- 08: code, DPL 0, base 010000H
  bytesAt 0x1010 [0xFF, 0x0F, 0x00, 0x60, 0x00, 0x92, 0x00, 0x00] ++ -- 10: data, DPL 0, base 6000H, limit 0FFFH
  bytesAt 0x1018 [0xFF, 0x00, 0x00, 0x00, 0x03, 0xFA, 0x00, 0x00] ++ -- 18: code, DPL 3, base 030000H, limit 00FFH
  bytesAt 0x1020 [0xFF, 0x0F, 0x00, 0x50, 0x00, 0xF2, 0x00, 0x00] ++ -- 20: data, DPL 3, base 5000H
  bytesAt 0x1028 [0x2B, 0x00, 0x00, 0x30, 0x00, 0xE1, 0x00, 0x00] ++ -- 28: available TSS, DPL 3, base 3000H
  bytesAt 0x1030 [0x0F, 0x00, 0x00, 0x70, 0x00, 0x82, 0x00, 0x00] ++ -- 30: LDT
  bytesAt 0x1038 [0x44, 0x00, 0x08, 0x00, 0x01, 0xE4, 0x00, 0x00] ++ -- 38: call gate to 08:0044H, one word
  bytesAt 0x1040 [0x00, 0x00, 0x28, 0x00, 0x00, 0xE5, 0x00, 0x00] ++ -- 40: task gate to 28
  bytesAt 0x1048 [0x2B, 0x00, 0x00, 0x31, 0x00, 0x83, 0x00, 0x00] ++ -- 48: busy TSS, base 3100H
  bytesAt 0x1050 [0xFF, 0xFF, 0x00, 0x00, 0x04, 0x1A, 0x00, 0x00] ++ -- 50: code, DPL 0, not present
  bytesAt 0x1058 [0xFF, 0xFF, 0x00, 0x00, 0x05, 0x12, 0x00, 0x00] ++ -- 58: data, DPL 0, not present
  bytesAt 0x1060 [0xFF, 0xFF, 0x00, 0x00, 0x06, 0x98, 0x00, 0x00] ++ -- 60: execute-only code, DPL 0
  bytesAt 0x1068 [0xFF, 0xFF, 0x00, 0x00, 0x07, 0x9E, 0x00, 0x00] ++ -- 68: conforming code, DPL 0
  bytesAt 0x1070 [0x0F, 0x00, 0x00, 0x70, 0x00, 0x02, 0x00, 0x00] ++ -- 70: LDT, not present
  bytesAt 0x1078 [0x2B, 0x00, 0x00, 0x30, 0x00, 0x01, 0x00, 0x00] ++ -- 78: available TSS, not present
  bytesAt 0x2100 [0x66, 0x00, 0x08, 0x00, 0x00, 0xE6, 0x00, 0x00] ++ -- vector 20H: interrupt gate to 08:0066H
  bytesAt 0x2108 [0x77, 0x00, 0x08, 0x00, 0x00, 0xE7, 0x00, 0x00] ++ -- vector 21H: trap gate to 08:0077H
  bytesAt 0x2110 [0x00, 0x00, 0x28, 0x00, 0x00, 0xE5, 0x00, 0x00] ++ -- vector 22H: task gate to 28
  bytesAt 0x300E
    [0x10, 0x00, 0x02, 0x00, 0x01, 0x11, 0x02, 0x22, 0x03, 0x33, 0x04, 0x44, 0x00, 0x08, 0x06, 0x66, 0x07, 0x77,
     0x08, 0x88, 0x10, 0x00, 0x08, 0x00, 0x10, 0x00, 0x10, 0x00, 0x00, 0x00] ++
  bytesAt 0x3100 [0x28, 0x00, 0x00, 0x08, 0x10, 0x00] ++ -- back link 28, SP0 = 0800H, SS0 = 10
  bytesAt 0x5000 [0x08, 0x00, 0x34, 0x12, 0x05, 0x00, 0x08, 0x00] ++
  bytesAt 0x5040 [0x20, 0x00, 0x10, 0x00, 0x1B, 0x00, 0x02, 0x00] ++
  bytesAt 0x6100
    [0x34, 0x00, 0x08, 0x00, 0x46, 0x0A, 0x05, 0x00, 0x23, 0x00, 0x00, 0x00]

/-- A protected-mode state at level 0, in the middle of an instruction. -/
def protState : State :=
  { realState with
    regs := { realState.regs with bx := 0x0040#16 }
    msw := 0xFFF1#16
    gdtr := { base := 0x001000#24, limit := 0x00FF#16 }
    idtr := { base := 0x002000#24, limit := 0x07FF#16 }
    ldtr := { sel := 0, base := 0, limit := 0, valid := false }
    tr := { sel := 0x0048#16, base := 0x003100#24, limit := 0x002B#16 }
    cs := { sel := 0x0008#16, rights := 0x9B, base := 0x010000#24, limit := 0xFFFF#16, valid := true, real := false }
    ss := { sel := 0x0010#16, rights := 0x93, base := 0x006000#24, limit := 0x0FFF#16, valid := true, real := false }
    ds := { sel := 0x0020#16, rights := 0xF3, base := 0x005000#24, limit := 0x0FFF#16, valid := true, real := false }
    es := { sel := 0x0020#16, rights := 0xF3, base := 0x005000#24, limit := 0x0FFF#16, valid := true, real := false }
    mem := protMemory }

/-- The same at level 3, with its stack in the data segment. -/
def userState : State :=
  { protState with
    regs := { protState.regs with sp := 0x0040#16 }
    cs := { sel := 0x001B#16, rights := 0xFB, base := 0x030000#24, limit := 0x00FF#16, valid := true, real := false }
    ss :=
      { sel := 0x0023#16, rights := 0xF3, base := 0x005000#24, limit := 0x0FFF#16, valid := true, real := false } }

theorem test_protMemory_wf : protMemory.wf = true := by decide +kernel

/-! ### Single steps; the expected values are worked out by hand from the rules cited -/

/-- 1234H + 0EDCCH = 0000H with carry, zero, even parity and auxiliary carry (41 R281, R282). -/
theorem test_add_wraps :
    shown (exec (.addAccImm (.word 0xEDCC)) realState)
      (fun t => (t.regs.ax, t.flags.cf, t.flags.zf, t.flags.pf, t.flags.af, t.flags.of)) =
      some (0#16, true, true, true, true, false) :=
  rfl

/-- AL = 34H minus 35H is 0FFH with a borrow; AH stays (10 R21, 41 R290). -/
theorem test_sub_byte :
    shown (exec (.subAccImm (.byte 0x35)) realState) (fun t => (t.regs.ax, t.flags.cf, t.flags.sf, t.flags.af)) =
      some (0x12FF#16, true, true, true) :=
  rfl

/-- ADC counts the carry (41 R284). -/
theorem test_adc_carry :
    shown (exec (.adcRmImm8 (.reg .ax) 0xFF) { realState with flags := { Flags.zero with cf := true } })
      (fun t => (t.regs.ax, t.flags.cf)) = some (0x1234#16, true) :=
  rfl

/-- SBB subtracts the carry (41 R291). -/
theorem test_sbb_carry :
    shown (exec (.sbbRmReg .toRm .word (.reg .ax) .ax) { realState with flags := { Flags.zero with cf := true } })
      (fun t => (t.regs.ax, t.flags.cf, t.flags.zf)) = some (0xFFFF#16, true, false) :=
  rfl

/-- CMP stores nothing (41 R295). -/
theorem test_cmp_keeps :
    shown (exec (.cmpRmReg .toReg .byte (.reg .sp) .ax) realState) (fun t => (t.regs.ax, t.flags.cf)) =
      some (0x1234#16, false) :=
  rfl

/-- 7FFFH + 1 overflows; CF stays (41 R286). -/
theorem test_inc_overflow :
    shown (exec (.incReg .ax)
        { realState with regs := { realState.regs with ax := 0x7FFF#16 }, flags := { Flags.zero with cf := true } })
      (fun t => (t.regs.ax, t.flags.of, t.flags.sf, t.flags.cf)) = some (0x8000#16, true, true, true) :=
  rfl

/-- NEG of 80H in a byte is 80H with overflow (41 R294). -/
theorem test_neg_most_negative :
    shown (exec (.negRm .byte (.reg .ax)) { realState with regs := { realState.regs with ax := 0x0080#16 } })
      (fun t => (t.regs.ax, t.flags.of, t.flags.cf)) = some (0x0080#16, true, true) :=
  rfl

/-- AND clears CF and OF (42 R332). -/
theorem test_and_flags :
    shown (exec (.andAccImm (.word 0x00F0)) { realState with flags := { Flags.zero with cf := true, of := true } })
      (fun t => (t.regs.ax, t.flags.cf, t.flags.of, t.flags.zf)) = some (0x0030#16, false, false, false) :=
  rfl

/-- XOR of a register with itself is 0 (42 R336). -/
theorem test_xor_zero :
    shown (exec (.xorRmReg .toReg .word (.reg .bx) .bx) realState) (fun t => (t.regs.bx, t.flags.zf, t.flags.pf)) =
      some (0#16, true, true) :=
  rfl

/-- 34H * 12H = 03A8H in AX, the upper half significant (41 R299). -/
theorem test_mul_byte :
    shown (exec (.mulRm .byte (.reg .sp)) realState) (fun t => (t.regs.ax, t.flags.cf, t.flags.of)) =
      some (0x03A8#16, true, true) :=
  rfl

/-- -1 * 2 = -2 in DX:AX, the upper half not significant (41 R300). -/
theorem test_imul_word :
    shown (exec (.imulRm .word (.reg .bx))
        { realState with regs := { realState.regs with ax := 0xFFFF#16, bx := 2 } })
      (fun t => (t.regs.dx, t.regs.ax, t.flags.cf)) = some (0xFFFF#16, 0xFFFE#16, false) :=
  rfl

/-- 1234H / 40H = 48H remainder 34H (41 R303). -/
theorem test_div_byte :
    shown (exec (.divRm .byte (.reg .bx)) realState) (fun t => t.regs.ax) = some 0x3448#16 :=
  rfl

/-- -7 / 2 = -3 remainder -1: truncation toward zero (41 R304). -/
theorem test_idiv_word :
    shown (exec (.idivRm .word (.reg .bx))
        { realState with regs := { realState.regs with dx := 0xFFFF#16, ax := 0xFFF9#16, bx := 2 } })
      (fun t => (t.regs.ax, t.regs.dx)) = some (0xFFFD#16, 0xFFFF#16) :=
  rfl

/-- Division by zero is interrupt 0; the saved IP is that of the DIV (41 R323). -/
theorem test_div_by_zero :
    shown (exec (.divRm .word (.reg .dx)) realState)
      (fun t => (t.regs.sp, t.load .word t.ss 0x00FA, t.load .word t.ss 0x00FC, t.inst.active)) =
      some (0x00FA#16, 0x0010#16, 0x0100#16, false) :=
  rfl

/-- 15H + 27H in BCD: AL = 3CH becomes 42H (41 R288). -/
theorem test_daa :
    shown (exec .daa { realState with regs := { realState.regs with ax := 0x003C#16 } })
      (fun t => (t.regs.ax, t.flags.af, t.flags.cf)) = some (0x0042#16, true, false) :=
  rfl

/-- AAA: 0AH carries into AH (41 R287). -/
theorem test_aaa :
    shown (exec .aaa { realState with regs := { realState.regs with ax := 0x000A#16 } })
      (fun t => (t.regs.ax, t.flags.cf)) = some (0x0100#16, true) :=
  rfl

/-- AAM of 53 is 5 and 3; AAD undoes it (41 R302, R305). -/
theorem test_aam_aad :
    shown (exec .aam { realState with regs := { realState.regs with ax := 0x0035#16 } }) (fun t => t.regs.ax) =
      some 0x0503#16 ∧
    shown (exec .aad { realState with regs := { realState.regs with ax := 0x0503#16 } }) (fun t => t.regs.ax) =
      some 0x0035#16 :=
  ⟨rfl, rfl⟩

/-- RCL through the carry, RCR back (42 R346, R347). -/
theorem test_rcl_rcr :
    shown (exec (.rclOne .byte (.reg .ax))
        { realState with regs := { realState.regs with ax := 0x0080#16 }, flags := { Flags.zero with cf := true } })
      (fun t => (t.regs.ax, t.flags.cf, t.flags.of)) = some (0x0001#16, true, true) ∧
    shown (exec (.rcrImm .word (.reg .ax) 17) realState) (fun t => (t.regs.ax, t.flags.cf)) =
      some (0x1234#16, false) :=
  ⟨rfl, rfl⟩

/-- SAR keeps the sign; a count of 33 is 1 (42 R340, R343). -/
theorem test_sar_count :
    shown (exec (.sarImm .byte (.reg .ax) 33) { realState with regs := { realState.regs with ax := 0x0081#16 } })
      (fun t => (t.regs.ax, t.flags.cf)) = some (0x00C0#16, true) :=
  rfl

/-- A shift by CL = 0 changes nothing (42 R340). -/
theorem test_shift_zero :
    exec (.shlCl .word (.reg .ax)) { realState with regs := { realState.regs with cx := 0x0020#16 } } =
      .next { realState with regs := { realState.regs with cx := 0x0020#16 } } :=
  rfl

/-- PUSH SP stores SP as it was (40 R239). -/
theorem test_push_sp :
    shown (exec (.pushReg .sp) realState) (fun t => (t.regs.sp, t.load .word t.ss 0x00FE)) =
      some (0x00FE#16, 0x0100#16) :=
  rfl

set_option maxRecDepth 8000 in
/-- MOVSW backward (43 R360, R362). -/
theorem test_movs_down :
    shown (exec (.movs .word)
        { protState with
          regs := { protState.regs with si := 0x0002, di := 0x0010 }, flags := { Flags.zero with df := true } })
      (fun t => (t.load .word t.es 0x0010, t.regs.si, t.regs.di)) = some (0x1234#16, 0x0000#16, 0x000E#16) :=
  rfl

set_option maxRecDepth 8000 in
/-- REPE SCASB goes on while equal, and its step leaves IP at the instruction (43 R380, R384). -/
theorem test_repe_scas :
    shown (exec (.scas .byte)
        { protState with
          regs := { protState.regs with ax := 0x0008, di := 0 }
          inst := { protState.inst with rep := some .repe } })
      (fun t => (t.regs.cx, t.regs.di, t.ip, t.inst.progress)) = some (0x0002#16, 0x0001#16, 0x0010#16, .iterate) :=
  rfl

/-- LOOP with CX = 1 falls through (44 R395). -/
theorem test_loop_ends :
    shown (exec (.loop 0xF0) { realState with regs := { realState.regs with cx := 1 } }) (fun t => (t.ip, t.regs.cx)) =
      some (0x0012#16, 0#16) :=
  rfl

/-- JL backward: SF != OF (44 R393). -/
theorem test_jl_taken :
    shown (exec (.jl 0xEE) { realState with flags := { Flags.zero with sf := true } }) (fun t => t.ip) =
      some 0x0000#16 :=
  rfl

set_option maxRecDepth 8000 in
/-- CALL through the gate 38 from level 3: the TSS gives the stack, one parameter is copied (44 R418). -/
theorem test_call_gate :
    shown (exec (.callFar 0x9999 0x003B) userState)
      (fun t => (t.cs.sel, t.ip, t.ss.sel, t.regs.sp, t.load .word t.ss 0x07FA, t.load .word t.ss 0x07F6)) =
      some (0x0008#16, 0x0044#16, 0x0010#16, 0x07F6#16, 0x0020#16, 0x0012#16) :=
  rfl

set_option maxRecDepth 8000 in
/-- INT 20H from level 3 through the interrupt gate (60 R560, R562). -/
theorem test_int_gate :
    shown (exec (.intImm 0x20) { userState with flags := { Flags.zero with ifl := true, tf := true, nt := true } })
      (fun t => (t.cs.sel, t.ip, t.regs.sp, t.flags.ifl, t.load .word t.ss 0x07F6, t.load .word t.ss 0x07FE)) =
      some (0x0008#16, 0x0066#16, 0x07F6#16, false, 0x0012#16, 0x0023#16) :=
  rfl

set_option maxRecDepth 8000 in
/-- IRET to level 3 (45 R457): IF needs CPL <= IOPL, IOPL needs CPL = 0. -/
theorem test_iret_outer :
    shown (exec .iret
        { protState with mem := (protState.mem.set 0x6102 0x1B).set 0x6106 0x80 })
      (fun t => (t.cs.sel, t.ip, t.ss.sel, t.regs.sp, t.flags.ifl)) =
      some (0x001B#16, 0x0034#16, 0x0023#16, 0x0080#16, true) :=
  rfl

set_option maxRecDepth 8000 in
/-- JMP to the TSS 28: its image is loaded, TS is set, TR names it (44 R440). -/
theorem test_task_switch :
    shown (exec (.jmpFar 0 0x0028) protState)
      (fun t => (t.regs.ax, t.ip, t.tr.sel, t.byteAt 0x102D, t.byteAt 0x104D, t.wordAt 0x310E)) =
      some (0x1101#16, 0x0010#16, 0x0028#16, 0xE3#8, 0x81#8, 0x0012#16) :=
  rfl

set_option maxRecDepth 8000 in
/-- ENTER 4,2 copies one display word and pushes the frame pointer (46 R471). -/
theorem test_enter :
    shown (exec (.enter 4 2) { protState with regs := { protState.regs with bp := 0x0104 } })
      (fun t => (t.regs.bp, t.regs.sp, t.load .word t.ss 0x00FE, t.load .word t.ss 0x00FC, t.load .word t.ss 0x00FA)) =
      some (0x00FE#16, 0x00F6#16, 0x0104#16, 0x0008#16, 0x00FE#16) :=
  rfl

set_option maxRecDepth 8000 in
/-- LMSW cannot clear PE (47 R497). -/
theorem test_lmsw_keeps_pe :
    shown (exec (.lmsw (.reg .dx)) protState) (fun t => t.msw) = some 0xFFF1#16 :=
  rfl

set_option maxRecDepth 8000 in
/-- LAR of a call gate succeeds, LSL of it fails (48 R521, R522). -/
theorem test_lar_lsl :
    shown (exec (.lar .ax (.reg .bx)) { protState with regs := { protState.regs with bx := 0x0038 } })
      (fun t => (t.regs.ax, t.flags.zf)) = some (0xE400#16, true) ∧
    shown (exec (.lsl .ax (.reg .bx)) { protState with regs := { protState.regs with bx := 0x0038 } })
      (fun t => (t.regs.ax, t.flags.zf)) = some (0x1234#16, false) :=
  ⟨rfl, rfl⟩

set_option maxRecDepth 8000 in
/-- ARPL raises the RPL (48 R525). -/
theorem test_arpl :
    shown (exec (.arpl (.reg .bx) .cx) { protState with regs := { protState.regs with bx := 0x0038 } })
      (fun t => (t.regs.bx, t.flags.zf)) = some (0x003B#16, true) :=
  rfl

set_option maxRecDepth 8000 in
/-- HLT at level 3 is #GP(0): here the IDT has no entry 13, so #DF, then shutdown (60 R570, R574). -/
theorem test_hlt_user :
    shown (exec .hlt { userState with idtr := { base := 0x002000#24, limit := 0 } }) (fun t => t.run) =
      some .shutdown :=
  rfl

/-- The first step after reset fetches at physical FFFFF0H (10 R56, 70 R601): a HLT placed there halts. -/
theorem test_step_from_reset :
    shown (step (State.reset.withFetchWord 8 0xF4)) (fun t => (t.run, t.ip)) = some (.halted, 0xFFF1#16) :=
  rfl

/-! ### The bus, RESET, and boundaries -/

/-- Another master writes between CMPS's two reads of the same byte: they differ (20 R117); under LOCK between two
iterations its writes wait (20 R115, 47 R494). -/
theorem test_other_master :
    shown (exec (.cmps .byte)
        { protState with regs := { protState.regs with si := 0x0040, di := 0x0040 }, bus := [⟨[(0x5040, 0x21)], none⟩] })
      (fun t => (t.flags.zf, t.flags.cf, t.bus)) = some (false, true, []) ∧
    ({ protState with
        inst := { InstState.idle with
          lock := true, code := some { prefixes := [.lock], instr := .movs .byte, length := 2 } }
        env := [{ Pins.idle with busWrites := [(0x5040, 0x21)] }] } : State).sample.byteAt 0x5040 = 0x20#8 := by
  decide +kernel

/-- RESET after one byte of a word store: the low byte alone has reached memory (70 R600). -/
theorem test_reset_cuts_store :
    shown (step
        { State.reset with
          mem := bytesAt 0x0100 [0x11, 0x22] ++ bytesAt 0xFFFFF0 [0xA3, 0x00, 0x01, 0, 0, 0, 0, 0, 0, 0]
          env := [{ Pins.idle with reset := some 1 }] })
      (fun t => (t.byteAt 0x0100, t.byteAt 0x0101, t.ip)) = some (0x00#8, 0x22#8, 0xFFF0#16) := by
  decide +kernel

/-- HOLD: the processor waits for the bus (20 R126). -/
theorem test_hold :
    shown (step { State.reset.withFetchWord 8 0xF4 with env := [{ Pins.idle with hold := true }] })
      (fun t => (t.run, t.ip)) = some (.running, 0xFFF0#16) :=
  rfl

/-- REP before NOP on a platform that declines it (92 D23), and on one that ignores it. -/
theorem test_rep_nonstring :
    let s := State.reset.withFetchWord 16 0xF390
    step { s with platform := { s.platform with repIgnored := false } } = .refused .repNonString ∧
    shown (step s) (fun t => t.ip) = some 0xFFF2#16 :=
  ⟨rfl, rfl⟩

/-- INC [DS:0] with another master's write of 40H between the read and the store: that write is lost (20 R117, R126). -/
theorem test_lost_update :
    let s : State := { realState with bus := [⟨[(0x3000, 0x40)], none⟩], mem := realState.mem.set 0x3000 7 }
    shown (exec (.incRm .byte (.mem (.direct 0))) s) (fun t => t.byteAt 0x3000) = some 8#8 := by
  decide +kernel

/-- LES with another master's write between the offset and the selector: the old offset with the new selector. -/
theorem test_torn_pointer :
    let s : State := { realState with
      bus := [⟨[(0x3000, 0x11), (0x3002, 0x44)], none⟩]
      mem := bytesAt 0x3000 [1, 0, 2, 0] }
    shown (exec (.les .bx (.direct 0)) s) (fun t => (t.regs.bx, t.es.sel)) = some (1#16, 0x44#16) := by
  decide +kernel

/-- PUSHA with an operand transfer of the extension after its first word: the extension's word lies over that word and
the next transfer is two bytes on (20 R117, R124). -/
theorem test_transfer_inside :
    let s : State := { realState with
      bus := [⟨[], some 0xBEEF⟩], npx := some { seg := realState.ss, offset := 0x00FE, toMemory := true } }
    shown (exec .pusha s) (fun t => (t.load .word t.ss 0x00FE, t.load .word t.ss 0x00FC, t.npx.map (·.offset))) =
      some (0xBEEF#16, 0x0003#16, some 0x0100) := by
  decide +kernel

/-- A real-mode word at linear FFFFFH has its high byte at 100000H (20 R81); with A20 masked that is 000000H
(20 R80). -/
theorem test_word_above_megabyte :
    let s : State := { realState with mem := [(0x000000, 0x77), (0x0FFFFF, 0x33), (0x100000, 0x44)] }
    s.load .word (Segment.ofReal 0xFFFF#16) 0x000F = 0x4433#16 ∧
    ({ s with platform := { s.platform with addrMask := 0xEFFFFF } } : State).load .word (Segment.ofReal 0xFFFF#16) 0x000F =
      0x7733#16 := by
  decide +kernel

/-- A platform that decodes A14-A0 alone (00 R5, 20 R80). -/
theorem test_address_mask :
    ({ realState with platform := { realState.platform with addrMask := 0x007FFF } } : State).physAddr 0x129ABC =
      0x1ABC := by
  decide +kernel

/-- A far CALL with another master's write of the target's access byte after the descriptor has been read: the accessed
bit is set in that byte, CS holds the rights that were read (20 R96, R115 (d); 93 U33). -/
theorem test_accessed_bit_is_locked :
    shown (exec (.callFar 0 0x0008) { protState with bus := [⟨[], none⟩, ⟨[(0x100D, 0x70)], none⟩] })
      (fun t => (t.byteAt 0x100D, t.cs.rights)) = some (0x71#8, 0x9B#8) := by
  decide +kernel

/-- An event with an error code whose stack lies over the descriptor of its handler's segment: the error code is pushed
after the accessed bit has been set and overwrites it (20 R117 (d), 60 R560). -/
theorem test_error_code_after_accessed_bit :
    shown (raise { vector := 0x21, code := some 0x1234, ext := false, soft := false, nmi := false } 5
        { protState with
          regs := { protState.regs with sp := 0x0014 }, ss := { protState.ss with base := 0x001000 } })
      (fun t => (t.cs.rights, t.byteAt 0x100D, t.regs.sp)) = some (0x9B#8, 0x12#8, 0x000C#16) := by
  decide +kernel

/-- HLT at offset FFFFH in the window after LMSW: run under real-mode rules it leaves the mark of the wrap, under
protected-mode rules it does not (70 R610, 93 U34). -/
theorem test_wrap_in_lmsw_window :
    let s : State := { protState with ip := 0xFFFF }
    let d : Decoded := { prefixes := [], instr := .hlt, length := 1 }
    (s.beginInst d true).fetch.wrapped = true ∧ (s.beginInst d false).fetch.wrapped = false :=
  ⟨rfl, rfl⟩

/-- 0F 04 at the reset vector is interrupt 6 with the saved IP at it (30 R195, 60 R545, R546). -/
theorem test_undefined_opcode_step :
    shown (step
        { realState with
          ip := 0x0010, inst := InstState.idle
          mem := bytesAt 0x18 [0x34, 0x12, 0x78, 0x56] ++ bytesAt 0x1010 [0x0F, 0x04, 0, 0, 0, 0, 0, 0, 0, 0] })
      (fun t => (t.ip, t.cs.sel, t.load .word t.ss 0x00FA)) = some (0x1234#16, 0x5678#16, 0x0010#16) := by
  decide +kernel

/-- An NMI at a boundary is delivered and the first instruction of its handler, here HLT, runs in the same step (00 R11,
60 R556). -/
theorem test_nmi_then_instruction :
    shown (step
        { realState with
          inst := InstState.idle, env := [{ Pins.idle with nmi := true }]
          mem := bytesAt 0x08 [0x00, 0x00, 0x00, 0x07] ++ bytesAt 0x7000 [0xF4, 0, 0, 0, 0, 0, 0, 0, 0, 0] })
      (fun t => (t.run, t.ip, t.nmiInService, t.load .word t.ss 0x00FA)) = some (.halted, 1#16, true, 0x0012#16) := by
  decide +kernel

/-- INT with SP = 1 and TF = 1 shuts down and leaves no single-step trap (60 R555, R571). -/
theorem test_shutdown_no_trap :
    shown (step
        { realState with
          ip := 0x0010, inst := InstState.idle, regs := { realState.regs with sp := 1 }
          flags := { Flags.zero with tf := true }
          mem := bytesAt 0x1010 [0xCC, 0, 0, 0, 0, 0, 0, 0, 0, 0] })
      (fun t => (t.run, t.stepTrap)) = some (.shutdown, false) := by
  decide +kernel

/-- INT 20H with the table's limit one below its entry's last byte: interrupt 8 with the saved IP at the INT (60
R547). -/
theorem test_int_beyond_table :
    shown (exec (.intImm 0x20)
        { realState with
          idtr := { base := 0, limit := 0x82 }, mem := bytesAt 0x20 [0x34, 0x12, 0x78, 0x56, 0, 0, 0, 0] })
      (fun t => (t.ip, t.cs.sel, t.load .word t.ss 0x00FA)) = some (0x1234#16, 0x5678#16, 0x0010#16) := by
  decide +kernel

/-- ENTER 0,5 whose fourth display word lies at offset FFFFH: interrupt 13 from the old SP and BP. The third display
word, pushed at 00F8H, stays below the interrupt's own three words (46 R471; D9). -/
theorem test_enter_fault_keeps_pushes :
    shown (exec (.enter 0 5)
        { realState with
          regs := { realState.regs with bp := 7 }
          mem := bytesAt 0x34 [0x34, 0x12, 0x78, 0x56] ++ bytesAt 0x2001 [0x21, 0x43, 0x65, 0x87, 0xA9, 0xCB] })
      (fun t => (t.ip, t.regs.bp, t.regs.sp, t.load .word t.ss 0x00F8, t.load .word t.ss 0x00FA)) =
      some (0x1234#16, 7#16, 0x00FA#16, 0x4321#16, 0x0010#16) := by
  decide +kernel

/-- An event through the task gate 22H whose new task has a null CS: the task is entered, its #TS waits for the next
boundary (44 R444); through vector 8 the same ends in shutdown (60 R570, R574). -/
theorem test_new_task_exception :
    let s := { protState with mem := (protState.mem.set 0x3024 0).set 0x3025 0 }
    shown (raise { vector := 0x22, code := none, ext := true, soft := false, nmi := false } 5 s)
      (fun t => (t.tr.sel, t.pendingExc, t.run)) = some (0x0028#16, some (Exc.ts 1), .running) ∧
    shown (raiseDouble { vector := 13, code := some 0, ext := true, soft := false, nmi := false } 5
        { s with idtr := { base := 0x2110 - 0x40, limit := 0x47 } })
      (fun t => (t.tr.sel, t.pendingExc, t.run)) = some (0x0028#16, none, .shutdown) := by
  decide +kernel

/-- Between the iterations of an instruction of three bytes the queue begins behind it, not at IP (20 R120). -/
theorem test_queue_between_iterations :
    ({ realState with
        inst := { InstState.idle with code := some { prefixes := [.rep], instr := .movs .byte, length := 3 } } } :
      State).queueStart = 0x0015#16 :=
  rfl

/-! ### The hypotheses of the statements can be met -/

theorem witness_AdditionResult : ∃ (op : AluOp) (x : AluForm) (i : Instr) (s : State),
    (op = .add ∨ op = .adc) ∧ x.instr op = some i ∧ x.ready true s :=
  ⟨.adc, .rmImm8 (.mem (.direct 0xFFFE#16)) 0xFF, _, realState, .inr rfl, rfl, rfl⟩

theorem witness_SubtractionResult : ∃ (op : AluOp) (x : AluForm) (i : Instr) (s : State),
    (op = .sub ∨ op = .sbb) ∧ x.instr op = some i ∧ x.ready true s :=
  ⟨.sbb, .rmReg .toRm .byte (.mem (.base .bxSi)) .sp, _, realState, .inr rfl, rfl, rfl⟩

theorem witness_SubtractionResult_compare : ∃ (x : AluForm) (i : Instr) (s : State),
    x.instr .cmp = some i ∧ x.ready false s :=
  ⟨.rmImm (.mem (.direct 0xFFFF#16)) (.byte 0x80), _, realState, rfl, rfl⟩

theorem witness_LogicResult : ∃ (op : AluOp) (x : AluForm) (i : Instr) (s : State),
    (op = .and ∨ op = .or ∨ op = .xor) ∧ x.instr op = some i ∧ x.ready true s :=
  ⟨.xor, .accImm (.word 0xFFFF#16), _, realState, .inr (.inr rfl), rfl, rfl⟩

theorem witness_TestSetsFlagsOnly :
    realState.rmReadFault .word (.mem (.direct 0xFFFE#16)) = none ∧
    realState.rmReadFault .word (.mem (.direct 0xFFFF#16)) = some (Exc.gp 0) :=
  ⟨rfl, rfl⟩

theorem witness_IncrementKeepsCarry : realState.rmWriteFault .byte (.mem (.direct 0xFFFF#16)) = none := rfl

theorem witness_NegateAndInvert :
    realState.rmWriteFault .word (.mem (.base .bp)) = none ∧
    realState.rmWriteFault .word (.mem (.direct 0xFFFF#16)) = some (Exc.gp 0) :=
  ⟨rfl, rfl⟩

theorem witness_MultiplyResult :
    realState.rmReadFault .byte (.reg .di) = none ∧ realState.rmReadFault .word (.mem (.direct 0)) = none :=
  ⟨rfl, rfl⟩

/-- Each clause at the largest quotient that fits: 0FFH, 7FH, 0FFFFH and 7FFFH. -/
theorem witness_DivideResult :
    (∃ s : State, s.rmReadFault .byte (.reg .bx) = none ∧ (s.rmValue .byte (.reg .bx)).toNat ≠ 0 ∧
      s.regs.ax.toNat / (s.rmValue .byte (.reg .bx)).toNat = 2 ^ 8 - 1) ∧
    (∃ s : State, s.rmReadFault .byte (.reg .bx) = none ∧ Width.toInt .byte (s.rmValue .byte (.reg .bx)) ≠ 0 ∧
      s.regs.ax.toInt.tdiv (Width.toInt .byte (s.rmValue .byte (.reg .bx))) = 127) ∧
    (∃ s : State, s.rmReadFault .word (.reg .bx) = none ∧ (s.rmValue .word (.reg .bx)).toNat ≠ 0 ∧
      (s.regs.dx.toNat * 2 ^ 16 + s.regs.ax.toNat) / (s.rmValue .word (.reg .bx)).toNat = 2 ^ 16 - 1) ∧
    (∃ s : State, s.rmReadFault .word (.reg .bx) = none ∧ (s.rmValue .word (.reg .bx)).toInt ≠ 0 ∧
      (s.regs.dx.toInt * 2 ^ 16 + s.regs.ax.toNat).tdiv (s.rmValue .word (.reg .bx)).toInt = 32767) :=
  ⟨⟨{ realState with regs := { realState.regs with ax := 0x00FF#16, bx := 1 } }, rfl, by decide, by decide⟩,
    ⟨{ realState with regs := { realState.regs with ax := 0xFF81#16, bx := 0x00FF#16 } }, rfl, by decide, by decide⟩,
    ⟨{ realState with regs := { realState.regs with ax := 0xFFFF#16, bx := 1 } }, rfl, by decide, by decide⟩,
    ⟨{ realState with regs := { realState.regs with dx := 0xFFFF#16, ax := 0x8001#16, bx := 0xFFFF#16 } }, rfl,
      by decide, by decide⟩⟩

/-- Each clause by a divisor of 0 and by the smallest quotient that does not fit. -/
theorem witness_DivideResult_traps :
    (∃ s : State, s.rmReadFault .byte (.reg .bx) = none ∧ (s.rmValue .byte (.reg .bx)).toNat = 0) ∧
    (∃ s : State, s.regs.ax.toNat / (s.rmValue .byte (.reg .bx)).toNat = 2 ^ 8) ∧
    (∃ s : State, s.regs.ax.toInt.tdiv (Width.toInt .byte (s.rmValue .byte (.reg .bx))) = 128) ∧
    (∃ s : State, (s.regs.dx.toNat * 2 ^ 16 + s.regs.ax.toNat) / (s.rmValue .word (.reg .bx)).toNat = 2 ^ 16) ∧
    (∃ s : State,
      (s.regs.dx.toInt * 2 ^ 16 + s.regs.ax.toNat).tdiv (s.rmValue .word (.reg .bx)).toInt = 32768) :=
  ⟨⟨{ realState with regs := { realState.regs with bx := 0 } }, rfl, by decide⟩,
    ⟨{ realState with regs := { realState.regs with ax := 0x0100#16, bx := 1 } }, by decide⟩,
    ⟨{ realState with regs := { realState.regs with ax := 0x0080#16, bx := 1 } }, by decide⟩,
    ⟨{ realState with regs := { realState.regs with dx := 1, ax := 0, bx := 1 } }, by decide⟩,
    ⟨{ realState with regs := { realState.regs with dx := 0, ax := 0x8000#16, bx := 1 } }, by decide⟩⟩

theorem witness_ShiftByOneResult : realState.rmWriteFault .word (.mem (.direct 0xFFFE#16)) = none := rfl

/-- A count that is a multiple of 32, and the largest count that is not. -/
theorem witness_ShiftByCountResult :
    realState.rmWriteFault .byte (.reg .sp) = none ∧ (0x20#8).toNat % 32 = 0 ∧ (0xFF#8).toNat % 32 ≠ 0 :=
  ⟨rfl, rfl, by decide⟩

theorem witness_ShiftClosedForm :
    (0x00FF#16).toNat < 2 ^ Width.byte.bits ∧ (0xFFFF#16).toNat < 2 ^ Width.word.bits := by
  decide

theorem witness_MoveResult :
    realState.rmReadFault .byte (.mem (.direct 0xFFFF#16)) = none ∧
    realState.rmWriteFault .word (.mem (.direct 0xFFFE#16)) = none ∧
    realState.readFault (realState.overridden .ds) (realState.regs.bx + zeroExtend realState.al) 1 = none ∧
    protState.prot = true ∧ protState.rmWriteFault .word (.reg .ax) = none ∧
    realState.readFault .ds 0xFFFF#16 2 = some (Exc.gp 0) ∧
    realState.rmWriteFault .word (.mem (.direct 0xFFFF#16)) = some (Exc.gp 0) :=
  ⟨rfl, rfl, rfl, rfl, rfl, rfl, rfl⟩

theorem witness_ExchangeResult :
    realState.rmWriteFault .word (.mem (.direct 0)) = none ∧
    protState.rmWriteFault .word (.mem (.direct 0x0FFF#16)) = some (Exc.gp 0) :=
  ⟨rfl, rfl⟩

theorem witness_FlagInstructionsResult :
    (realState.prot = true → realState.cpl ≤ realState.flags.iopl.toNat) ∧
    ({ userState with flags := { Flags.zero with iopl := 3 } } : State).cpl ≤ (3#2).toNat := by
  decide

theorem witness_PushResult :
    realState.Quiet ∧ realState.LowDecoded ∧ realState.writeFault .ss (realState.regs.sp - 2) 2 = none :=
  ⟨rfl, rfl, rfl⟩

theorem witness_PushAllPopAll :
    realState.Quiet ∧
    (∀ k : Fin 8, realState.writeFault .ss (realState.regs.sp - 2 - BitVec.ofNat 16 (2 * k)) 2 = none) ∧
    (∀ k : Fin 8, realState.readFault .ss (realState.regs.sp + BitVec.ofNat 16 (2 * k)) 2 = none) :=
  ⟨rfl, by decide, by decide⟩

theorem witness_PopResult :
    realState.readFault .ss realState.regs.sp 2 = none ∧ realState.rmWriteFault .word (.mem (.direct 0)) = none :=
  ⟨rfl, rfl⟩

/-- The state with another SP. -/
def stacked (s : State) (sp : Word) : State := { s with regs := { s.regs with sp := sp } }

/-- The word below SP = 0 lies beyond the stack's limit of 0FFFH, the word at SP = 0FFFH half beyond it; so do the first
and the last word of PUSHA and POPA, the word at BP = 0FFFH, and a destination in memory. -/
theorem witness_StackFaults :
    protState.prot = true ∧ protState.Quiet ∧
    (stacked protState 0).writeFault .ss (0 - 2) 2 = some (Exc.ss 0) ∧
    (stacked protState 14).writeFault .ss (14 - 2) 2 = none ∧
    (stacked protState 14).writeFault .ss (14 - 16) 2 = some (Exc.ss 0) ∧
    (stacked protState 0x0FFF).readFault .ss 0x0FFF 2 = some (Exc.ss 0) ∧
    (stacked protState 0x0FFE).readFault .ss 0x0FFE 2 = none ∧
    (stacked protState 0x0FFE).readFault .ss (0x0FFE + 14) 2 = some (Exc.ss 0) ∧
    protState.readFault .ss 0x0FFF 2 = some (Exc.ss 0) ∧
    protState.rmWriteFault .word (.mem (.direct 0x0FFF)) = some (Exc.gp 0) := by
  decide

/-- In real mode: SP = 1 for the pushes, FFFFH for the pops; a destination at offset FFFFH; the far transfers at 1, 3,
FFFFH, FFFDH and IRET at FFFBH besides. -/
theorem witness_StackFaults_real :
    realState.prot = false ∧ realState.Quiet ∧ (stacked realState 1).regs.sp = 1 ∧
    (stacked realState 0xFFFF).regs.sp = 0xFFFF ∧
    realState.rmWriteFault .word (.mem (.direct 0xFFFF)) = some (Exc.gp 0) ∧
    (stacked realState 3).regs.sp = 3 ∧ (stacked realState 0xFFFD).regs.sp = 0xFFFD ∧
    (stacked realState 0xFFFB).regs.sp = 0xFFFB :=
  ⟨rfl, rfl, rfl, rfl, rfl, rfl, rfl, rfl⟩

/-- The protected-mode state with the largest stack segment. -/
def wideStack : State := { protState with ss := { protState.ss with limit := 0xFFFF } }

/-- PUSHA part-way, its first and its last word at offset FFFFH in real mode, its second and its last but one in
protected mode. -/
theorem witness_PushAllPopAll_pushed :
    let fits := fun (s : State) j => s.writeFault .ss (s.regs.sp - 2 - BitVec.ofNat 16 (2 * j)) 2 = none
    realState.prot = false ∧ (stacked realState 1).regs.sp.toNat = 2 * 0 + 1 ∧
    (stacked realState 15).regs.sp.toNat = 2 * 7 + 1 ∧ (stacked realState 15).Quiet ∧
    (∀ p ∈ [((3 : Word), 1), (5, 2), (13, 6)],
      let s := stacked wideStack p.1
      s.Quiet ∧ s.prot = true ∧ fits s 0 ∧ fits s 7 ∧ (∀ j < p.2, fits s j) ∧ ¬ fits s p.2) := by
  decide +kernel

/-- POPA likewise. -/
theorem witness_PushAllPopAll_popped :
    let fits := fun (s : State) j => s.readFault .ss (s.regs.sp + BitVec.ofNat 16 (2 * j)) 2 = none
    realState.prot = false ∧ (stacked realState 0xFFFF).regs.sp.toNat + 2 * 0 = 0xFFFF ∧
    (stacked realState 0xFFF1).regs.sp.toNat + 2 * 7 = 0xFFFF ∧ (stacked realState 0xFFF1).Quiet ∧
    (∀ p ∈ [((0xFFFD : Word), 1), (0xFFFB, 2), (0xFFF3, 6)],
      let s := stacked wideStack p.1
      s.Quiet ∧ s.prot = true ∧ fits s 0 ∧ fits s 7 ∧ (∀ j < p.2, fits s j) ∧ ¬ fits s p.2) := by
  decide +kernel

/-- ENTER's first failing word: BP at level 0, the frame pointer at levels 1 and 31, the first display word, which cannot
be read, in either mode; in protected mode the frame pointer too. -/
theorem witness_FrameInstructionsResult_faults :
    let push := fun (s : State) j => s.writeFault .ss (s.regs.sp - 2 - BitVec.ofNat 16 (2 * j)) 2
    let read := fun (s : State) n j =>
      if 1 ≤ j ∧ j < n then s.readFault .ss (s.regs.bp - BitVec.ofNat 16 (2 * j)) 2 else none
    let below := fun (s : State) => { s with regs := { s.regs with bp := 1 } }
    let meets := fun (s : State) n k e => s.Quiet ∧ k ≤ n ∧ (∀ j < k, read s n j = none ∧ push s j = none) ∧
      [read s n k, push s k].findSome? id = some e
    meets (stacked realState 1) 0 0 (Exc.gp 0) ∧ meets (stacked realState 3) 1 1 (Exc.gp 0) ∧
    meets (stacked realState 63) 31 31 (Exc.gp 0) ∧ meets (below realState) 2 1 (Exc.gp 0) ∧
    meets (stacked protState 0) 0 0 (Exc.ss 0) ∧ meets (stacked protState 2) 1 1 (Exc.ss 0) ∧
    meets (below protState) 2 1 (Exc.ss 0) ∧ protState.ss.valid = true ∧
    protState.ss.rights.getLsbD 3 = false ∧ protState.ss.rights.getLsbD 1 = true := by
  decide +kernel

theorem witness_SegmentLoadReal : ∃ (x : SegLoad) (r : SReg) (i : Instr) (s : State),
    x.instr r = some i ∧ x.ready s ∧ s.prot = false ∧ s.Quiet :=
  ⟨.far .bx (.direct 0xFFFC#16), .es, _, realState, rfl, ⟨rfl, rfl⟩, rfl, rfl⟩

/-- The state whose CX holds the selector loaded. -/
def loading (s : State) (sel : Word) : State := { s with regs := { s.regs with cx := sel } }

set_option maxRecDepth 8000 in
/-- DS from level 3 with DPL = RPL = CPL, conforming code whatever the levels, and SS at level 0. -/
theorem witness_SegmentLoadProtected :
    (∃ d, (loading userState 0x0023#16).fetchDesc 0x0023#16 = some d ∧ d.ar.getLsbD 7 = true ∧
      d.ar.getLsbD 4 = true ∧ d.ar.getLsbD 3 = false ∧ userState.cpl = rightsDpl d.ar ∧ rightsDpl d.ar = 3) ∧
    (∃ d, (loading userState 0x006B#16).fetchDesc 0x006B#16 = some d ∧ d.ar.getLsbD 7 = true ∧
      d.ar.getLsbD 4 = true ∧ d.ar.getLsbD 3 = true ∧ d.ar.getLsbD 2 = true ∧ d.ar.getLsbD 1 = true) ∧
    (∃ d, (loading protState 0x0010#16).fetchDesc 0x0010#16 = some d ∧ d.ar.getLsbD 7 = true ∧
      d.ar.getLsbD 4 = true ∧ d.ar.getLsbD 3 = false ∧ d.ar.getLsbD 1 = true ∧ rightsDpl d.ar = protState.cpl) ∧
    (SegLoad.mov (.reg .cx)).ready (loading userState 0x0023#16) ∧ userState.prot = true ∧ userState.Quiet :=
  ⟨⟨_, rfl, rfl, rfl, rfl, rfl, rfl⟩, ⟨_, rfl, rfl, rfl, rfl, rfl, rfl⟩, ⟨_, rfl, rfl, rfl, rfl, rfl, rfl⟩, rfl, rfl,
    rfl⟩

set_option maxRecDepth 8000 in
/-- The clauses: null (3), outside the table, a system descriptor, code into SS, data not present into SS and DS,
execute-only code, and data more privileged than CPL. -/
theorem witness_SegmentLoadTraps :
    protState.fetchDesc 0x0103#16 = none ∧
    (∃ d, protState.fetchDesc 0x0028#16 = some d ∧ d.ar.getLsbD 4 = false) ∧
    (∃ d, protState.fetchDesc 0x0008#16 = some d ∧ d.ar.getLsbD 4 = true ∧ d.ar.getLsbD 3 = true) ∧
    (∃ d, protState.fetchDesc 0x0058#16 = some d ∧ d.ar.getLsbD 4 = true ∧ d.ar.getLsbD 3 = false ∧
      d.ar.getLsbD 1 = true ∧ rightsDpl d.ar = protState.cpl ∧ d.ar.getLsbD 7 = false) ∧
    (∃ d, protState.fetchDesc 0x0060#16 = some d ∧ d.ar.getLsbD 4 = true ∧ d.ar.getLsbD 3 = true ∧
      d.ar.getLsbD 1 = false) ∧
    (∃ d, userState.fetchDesc 0x0010#16 = some d ∧ d.ar.getLsbD 4 = true ∧ d.ar.getLsbD 3 = false ∧
      rightsDpl d.ar < userState.cpl) ∧
    (SegLoad.mov (.reg .cx)).ready (loading protState 3) ∧ protState.prot = true ∧ protState.Quiet :=
  ⟨rfl, ⟨_, rfl, rfl⟩, ⟨_, rfl, rfl, rfl⟩, ⟨_, rfl, rfl, rfl, rfl, rfl, rfl⟩, ⟨_, rfl, rfl, rfl, rfl⟩,
    ⟨_, rfl, rfl, rfl, by decide⟩, rfl, rfl, rfl⟩

theorem witness_PortTransferResult :
    (protState.prot = true → protState.cpl ≤ protState.flags.iopl.toNat) ∧ 0xFFFE#16 ≠ 0xFFFF#16 := by
  decide

theorem witness_StringMoveResult :
    (realState.inst.rep ≠ none → realState.regs.cx ≠ 0) ∧
    realState.readFault (realState.overridden .ds) realState.regs.si 2 = none ∧
    realState.writeFault .es realState.regs.di 2 = none := by
  decide

theorem witness_StringCompareResult :
    realState.readFault .es realState.regs.di 2 = none ∧
    realState.readFault (realState.overridden .ds) realState.regs.si 2 = none ∧
    (loading { realState with inst := { realState.inst with rep := some .repne } } 1).regs.cx ≠ 0 := by
  decide

theorem witness_StringPortResult :
    (realState.prot = true → realState.cpl ≤ realState.flags.iopl.toNat) ∧ realState.regs.dx ≠ 0xFFFF#16 ∧
    realState.writeFault .es realState.regs.di 2 = none ∧
    realState.readFault (realState.overridden .ds) realState.regs.si 2 = none := by
  decide

theorem witness_PrefixResult :
    (protState.prot = true → protState.cpl ≤ protState.flags.iopl.toNat) ∧
    (∃ s : State, s.inst.rep ≠ none ∧ s.regs.cx = 0) :=
  ⟨by decide, loading { realState with inst := { realState.inst with rep := some .repe } } 0, by decide, rfl⟩

/-- The three clauses: a target at the limit itself, a condition that fails, a target one beyond the limit. -/
theorem witness_ConditionalJumpResult :
    Jump.taken .no userState ∧ userState.InCode 0x00FF#16 ∧ ¬ Jump.taken .o userState ∧
    ¬ userState.InCode 0x0100#16 := by
  refine ⟨rfl, fun _ => by decide, ?_, fun h => ?_⟩
  · show ¬ (userState.flags.of = true)
    decide
  · exact absurd (h rfl) (by decide)

theorem witness_LoopResult :
    (loading userState 2).regs.cx ≠ 1 ∧ (loading userState 2).InCode 0x00FF#16 ∧ (loading userState 1).regs.cx = 1 ∧
    ¬ (loading userState 0).InCode 0x0100#16 := by
  refine ⟨by decide, fun _ => by decide, rfl, fun h => ?_⟩
  exact absurd (h rfl) (by decide)

theorem witness_NearTransferResult :
    userState.Quiet ∧ userState.InCode 0x00FF#16 ∧ userState.writeFault .ss (userState.regs.sp - 2) 2 = none ∧
    userState.rmReadFault .word (.reg .ax) = none ∧ ¬ userState.InCode 0x0100#16 := by
  refine ⟨rfl, fun _ => by decide, rfl, rfl, fun h => ?_⟩
  exact absurd (h rfl) (by decide)

set_option maxRecDepth 8000 in
/-- The word at 5040H is a target within the limit; at 5046H one beyond a smaller limit would stand. -/
theorem witness_NearTransferResult_return :
    userState.readFault .ss userState.regs.sp 2 = none ∧
    userState.InCode (userState.load .word userState.ss userState.regs.sp) ∧
    ¬ ({ userState with cs := { userState.cs with limit := 0x001F#16 } } : State).InCode
      (userState.load .word userState.ss userState.regs.sp) := by
  refine ⟨rfl, fun _ => by decide, fun h => ?_⟩
  exact absurd (h rfl) (by decide)

theorem witness_FarTransferReal :
    realState.prot = false ∧ realState.Quiet ∧ realState.FarForm (.jmpFar 5 8) false 5 8 ∧
    realState.FarForm (.callFar 5 8) true 5 8 ∧
    realState.writeFault .ss (realState.regs.sp - 2) 2 = none ∧
    realState.writeFault .ss (realState.regs.sp - 4) 2 = none ∧ realState.readFault .ss realState.regs.sp 2 = none ∧
    realState.readFault .ss (realState.regs.sp + 2) 2 = none :=
  ⟨rfl, rfl, .inl ⟨rfl, rfl⟩, .inr (.inl ⟨rfl, rfl⟩), rfl, rfl, rfl, rfl⟩

set_option maxRecDepth 8000 in
/-- Completing: 08 from level 0, conforming 68 from level 3, the offset at the limit; the traps: null, outside the
table, data, DPL other than CPL, not present, no stack room, an offset one beyond the limit. -/
theorem witness_FarTransferProtected :
    protState.FarForm (.callFar 0xFFFF 8) true 0xFFFF 8 ∧ protState.prot = true ∧ protState.Quiet ∧
    (∃ d, protState.Named 8 d ∧ d.ar.getLsbD 7 = true ∧ d.ar.getLsbD 4 = true ∧ d.ar.getLsbD 3 = true ∧
      d.ar.getLsbD 2 = false ∧ rightsDpl d.ar = protState.cpl ∧ d.word0.toNat = 0xFFFF) ∧
    protState.writeFault .ss (protState.regs.sp - 2) 2 = none ∧
    protState.writeFault .ss (protState.regs.sp - 4) 2 = none ∧
    (∃ d, userState.Named 0x68 d ∧ d.ar.getLsbD 2 = true ∧ rightsDpl d.ar ≤ userState.cpl) ∧
    protState.fetchDesc 0x0100#16 = none ∧
    (∃ d, protState.Named 0x10 d ∧ d.ar.getLsbD 4 = true ∧ d.ar.getLsbD 3 = false) ∧
    (∃ d, protState.Named 0x18 d ∧ d.ar.getLsbD 4 = true ∧ d.ar.getLsbD 3 = true ∧ d.ar.getLsbD 2 = false ∧
      rightsDpl d.ar ≠ protState.cpl) ∧
    (∃ d, protState.Named 0x50 d ∧ d.ar.getLsbD 4 = true ∧ d.ar.getLsbD 3 = true ∧ rightsDpl d.ar = protState.cpl ∧
      d.ar.getLsbD 7 = false) ∧
    ({ protState with regs := { protState.regs with sp := 2 } } : State).writeFault .ss 0xFFFE#16 2 ≠ none ∧
    (∃ d, userState.Named 0x1B d ∧ d.word0.toNat < (0x0100#16).toNat) :=
  ⟨.inr (.inl ⟨rfl, rfl⟩), rfl, rfl, ⟨_, ⟨by decide, rfl⟩, rfl, rfl, rfl, rfl, rfl, rfl⟩, rfl, rfl,
    ⟨_, ⟨by decide, rfl⟩, rfl, by decide⟩, rfl, ⟨_, ⟨by decide, rfl⟩, rfl, rfl⟩,
    ⟨_, ⟨by decide, rfl⟩, rfl, rfl, rfl, by decide⟩, ⟨_, ⟨by decide, rfl⟩, rfl, rfl, rfl, rfl⟩, by decide,
    ⟨_, ⟨by decide, rfl⟩, by decide⟩⟩

/-- A state with some bytes of memory replaced. -/
def patched (s : State) (cells : List Host.Cell) : State :=
  { s with mem := cells.foldl (fun m c => m.set c.1 c.2) s.mem }

set_option maxRecDepth 8000 in
/-- System descriptors that no far transfer goes through: an LDT, present and not, and types 0, 6 and 15. -/
theorem witness_FarTransferProtected_other :
    protState.FarForm (.jmpFar 0 0x30) false 0 0x30 ∧ protState.prot = true ∧ protState.Quiet ∧
    (∀ p ∈ [((0x30 : Word), (0x82 : Byte)), (0x70, 0x02), (0x30, 0x80), (0x30, 0x86), (0x30, 0x8F)],
      let s := patched protState [(0x1035, if p.1 = 0x30 then p.2 else 0x82)]
      ∃ d, s.Named p.1 d ∧ d.ar = p.2 ∧ d.ar.getLsbD 4 = false ∧
        d.ar.extractLsb' 0 4 ∉ [1#4, 3#4, 4#4, 5#4]) := by
  refine ⟨.inl ⟨rfl, rfl⟩, rfl, rfl, ?_⟩
  intro p hp
  simp only [List.mem_cons, List.not_mem_nil, or_false] at hp
  rcases hp with rfl | rfl | rfl | rfl | rfl <;> exact ⟨_, ⟨by decide, rfl⟩, rfl, rfl, by decide⟩

/-- The real-mode state with another limit of the interrupt table. -/
def limited (limit : Word) : State := { realState with idtr := { base := 0, limit := limit } }

/-- One byte short of the entry: INT 20H, INT 3, INTO, INT 8 and INT 13; and of entry 8 besides. -/
theorem witness_InterruptReal_limit :
    realState.prot = false ∧
    (limited 0x82).SoftInt (.intImm 0x20) 0x20 ∧ (limited 0x82).idtr.limit.toNat < 4 * (0x20#8).toNat + 3 ∧
    (limited 0x0E).SoftInt .int3 3 ∧ (limited 0x0E).idtr.limit.toNat < 4 * (3#8).toNat + 3 ∧
    (let s := { limited 0x12 with flags := { Flags.zero with of := true } }
     s.SoftInt .into 4 ∧ s.idtr.limit.toNat < 4 * (4#8).toNat + 3) ∧
    (limited 0x22).SoftInt (.intImm 8) 8 ∧ (limited 0x22).idtr.limit.toNat < 4 * (8#8).toNat + 3 ∧
    (limited 0x36).SoftInt (.intImm 13) 13 ∧ (limited 0x36).idtr.limit.toNat < 4 * (13#8).toNat + 3 ∧
    (limited 0x22).Quiet ∧ (limited 0x22).idtr.limit.toNat < 4 * 8 + 3 :=
  ⟨rfl, .inl rfl, by decide, .inr (.inl ⟨rfl, rfl⟩), by decide, ⟨.inr (.inr ⟨rfl, rfl, rfl⟩), by decide⟩, .inl rfl,
    by decide, .inl rfl, by decide, rfl, by decide⟩

set_option maxRecDepth 8000 in
/-- The call gate 38: completing from level 0 to 08 (by CALL and JMP, the offset at the limit) and from level 3 to
conforming code; its faults: DPL 0 from level 3, not present, a null selector, one beyond the table, data, a less
privileged segment, one not present, no stack room, an offset one beyond the limit. -/
theorem witness_CallGateToSameLevel :
    (let s := patched protState [(0x1008, 0x44), (0x1009, 0)]
     s.FarForm (.callFar 0 0x38) true 0 0x38 ∧ s.FarForm (.jmpFar 0 0x38) false 0 0x38 ∧ s.prot = true ∧ s.Quiet ∧
      s.Named 0x38 (s.descAt 0x1038) ∧ (s.descAt 0x1038).ar = 0xE4#8 ∧ (s.descAt 0x1038).word1 = 8#16 ∧
      s.Named 8 (s.descAt 0x1008) ∧ (s.descAt 0x1008).ar = 0x9A#8 ∧ s.cpl = 0 ∧
      s.writeFault .ss (s.regs.sp - 2) 2 = none ∧ s.writeFault .ss (s.regs.sp - 4) 2 = none ∧
      (s.descAt 0x1038).word0.toNat = (s.descAt 0x1008).word0.toNat) ∧
    (let s := patched userState [(0x103A, 0x68)]
     (s.descAt 0x1038).word1 = 0x68#16 ∧ s.Named 0x68 (s.descAt 0x1068) ∧ (s.descAt 0x1068).ar = 0x9E#8 ∧
      s.cpl = 3) ∧
    ((patched userState [(0x103D, 0x84)]).descAt 0x1038).ar = 0x84#8 ∧
    ((patched protState [(0x103D, 0x64)]).descAt 0x1038).ar = 0x64#8 ∧
    ((patched protState [(0x103A, 0)]).descAt 0x1038).word1 = 0 ∧
    (patched protState [(0x103B, 1)]).fetchDesc 0x0108 = none ∧
    (protState.descAt 0x1010).ar = 0x92#8 ∧ (protState.descAt 0x1018).ar = 0xFA#8 ∧
    (protState.descAt 0x1050).ar = 0x1A#8 ∧
    ({ protState with regs := { protState.regs with sp := 2 } } : State).writeFault .ss (2 - 4) 2 ≠ none ∧
    ((patched protState [(0x1008, 0x43), (0x1009, 0)]).descAt 0x1008).word0 = 0x43#16 :=
  ⟨⟨.inr (.inl ⟨rfl, rfl⟩), .inl ⟨rfl, rfl⟩, rfl, rfl, ⟨by decide, rfl⟩, rfl, rfl, ⟨by decide, rfl⟩, rfl, rfl, rfl, rfl,
      rfl⟩,
    ⟨rfl, ⟨by decide, rfl⟩, rfl, rfl⟩, rfl, rfl, rfl, rfl, rfl, rfl, rfl, by decide, rfl⟩

set_option maxRecDepth 8000 in
/-- INT 20H whose gate or target fails: an entry one byte beyond the table, a call gate, DPL 0 from level 3, not
present; a target selector that is null, beyond the table, of data, not present, of a less privileged segment. -/
theorem witness_InterruptGateFaults :
    (protState.SoftInt (.intImm 0x20) 0x20 ∧ protState.prot = true ∧ protState.Quiet ∧
      8 * (0x20#8).toNat + 7 ≤ protState.idtr.limit.toNat ∧ (protState.descAt 0x2100).ar = 0xE6#8) ∧
    ({ protState with idtr := { base := 0x2000, limit := 0x106 } } : State).idtr.limit.toNat < 8 * (0x20#8).toNat + 7 ∧
    ((patched protState [(0x2105, 0x84)]).descAt 0x2100).ar = 0x84#8 ∧
    (((patched userState [(0x2105, 0x86)]).descAt 0x2100).ar = 0x86#8 ∧ userState.cpl = 3) ∧
    ((patched protState [(0x2105, 0x66)]).descAt 0x2100).ar = 0x66#8 ∧
    ((patched protState [(0x2102, 0)]).descAt 0x2100).word1 = 0 ∧
    (((patched protState [(0x2103, 1)]).descAt 0x2100).word1 = 0x0108#16 ∧ protState.fetchDesc 0x0108 = none) ∧
    (protState.Named 0x10 (protState.descAt 0x1010) ∧ (protState.descAt 0x1010).ar.getLsbD 3 = false) ∧
    (protState.Named 0x50 (protState.descAt 0x1050) ∧ (protState.descAt 0x1050).ar = 0x1A#8) ∧
    (protState.Named 0x18 (protState.descAt 0x1018) ∧ (protState.descAt 0x1018).ar = 0xFA#8 ∧ protState.cpl = 0) :=
  ⟨⟨.inl rfl, rfl, rfl, by decide, rfl⟩, by decide, rfl, ⟨rfl, rfl⟩, rfl, rfl, ⟨rfl, rfl⟩, ⟨⟨by decide, rfl⟩, rfl⟩,
    ⟨⟨by decide, rfl⟩, rfl⟩, ⟨⟨by decide, rfl⟩, rfl, rfl⟩⟩

set_option maxRecDepth 8000 in
theorem witness_CallGateToInnerLevel : ∃ gate code stack : Desc,
    userState.FarForm (.callFar 0 0x3B) true 0 0x3B ∧ userState.prot = true ∧ userState.Quiet ∧
    userState.Named 0x3B gate ∧
    gate.System 4 ∧ userState.cpl ≤ rightsDpl gate.ar ∧ (0x3B#16).toNat % 4 ≤ rightsDpl gate.ar ∧
    userState.Named gate.word1 code ∧ code.RunsAt (rightsDpl code.ar) ∧ code.ar.getLsbD 2 = false ∧
    rightsDpl code.ar < userState.cpl ∧ 4 * rightsDpl code.ar + 5 ≤ userState.tr.limit.toNat ∧
    userState.wordAt (userState.tr.base.toNat + 4 * rightsDpl code.ar + 4) = 0x10#16 ∧
    userState.Named 0x10 stack ∧ stack.StackOf 0x10 (rightsDpl code.ar) ∧
    userState.wordAt (userState.tr.base.toNat + 4 * rightsDpl code.ar + 2) = 0x0800#16 ∧
    gate.high.toNat % 32 = 1 ∧
    (∀ k : Fin 5, (stack.cached 0x10#16).inLimit (0x0800#16 - 2 - BitVec.ofNat 16 (2 * k)) 2 = true) ∧
    userState.readFault .ss (userState.regs.sp + BitVec.ofNat 16 (2 * 0)) 2 = none ∧
    gate.word0.toNat ≤ code.word0.toNat :=
  ⟨userState.descAt 0x1038, userState.descAt 0x1008, userState.descAt 0x1010, .inr (.inl ⟨rfl, rfl⟩), rfl, rfl,
    ⟨by decide, rfl⟩, ⟨rfl, rfl, rfl⟩, by decide, by decide, ⟨by decide, rfl⟩, ⟨rfl, rfl, rfl, rfl⟩, rfl, by decide,
    by decide, rfl, ⟨by decide, rfl⟩, ⟨rfl, rfl, rfl, rfl, rfl, rfl⟩, rfl, rfl, by decide, rfl, by decide⟩

set_option maxRecDepth 8000 in
/-- Each fault of the inner stack of the call gate 38 and the interrupt gate 20H from level 3: the task state segment
too short, a null selector, one beyond its table, one of level 3, one not present, room for less than five words;
parameter words beyond the old stack, an offset one beyond the limit. -/
theorem witness_InnerStackFaults :
    ({ userState with tr := { userState.tr with limit := 4 } } : State).InnerStackFault 0 5 false (Exc.ts 0x48) ∧
    (patched userState [(0x3104, 0)]).InnerStackFault 0 5 true (Exc.gp 1) ∧
    (patched userState [(0x3105, 1)]).InnerStackFault 0 5 false (Exc.ts 0x110) ∧
    (patched userState [(0x3104, 0x20)]).InnerStackFault 0 5 true (Exc.ts 0x21) ∧
    (patched userState [(0x3104, 0x58)]).InnerStackFault 0 5 false (Exc.ss 0x58) ∧
    (patched userState [(0x3102, 8), (0x3103, 0)]).InnerStackFault 0 5 false (Exc.ss 0) ∧
    (stacked userState 0x0FFF).readFault .ss 0x0FFF 2 ≠ none ∧
    ((patched userState [(0x1008, 0x43), (0x1009, 0)]).descAt 0x1008).word0.toNat <
      (userState.descAt 0x1038).word0.toNat :=
  ⟨.inl ⟨by decide, rfl⟩, .inr ⟨by decide, .inl ⟨by decide, rfl⟩⟩,
    .inr ⟨by decide, .inr (.inl ⟨by decide, rfl, rfl⟩)⟩,
    .inr ⟨by decide, .inr (.inr ⟨_, ⟨by decide, rfl⟩, .inl ⟨fun h => absurd h.2.2.2.2 (by decide), rfl⟩⟩)⟩,
    .inr ⟨by decide, .inr (.inr ⟨_, ⟨by decide, rfl⟩, .inr (.inl ⟨⟨rfl, rfl, rfl, rfl, rfl⟩, rfl, rfl⟩)⟩)⟩,
    .inr ⟨by decide, .inr (.inr ⟨_, ⟨by decide, rfl⟩,
      .inr (.inr ⟨⟨rfl, rfl, rfl, rfl, rfl⟩, rfl, ⟨4, by decide, rfl⟩, rfl⟩)⟩)⟩,
    by decide, by decide⟩

/-- A level 0 state whose stack returns to level 0 or, with the selector at 6102H changed, to level 3. -/
def returning (sel : Byte) : State := { protState with mem := (protState.mem.set 0x6102 sel).set 0x6106 0x80 }

set_option maxRecDepth 8000 in
/-- To the same level, and to level 3 with SS:SP = 0023:.... above the immediate. -/
theorem witness_FarReturnProtected :
    (∃ code : Desc, protState.prot = true ∧ protState.Quiet ∧
      protState.load .word protState.ss (protState.regs.sp + 2) = 8#16 ∧ protState.Named 8 code ∧ code.RunsAt 0 ∧
      (0x34#16).toNat ≤ code.word0.toNat ∧ protState.load .word protState.ss protState.regs.sp = 0x34#16 ∧
      protState.cpl = 0 ∧ protState.readFault .ss protState.regs.sp 2 = none ∧
      protState.readFault .ss (protState.regs.sp + 2) 2 = none) ∧
    (∃ code stack : Desc, (returning 0x1B).Quiet ∧
      (returning 0x1B).load .word (returning 0x1B).ss ((returning 0x1B).regs.sp + 2) = 0x1B#16 ∧
      (returning 0x1B).Named 0x1B code ∧ code.RunsAt 3 ∧ (0x34#16).toNat ≤ code.word0.toNat ∧
      (returning 0x1B).cpl < 3 ∧ (returning 0x1B).readFault .ss (returning 0x1B).regs.sp (8 + (2#16).toNat) = none ∧
      (returning 0x1B).load .word (returning 0x1B).ss ((returning 0x1B).regs.sp + 6 + 2) = 0x23#16 ∧
      (returning 0x1B).Named 0x23 stack ∧ stack.StackOf 0x23 3) :=
  ⟨⟨protState.descAt 0x1008, rfl, rfl, rfl, ⟨by decide, rfl⟩, ⟨rfl, rfl, rfl, by decide⟩, by decide, rfl,
      rfl, rfl, rfl⟩,
    ⟨(returning 0x1B).descAt 0x1018, (returning 0x1B).descAt 0x1020, rfl, rfl, ⟨by decide, rfl⟩,
      ⟨rfl, rfl, rfl, by decide⟩, by decide, by decide, rfl, rfl, ⟨by decide, rfl⟩, ⟨rfl, rfl, rfl, rfl, rfl, rfl⟩⟩⟩

set_option maxRecDepth 8000 in
/-- Each fault of a return: the selector beyond the stack, a more privileged level, the frame beyond the stack, the code
selector null, beyond its table, of data, not present, the offset's word beyond the stack, the offset beyond the
segment; to level 3 the stack selector null, beyond its table, of another level, not present, the offset beyond. -/
theorem witness_ReturnFaults :
    (protState.prot = true ∧ protState.Quiet ∧ protState.flags.nt = false) ∧
    protState.readFault .ss (0x0FFE + 2) 2 = some (Exc.ss 0) ∧
    (userState.readFault .ss (userState.regs.sp + 2) 2 = none ∧
      (userState.load .word userState.ss (userState.regs.sp + 2)).toNat % 4 < userState.cpl) ∧
    ((patched protState [(0x6FFE, 8), (0x6FFF, 0)]).load .word protState.ss (0x0FFC + 2) = 8#16 ∧
      protState.readFault .ss (0x0FFC + 2) 2 = none ∧ protState.readFault .ss 0x0FFC 6 ≠ none) ∧
    (returning 0).load .word protState.ss (0x0100 + 2) = 0 ∧
    (patched protState [(0x6103, 1)]).load .word protState.ss (0x0100 + 2) = 0x0108#16 ∧
    protState.fetchDesc 0x0108 = none ∧ (protState.descAt 0x1010).ar.getLsbD 3 = false ∧
    (protState.descAt 0x1050).ar = 0x1A#8 ∧
    ((patched protState [(0x6001, 8), (0x6002, 0)]).load .word protState.ss (0xFFFF + 2) = 8#16 ∧
      protState.readFault .ss (0xFFFF + 2) 2 = none ∧ protState.readFault .ss 0xFFFF 2 ≠ none) ∧
    ((patched protState [(0x1008, 0x33), (0x1009, 0)]).descAt 0x1008).word0.toNat <
      (protState.load .word protState.ss 0x0100).toNat ∧
    ((returning 0x1B).readFault .ss 0x0100 (8 + 2) = none ∧ (returning 0x1B).cpl < 3 ∧
      ((returning 0x1B).descAt 0x1018).RunsAt 3) ∧
    (patched (returning 0x1B) [(0x6108, 0)]).load .word protState.ss (0x0100 + 6 + 2) = 0 ∧
    (patched (returning 0x1B) [(0x6109, 1)]).load .word protState.ss (0x0100 + 6 + 2) = 0x0123#16 ∧
    protState.fetchDesc 0x0123 = none ∧
    (patched (returning 0x1B) [(0x6108, 0x10)]).load .word protState.ss (0x0100 + 6 + 2) = 0x10#16 ∧
    ((patched (returning 0x1B) [(0x1025, 0x72)]).descAt 0x1020).ar = 0x72#8 ∧
    ((returning 0x1B).descAt 0x1018).word0.toNat <
      ((patched (returning 0x1B) [(0x6101, 2)]).load .word protState.ss 0x0100).toNat :=
  ⟨⟨rfl, rfl, rfl⟩, rfl, ⟨rfl, by decide⟩, ⟨rfl, rfl, by decide⟩, rfl, rfl, rfl, rfl, rfl, ⟨rfl, rfl, by decide⟩,
    by decide, ⟨rfl, by decide, ⟨rfl, rfl, rfl, by decide⟩⟩, rfl, rfl, rfl, rfl, rfl, by decide⟩

set_option maxRecDepth 8000 in
/-- A back link that names an available TSS, is null or local, and one of a busy TSS that is not present. -/
theorem witness_ReturnFaults_task :
    (let s : State := { protState with flags := { Flags.zero with nt := true } }
     s.prot = true ∧ s.Quiet ∧ s.flags.nt = true ∧ 1 ≤ s.tr.limit.toNat ∧ s.wordAt s.tr.base.toNat = 0x28#16 ∧
      s.Named 0x28 (s.descAt 0x1028) ∧ (s.descAt 0x1028).ar.extractLsb' 0 4 ≠ 3#4) ∧
    (patched protState [(0x3100, 0)]).wordAt 0x3100 = 0 ∧ (0x002C#16).getLsbD 2 = true ∧
    (let s := patched protState [(0x3100, 0x78), (0x107D, 0x03)]
     s.wordAt 0x3100 = 0x78#16 ∧ s.Named 0x78 (s.descAt 0x1078) ∧ (s.descAt 0x1078).ar = 0x03#8) :=
  ⟨⟨rfl, rfl, rfl, by decide, rfl, ⟨by decide, rfl⟩, by decide⟩, rfl, rfl, ⟨rfl, ⟨by decide, rfl⟩, rfl⟩⟩

/-- Vector 0FFH at the table's limit of 03FFH; SP = 7, the smallest odd one that does not wrap; SP = 1, 3 and 5. -/
theorem witness_InterruptReal :
    realState.Entry (exec (.intImm 0xFF) realState) 0xFF none realState.ip true false ∧
    realState.prot = false ∧ realState.Quiet ∧
    4 * (0xFF#8).toNat + 3 ≤ realState.idtr.limit.toNat ∧
    (∃ s : State, s.regs.sp = 7 ∧ s.regs.sp ≠ 1 ∧ s.regs.sp ≠ 3 ∧ s.regs.sp ≠ 5) ∧
    (∃ s : State, s.regs.sp = 5) ∧ realState.flags.of = false :=
  ⟨.inl ⟨rfl, rfl, rfl, rfl, _, .inl rfl, rfl⟩, rfl, rfl, by decide,
    ⟨{ realState with regs := { realState.regs with sp := 7 } }, rfl, by decide, by decide, by decide⟩,
    ⟨{ realState with regs := { realState.regs with sp := 5 } }, rfl⟩, rfl⟩

set_option maxRecDepth 8000 in
/-- The trap gate 21H from level 0, with an error code. -/
theorem witness_InterruptGateToSameLevel : ∃ target : Desc,
    protState.Entry (raise { vector := 0x21, code := some 7, ext := false, soft := false, nmi := false } 5 protState)
      0x21 (some 7) 5 false false ∧ protState.prot = true ∧ protState.Quiet ∧
    8 * (0x21#8).toNat + 7 ≤ protState.idtr.limit.toNat ∧
    (protState.descAt (protState.idtr.base.toNat + 8 * (0x21#8).toNat)).System 7 ∧
    (protState.descAt (protState.idtr.base.toNat + 8 * (0x21#8).toNat)).word1 = 8#16 ∧ protState.Named 8 target ∧
    target.RunsAt protState.cpl ∧
    (protState.descAt (protState.idtr.base.toNat + 8 * (0x21#8).toNat)).word0.toNat ≤ target.word0.toNat ∧
    (∀ k : Fin 4, protState.writeFault .ss (protState.regs.sp - 2 - BitVec.ofNat 16 (2 * k)) 2 = none) :=
  ⟨protState.descAt 0x1008, .inr ⟨rfl, false, rfl⟩, rfl, rfl, by decide, ⟨rfl, rfl, rfl⟩, rfl, ⟨by decide, rfl⟩,
    ⟨rfl, rfl, rfl, rfl⟩, by decide, by decide⟩

set_option maxRecDepth 8000 in
/-- An NMI through the same gate, which clears IF (60 R554); no room for its three words, and an offset beyond the
limit. -/
theorem witness_InterruptGateToSameLevel_more :
    protState.Entry (raise { vector := 0x21, code := none, ext := true, soft := false, nmi := true } 5 protState)
      0x21 none 5 false true ∧
    (∃ k < 3, (stacked protState 2).writeFault .ss (2 - 2 - BitVec.ofNat 16 (2 * k)) 2 ≠ none) ∧
    ((patched protState [(0x1008, 0x76), (0x1009, 0)]).descAt 0x1008).word0.toNat <
      (protState.descAt 0x2108).word0.toNat :=
  ⟨.inr ⟨rfl, true, rfl⟩, ⟨1, by decide, by decide⟩, by decide⟩

set_option maxRecDepth 8000 in
/-- The interrupt gate 20H from level 3. -/
theorem witness_InterruptGateToInnerLevel : ∃ target stack : Desc,
    userState.Entry (exec (.intImm 0x20) userState) 0x20 none userState.ip true false ∧
    userState.prot = true ∧ userState.Quiet ∧
    8 * (0x20#8).toNat + 7 ≤ userState.idtr.limit.toNat ∧
    (userState.descAt (userState.idtr.base.toNat + 8 * (0x20#8).toNat)).System 6 ∧
    userState.cpl ≤ rightsDpl (userState.descAt (userState.idtr.base.toNat + 8 * (0x20#8).toNat)).ar ∧
    (userState.descAt (userState.idtr.base.toNat + 8 * (0x20#8).toNat)).word1 = 8#16 ∧ userState.Named 8 target ∧
    target.RunsAt (rightsDpl target.ar) ∧ target.ar.getLsbD 2 = false ∧ rightsDpl target.ar < userState.cpl ∧
    (userState.descAt (userState.idtr.base.toNat + 8 * (0x20#8).toNat)).word0.toNat ≤ target.word0.toNat ∧
    4 * rightsDpl target.ar + 5 ≤ userState.tr.limit.toNat ∧
    userState.wordAt (userState.tr.base.toNat + 4 * rightsDpl target.ar + 4) = 0x10#16 ∧
    userState.wordAt (userState.tr.base.toNat + 4 * rightsDpl target.ar + 2) = 0x0800#16 ∧
    userState.Named 0x10 stack ∧ stack.StackOf 0x10 (rightsDpl target.ar) ∧
    (∀ k : Fin 5, (stack.cached 0x10#16).inLimit (0x0800#16 - 2 - BitVec.ofNat 16 (2 * k)) 2 = true) :=
  ⟨userState.descAt 0x1008, userState.descAt 0x1010, .inl ⟨rfl, rfl, rfl, rfl, _, .inl rfl, rfl⟩, rfl, rfl, by decide,
    ⟨rfl, rfl, rfl⟩, by decide, rfl, ⟨by decide, rfl⟩, ⟨rfl, rfl, rfl, rfl⟩, rfl, by decide, by decide, by decide, rfl,
    rfl, ⟨by decide, rfl⟩, ⟨rfl, rfl, rfl, rfl, rfl, rfl⟩, by decide⟩

set_option maxRecDepth 8000 in
/-- An exception of a new task; and an error code without room on the stack of a new task at level 3, whose vector 8
goes to level 0. -/
theorem witness_DoubleFaultAndShutdown_task :
    (∃ e t, (patched protState [(0x3024, 0)]).deliver
      { vector := 0x22, code := none, ext := true, soft := false, nmi := false } 5 = .error (.excAt e t)) ∧
    (∃ e t u, (patched protState
          ([(0x2040, 0), (0x2041, 0), (0x2042, 8), (0x2043, 0), (0x2045, 0x86)] ++
            [(0x3002, 0), (0x3003, 8), (0x3004, 0x10), (0x3005, 0)] ++
            [(0x301B, 0), (0x3022, 0), (0x3024, 0x1B), (0x3026, 0x23), (0x3028, 0)])).deliver
        { vector := 0x22, code := some 7, ext := true, soft := false, nmi := false } 5 = .error (.doubleAt e t) ∧
      t.Quiet ∧ t.deliver { vector := 8, code := some 0, ext := true, soft := false, nmi := false } t.ip = .ok u) :=
  ⟨⟨_, _, rfl⟩, ⟨_, _, _, rfl, rfl, rfl⟩⟩

/-- An entry beyond a table that ends before entry 8, in both modes, and the failed delivery it makes. -/
theorem witness_DoubleFaultAndShutdown :
    (∃ (s : State) (e e' : Exc),
      s.deliver { vector := 13, code := some 0, ext := false, soft := false, nmi := false } 0 = .error (.exc e) ∧
      s.deliver { vector := 8, code := some 0, ext := false, soft := false, nmi := false } 0 = .error (.exc e') ∧
      s.prot = true ∧ s.Quiet ∧ s.idtr.limit.toNat < 8 * 13 + 7 ∧ s.idtr.limit.toNat < 8 * 8 + 7) ∧
    (∃ s : State, s.prot = false ∧ s.Quiet ∧ s.idtr.limit.toNat < 4 * (13#8).toNat + 3) ∧
    (∃ s : State, s.prot = false ∧ s.Quiet ∧ s.idtr.limit.toNat < 4 * (9#8).toNat + 3 ∧ 9#8 ≠ 8 ∧ 9#8 ≠ 13) :=
  ⟨⟨{ protState with idtr := { base := 0, limit := 0x46#16 } }, Exc.gp 0x6A, Exc.gp 0x42, rfl, rfl, rfl, rfl,
      by decide, by decide⟩,
    ⟨{ realState with idtr := { base := 0, limit := 0 } }, rfl, rfl, by decide⟩,
    ⟨{ realState with idtr := { base := 0, limit := 0x23#16 } }, rfl, rfl, by decide, by decide, by decide⟩⟩

set_option maxRecDepth 8000 in
/-- In real mode; in protected mode to the same level and to level 3. -/
theorem witness_InterruptReturn :
    (realState.prot = false ∧ realState.Quiet ∧ realState.readFault .ss realState.regs.sp 2 = none ∧
      realState.readFault .ss (realState.regs.sp + 2) 2 = none ∧
      realState.readFault .ss (realState.regs.sp + 4) 2 = none) ∧
    (∃ code : Desc, protState.prot = true ∧ protState.Quiet ∧ protState.flags.nt = false ∧
      protState.load .word protState.ss (protState.regs.sp + 2) = 8#16 ∧ protState.Named 8 code ∧ code.RunsAt 0 ∧
      protState.load .word protState.ss protState.regs.sp = 0x34#16 ∧ (0x34#16).toNat ≤ code.word0.toNat ∧
      protState.cpl = 0 ∧ protState.readFault .ss protState.regs.sp 6 = none ∧
      protState.readFault .ss (protState.regs.sp + 2) 2 = none) ∧
    (∃ code stack : Desc, (returning 0x1B).Quiet ∧
      (returning 0x1B).load .word (returning 0x1B).ss ((returning 0x1B).regs.sp + 2) = 0x1B#16 ∧
      (returning 0x1B).Named 0x1B code ∧ code.RunsAt 3 ∧ (0x34#16).toNat ≤ code.word0.toNat ∧
      (returning 0x1B).cpl < 3 ∧ (returning 0x1B).readFault .ss (returning 0x1B).regs.sp 10 = none ∧
      (returning 0x1B).readFault .ss ((returning 0x1B).regs.sp + 2) 2 = none ∧
      (returning 0x1B).load .word (returning 0x1B).ss ((returning 0x1B).regs.sp + 8) = 0x23#16 ∧
      (returning 0x1B).Named 0x23 stack ∧ stack.StackOf 0x23 3) :=
  ⟨⟨rfl, rfl, rfl, rfl, rfl⟩,
    ⟨protState.descAt 0x1008, rfl, rfl, rfl, rfl, ⟨by decide, rfl⟩, ⟨rfl, rfl, rfl, by decide⟩, rfl, by decide, rfl,
      rfl, rfl⟩,
    ⟨(returning 0x1B).descAt 0x1018, (returning 0x1B).descAt 0x1020, rfl, rfl, ⟨by decide, rfl⟩,
      ⟨rfl, rfl, rfl, by decide⟩, by decide, by decide, rfl, rfl, rfl, ⟨by decide, rfl⟩,
      ⟨rfl, rfl, rfl, rfl, rfl, rfl⟩⟩⟩

set_option maxRecDepth 8000 in
/-- The forms of a task switch: JMP to the TSS 28, CALL of the task gate 40, INT 22H, IRET with NT = 1 back to a busy
TSS. -/
theorem witness_TaskSwitchForms :
    protState.SwitchForm (.jmpFar 0 0x28) .jump 0x28 (protState.descAt 0x1028) ∧
    protState.SwitchForm (.callFar 0 0x40) .nest 0x28 (protState.descAt 0x1028) ∧
    protState.SwitchForm (.intImm 0x22) .nest 0x28 (protState.descAt 0x1028) ∧
    ({ protState with flags := { Flags.zero with nt := true } } : State).SwitchForm .iret .iret 0x28
      (protState.descAt 0x1028) :=
  ⟨.inl ⟨false, 0, .inl ⟨rfl, rfl⟩, rfl, by decide, by decide⟩,
    .inr (.inl ⟨true, 0, 0x40, protState.descAt 0x1040, .inr (.inl ⟨rfl, rfl⟩), rfl, ⟨by decide, rfl⟩,
      ⟨rfl, rfl, rfl⟩, by decide, by decide, rfl⟩),
    .inr (.inr (.inl ⟨0x22, .inl rfl, rfl, by decide, ⟨rfl, rfl, rfl⟩, by decide, rfl⟩)),
    .inr (.inr (.inr ⟨rfl, rfl, rfl, by decide, rfl⟩))⟩

set_option maxRecDepth 8000 in
theorem witness_TaskSwitchResult :
    protState.prot = true ∧ protState.Quiet ∧ protState.Named 0x28 (protState.descAt 0x1028) ∧
    (protState.descAt 0x1028).System 1 ∧ (0x28#16).getLsbD 2 = false ∧
    0x2B ≤ (protState.descAt 0x1028).word0.toNat ∧ 41 ≤ protState.tr.limit.toNat :=
  ⟨rfl, rfl, ⟨by decide, rfl⟩, ⟨rfl, rfl, rfl⟩, rfl, by decide, by decide⟩

/-- The incoming task's descriptors of that switch pass, and its IP is within its code segment. -/
theorem witness_TaskSwitchEnters :
    (match (protState.commitSwitch .jump 0x28 (protState.descAt 0x1028) protState.ip).enterTask false with
      | .ok t => decide (t.ip.toNat ≤ t.cs.limit.toNat)
      | .error _ => false) = true := by
  decide +kernel

set_option maxRecDepth 8000 in
/-- Each check of the old task: the TSS selector null, local, busy, not present, its limit short, the old TSS short; a
task gate and a TSS of DPL 0 from level 3, a task gate not present; the back link of a TSS too short. -/
theorem witness_TaskSwitchFaults :
    protState.TssFault 0 true (Exc.gp 1) ∧ protState.TssFault 0x2C false (Exc.gp 0x2C) ∧
    protState.TssFault 0x48 false (Exc.gp 0x48) ∧ protState.TssFault 0x78 false (Exc.np 0x78) ∧
    (patched protState [(0x1028, 0x2A)]).TssFault 0x28 false (Exc.ts 0x28) ∧
    ({ protState with tr := { protState.tr with limit := 40 } } : State).TssFault 0x28 false (Exc.ts 0x48) ∧
    (rightsDpl ((patched userState [(0x1045, 0x85)]).descAt 0x1040).ar < userState.cpl ∧
      rightsDpl ((patched userState [(0x102D, 0x81)]).descAt 0x1028).ar < userState.cpl ∧
      ((patched protState [(0x1045, 0x65)]).descAt 0x1040).ar.getLsbD 7 = false) ∧
    (protState.Named 0x48 (protState.descAt 0x1048) ∧ (protState.descAt 0x1048).System 3 ∧
      ((patched protState [(0x1048, 0x2A)]).descAt 0x1048).word0.toNat < 0x2B) :=
  ⟨.inl ⟨.inl (by decide), rfl⟩, .inl ⟨.inr (.inl rfl), rfl⟩,
    .inr ⟨_, ⟨by decide, rfl⟩, rfl, .inl ⟨fun h => absurd h.2 (by decide), rfl⟩⟩,
    .inr ⟨_, ⟨by decide, rfl⟩, rfl, .inr (.inl ⟨⟨rfl, rfl⟩, rfl, rfl⟩)⟩,
    .inr ⟨_, ⟨by decide, rfl⟩, rfl, .inr (.inr (.inl ⟨⟨rfl, rfl, rfl⟩, by decide, rfl⟩))⟩,
    .inr ⟨_, ⟨by decide, rfl⟩, rfl, .inr (.inr (.inr ⟨⟨rfl, rfl, rfl⟩, by decide, by decide, rfl⟩))⟩,
    ⟨by decide, by decide, rfl⟩, ⟨⟨by decide, rfl⟩, ⟨rfl, rfl, rfl⟩, by decide⟩⟩

/-- The state in which JMP 28 has loaded the new task's image. -/
def entering (cells : List Host.Cell) : State :=
  let s := patched protState cells
  s.commitSwitch .jump 0x28 (s.descAt 0x1028) s.ip

set_option maxRecDepth 8000 in
/-- A new task whose LDT selector names none, whose CS is null, whose CS is not present, whose SS is not present. -/
theorem witness_NewTaskFaults :
    (entering [(0x302A, 0x10)]).NewTaskFault false (Exc.ts 0x10) (entering [(0x302A, 0x10)]) ∧
    (entering [(0x3024, 0)]).NewTaskFault false (Exc.ts 0) (entering [(0x3024, 0)]) ∧
    (entering [(0x3024, 0x50)]).NewTaskFault false (Exc.np 0x50) (entering [(0x3024, 0x50)]) ∧
    (let c := entering [(0x3026, 0x58)]
     c.NewTaskFault false (Exc.ss 0x58) (c.loadSeg .cs (c.descAt 0x1008) 8)) :=
  ⟨.inl ⟨by decide, .inr ⟨_, ⟨by decide, rfl⟩, .inl ⟨fun h => absurd h.2.1 (by decide), rfl⟩⟩, rfl⟩,
    .inr ⟨_, .inl ⟨by decide, rfl⟩, .inl ⟨.inl ⟨.inl (by decide), rfl⟩, rfl⟩⟩,
    .inr ⟨_, .inl ⟨by decide, rfl⟩,
      .inl ⟨.inr ⟨_, ⟨by decide, rfl⟩, .inr ⟨⟨rfl, rfl, rfl⟩, rfl, rfl⟩⟩, rfl⟩⟩,
    .inr ⟨_, .inl ⟨by decide, rfl⟩, .inr ⟨_, ⟨_, ⟨by decide, rfl⟩, ⟨rfl, rfl, rfl⟩, rfl, rfl⟩,
      .inl ⟨.inr ⟨_, ⟨by decide, rfl⟩, .inr ⟨⟨rfl, rfl, rfl, rfl, rfl⟩, rfl, rfl⟩⟩, rfl⟩⟩⟩⟩

/-- The state in which a switch from `s` to TSS 28 has loaded the new task's descriptors, if they pass. -/
def entered (s : State) (kind : SwitchKind) (ret : Word) : Option State :=
  match (s.commitSwitch kind 0x28 (s.descAt 0x1028) ret).enterTask false with
  | .ok t => some t
  | .error _ => none

set_option maxRecDepth 8000 in
/-- An event with an error code through the task gate 22H: the new task's descriptors pass, its stack takes the code and
its IP lies within its code segment. -/
theorem witness_TaskSwitchEvent :
    protState.Entry (raise { vector := 0x22, code := some 7, ext := true, soft := false, nmi := false } 5 protState)
      0x22 (some 7) 5 false false ∧ protState.prot = true ∧ protState.Quiet ∧
    8 * (0x22#8).toNat + 7 ≤ protState.idtr.limit.toNat ∧ (protState.descAt 0x2110).System 5 ∧
    (protState.descAt 0x2110).word1 = 0x28#16 ∧ protState.Named 0x28 (protState.descAt 0x1028) ∧
    (protState.descAt 0x1028).System 1 ∧ 0x2B ≤ (protState.descAt 0x1028).word0.toNat ∧
    41 ≤ protState.tr.limit.toNat ∧
    ∃ t, (protState.commitSwitch .nest 0x28 (protState.descAt 0x1028) 5).enterTask false = .ok t ∧
      t.writeFault .ss (t.regs.sp - 2) 2 = none ∧ t.ip.toNat ≤ t.cs.limit.toNat :=
  ⟨.inr ⟨rfl, true, rfl⟩, rfl, rfl, by decide, ⟨rfl, rfl, rfl⟩, rfl, ⟨by decide, rfl⟩, ⟨rfl, rfl, rfl⟩, by decide,
    by decide, _, rfl, rfl, by decide +kernel⟩

/-- That switch with SP = 0 in the new task, so that the code finds no room; and with an IP one beyond the limit, for an
event and for JMP. -/
theorem witness_TaskSwitchEvent_faults :
    (entered (patched protState [(0x301A, 0), (0x301B, 0)]) .nest 5).map
      (fun t => (t.writeFault .ss (t.regs.sp - 2) 2).isSome) = some true ∧
    (entered (patched protState [(0x1008, 0xF), (0x1009, 0)]) .nest 5).map
      (fun t => decide (t.cs.limit.toNat < t.ip.toNat)) = some true ∧
    (entered (patched protState [(0x1008, 0xF), (0x1009, 0)]) .jump protState.ip).map
      (fun t => decide (t.cs.limit.toNat < t.ip.toNat)) = some true := by
  decide +kernel

/-- An event with an error code through a task gate: the old TSS holds the return address and its busy bit, the new one
the back link, the new stack the code (60 R563, 44 R440, R441). -/
theorem test_event_task_switch :
    shown (raise { vector := 0x22, code := some 7, ext := true, soft := false, nmi := false } 5 protState)
      (fun t => (t.wordAt 0x310E, t.byteAt 0x104D, t.wordAt 0x3000, t.byteAt 0x102D, t.load .word t.ss 0x07FE)) =
      some (5#16, 0x83#8, 0x48#16, 0xE3#8, 7#16) := by
  decide +kernel

/-- Behind an LMSW a byte's address is that of protected mode or, with REAL_A20_CARRY false, the one cut at FFFFFH (70
R610, 20 R85); without one it is that of protected mode. -/
theorem test_window_fetch_address :
    (let s : State := { protState with cs := Segment.ofReal 0xFFFF#16, ip := 0x0020 }
     s.fetchAddr 0 = 0x100010 ∧
      ({ s with fetch := { s.fetch with lmswAt := some 0x0020 } } : State).fetchAddr 0 =
        if Config.freeBit 0 && !Config.realA20Carry then 0x000010 else 0x100010) := by
  refine ⟨rfl, ?_⟩
  show (if (!(true && !(true && Config.freeBit 0))) && true && true && !Config.realA20Carry then _ else _) = _
  cases Config.freeBit 0 <;> cases Config.realA20Carry <;> rfl

theorem witness_FrameInstructionsResult :
    realState.Quiet ∧
    (∀ k : Fin 32, realState.writeFault .ss (realState.regs.sp - 2 - BitVec.ofNat 16 (2 * k)) 2 = none) ∧
    (∀ k : Fin 31, realState.readFault .ss (realState.regs.bp - BitVec.ofNat 16 (2 * k)) 2 = none) ∧
    realState.readFault .ss realState.regs.bp 2 = none ∧
    2 * 31 + 2 ≤ realState.regs.sp.toNat ∧ realState.regs.sp.toNat + 2 * 31 ≤ realState.regs.bp.toNat ∧
    (∃ s : State, s.prot = false ∧ s.regs.bp = 0xFFFF#16) :=
  ⟨rfl, by decide, by decide, rfl, by decide, by decide,
    { realState with regs := { realState.regs with bp := 0xFFFF#16 } }, rfl, rfl⟩

set_option maxRecDepth 8000 in
/-- BOUND with limits 8 and 1234H: both limits themselves are inside, one less and one more outside. -/
theorem witness_BoundLimits :
    protState.Quiet ∧
    protState.readFault (protState.eaSeg (.direct 0)) 0 2 = none ∧
    protState.readPart (protState.eaSeg (.direct 0)) 0 2 = none ∧
    protState.load .word (protState.seg (protState.eaSeg (.direct 0))) 0 = 8#16 ∧
    protState.load .word (protState.seg (protState.eaSeg (.direct 0))) 2 = 0x1234#16 ∧
    protState.reg16 .ax = 0x1234#16 :=
  ⟨rfl, rfl, rfl, rfl, rfl, rfl⟩

theorem witness_HaltWaitEscapeResult :
    (protState.prot = true → protState.cpl = 0) ∧
    (∃ s : State, s.msw.getLsbD 1 = true ∧ s.msw.getLsbD 3 = true) ∧
    (realState.msw.getLsbD 1 = false ∧ realState.pins.busy = false ∧ realState.pins.error = false) ∧
    (∃ s : State, s.npxPresent = true ∧ s.pins.busy = true) ∧
    (∃ s : State, s.npxPresent = true ∧ s.pins.busy = false ∧ s.pins.error = true) ∧
    (realState.msw.getLsbD 2 = false ∧ realState.msw.getLsbD 3 = false ∧ realState.npxPresent = true ∧
      realState.rmReadFault .word (.mem (.direct 0xFFFE#16)) = none ∧
      realState.rmWriteFault .word (.mem (.direct 0xFFFE#16)) = none) :=
  ⟨by decide, ⟨{ realState with msw := 0xFFFA#16 }, rfl, rfl⟩, ⟨rfl, rfl, rfl⟩,
    ⟨{ realState with pins := { Pins.idle with busy := true } }, rfl, rfl⟩,
    ⟨{ realState with pins := { Pins.idle with error := true } }, rfl, rfl, rfl⟩, ⟨rfl, rfl, rfl, rfl, rfl⟩⟩

theorem witness_StatusWordResult :
    (protState.prot = true → protState.cpl = 0) ∧ protState.rmReadFault .word (.reg .dx) = none := by
  decide

theorem witness_DescriptorTableRegisters :
    protState.Quiet ∧ (protState.prot = true → protState.cpl = 0) ∧
    protState.readFault (protState.eaSeg (.direct 0)) 0 2 = none ∧
    protState.readPart (protState.eaSeg (.direct 0)) 0 2 = none ∧
    protState.readPart (protState.eaSeg (.direct 0)) 0 4 = none ∧
    protState.writeFault (protState.eaSeg (.direct 0)) 0 2 = none ∧
    protState.writePart (protState.eaSeg (.direct 0)) 0 2 = none ∧
    protState.writePart (protState.eaSeg (.direct 0)) 0 4 = none ∧ protState.LowDecoded := by
  decide

set_option maxRecDepth 8000 in
/-- LDT 30 and TSS 28; null; the LDT bit; beyond the table; the kinds exchanged; the ones not present. -/
theorem witness_LdtrTrResult :
    protState.prot = true ∧ protState.cpl = 0 ∧ protState.Quiet ∧ protState.rmReadFault .word (.reg .cx) = none ∧
    (protState.Named 0x30 (protState.descAt 0x1030) ∧ (protState.descAt 0x1030).System 2) ∧
    (protState.Named 0x28 (protState.descAt 0x1028) ∧ (protState.descAt 0x1028).System 1) ∧
    (3#16).toNat < 4 ∧ (0x34#16).getLsbD 2 = true ∧ protState.fetchDesc 0x0100#16 = none ∧
    (protState.Named 0x70 (protState.descAt 0x1070) ∧ (protState.descAt 0x1070).ar = 0x02#8) ∧
    (protState.Named 0x78 (protState.descAt 0x1078) ∧ (protState.descAt 0x1078).ar = 0x01#8) :=
  ⟨rfl, rfl, rfl, rfl, ⟨⟨by decide, rfl⟩, rfl, rfl, rfl⟩, ⟨⟨by decide, rfl⟩, rfl, rfl, rfl⟩, by decide, rfl, rfl,
    ⟨⟨by decide, rfl⟩, rfl⟩, ⟨⟨by decide, rfl⟩, rfl⟩⟩

set_option maxRecDepth 8000 in
/-- A descriptor each test accepts (20 for LAR, LSL, VERR and VERW) and a selector outside the table; for ARPL an RPL
below and at the register's. -/
theorem witness_SelectorTestResult :
    protState.prot = true ∧ protState.Quiet ∧ protState.rmReadFault .word (.reg .bx) = none ∧
    (protState.Named 0x20 (protState.descAt 0x1020) ∧ (protState.descAt 0x1020).ar.getLsbD 4 = true ∧
      (protState.descAt 0x1020).ar.getLsbD 3 = false ∧ (protState.descAt 0x1020).ar.getLsbD 1 = true ∧
      protState.cpl ≤ rightsDpl (protState.descAt 0x1020).ar) ∧
    protState.fetchDesc 0x0100#16 = none ∧ protState.rmWriteFault .word (.reg .bx) = none ∧
    (0x0038#16).toNat % 4 < (protState.reg16 .cx).toNat % 4 ∧ (protState.reg16 .cx).toNat % 4 ≤ (0x0003#16).toNat % 4 :=
  ⟨rfl, rfl, rfl, ⟨⟨by decide, rfl⟩, rfl, rfl, rfl, by decide⟩, rfl, rfl, by decide, by decide⟩

theorem witness_PrivilegeTraps :
    userState.prot = true ∧ userState.cpl ≠ 0 ∧ userState.flags.iopl.toNat < userState.cpl ∧
    userState.inst.rep = none ∧ realState.prot = false := by
  decide

theorem witness_OperandFault : realState.OperandFault (.addRmImm (.mem (.direct 0xFFFF#16)) (.word 1)) (Exc.gp 0) :=
  .inl ⟨.add, .rmImm (.mem (.direct 0xFFFF#16)) (.word 1), rfl, rfl⟩

/-- The doubleword and the six bytes at FFFEH: one operand in protected mode, words of their own in real mode. -/
theorem witness_WideFault :
    (let s : State := { protState with ds := { protState.ds with limit := 0xFFFF } }
     s.WideFault (.lds .bx (.direct 0xFFFE)) (Exc.gp 0) ∧ s.WideFault (.sgdt (.direct 0xFFFC)) (Exc.gp 0) ∧
      s.WideFault (.lgdt (.direct 0xFFFC)) (Exc.gp 0) ∧ s.readPart .ds 0xFFFC 2 = none) ∧
    realState.readPart .ds 0xFFFE 2 = none ∧
    realState.WideFault (.jmpFarMem (.direct 0xFFFD)) (Exc.gp 0) := by
  refine ⟨⟨⟨.direct 0xFFFE, .inl ⟨.inl ⟨_, .inl rfl⟩, by decide⟩⟩,
    ⟨.direct 0xFFFC, .inr (.inr ⟨.inl rfl, by decide⟩)⟩,
    ⟨.direct 0xFFFC, .inr (.inl ⟨.inl rfl, fun _ => rfl, by decide⟩)⟩, by decide⟩, by decide,
    ⟨.direct 0xFFFD, .inl ⟨.inr (.inl rfl), by decide⟩⟩⟩

/-- A word operand at offset 0FFFFH, or beyond the limit of 0FFFH, of an instruction of each sort. -/
theorem witness_WordFault :
    realState.WordFault (.pushRm (.mem (.direct 0xFFFF))) (Exc.gp 0) ∧
    protState.WordFault (.lmsw (.mem (.direct 0x0FFF))) (Exc.gp 0) ∧
    protState.WordFault (.ltr (.mem (.direct 0x0FFF))) (Exc.gp 0) ∧
    protState.WordFault (.lsl .ax (.mem (.direct 0x0FFF))) (Exc.gp 0) ∧
    protState.WordFault (.arpl (.mem (.direct 0x0FFF)) .cx) (Exc.gp 0) ∧
    realState.WordFault (.esc 1 2 (.mem (.direct 0xFFFF))) (Exc.gp 0) :=
  ⟨.inl ⟨_, rfl, .inl (.inl rfl)⟩, .inl ⟨_, rfl, .inr (.inl ⟨rfl, fun _ => rfl⟩)⟩,
    .inl ⟨_, rfl, .inr (.inr (.inl ⟨.inr rfl, rfl, rfl⟩))⟩,
    .inl ⟨_, rfl, .inr (.inr (.inr ⟨.inr (.inr ⟨.ax, .inr rfl⟩), rfl⟩))⟩, .inr ⟨_, rfl, .inl ⟨.cx, rfl, rfl⟩⟩,
    .inr ⟨_, rfl, .inr ⟨1, 2, rfl, rfl, rfl, rfl, rfl⟩⟩⟩

/-- MOVS whose destination alone fails, and INS; in both a word half beyond the limit, outside a repetition and in its
last iteration. -/
theorem witness_StringFault :
    (let s : State := { realState with regs := { realState.regs with di := 0xFFFF } }
     s.StringFault (.movs .word) (Exc.gp 0) ∧ s.Quiet) ∧
    (let s : State := { protState with
        regs := { protState.regs with di := 0x0FFF, cx := 1 }, inst := { protState.inst with rep := some .repe } }
     s.StringFault (.ins .word) (Exc.gp 0)) :=
  ⟨⟨⟨fun h => absurd rfl h, .word, .inl ⟨rfl, rfl⟩⟩, rfl⟩,
    fun _ => by decide, .word, .inr (.inr (.inr (.inr (.inr (.inl ⟨rfl, fun _ => by decide, rfl⟩)))))⟩

/-- A word at 0FFFEH and 0FFFFH in real mode; in protected mode the last word within a limit of 0FFFH and the first
beyond it, an expand-down segment's first offset, code readable or not, and no segment at all. -/
theorem witness_OperandAccessFaults :
    realState.readFault .ds 0xFFFE#16 2 = none ∧ realState.readFault .ds 0xFFFF#16 2 = some (Exc.gp 0) ∧
    protState.readFault .ds 0x0FFE#16 2 = none ∧ protState.readFault .ds 0x0FFF#16 2 = some (Exc.gp 0) ∧
    protState.writeFault .ss 0x0FFF#16 2 = some (Exc.ss 0) ∧
    ({ protState with ds := { protState.ds with rights := 0x97 } } : State).readFault .ds 0x1000#16 2 = none ∧
    ({ protState with ds := { protState.ds with rights := 0x97 } } : State).readFault .ds 0x0FFF#16 1 =
      some (Exc.gp 0) ∧
    protState.readFault .cs 0 2 = none ∧ protState.writeFault .cs 0 2 = some (Exc.gp 0) ∧
    ({ protState with ds := { protState.ds with rights := 0x98 } } : State).readFault .ds 0 1 = some (Exc.gp 0) ∧
    ({ protState with ds := { protState.ds with valid := false } } : State).readFault .ds 0 1 = some (Exc.gp 0) := by
  decide

theorem witness_DecodeEncodeAgree :
    Instr.wf (.leave) = true ∧ decodeInstr [0xC9, 0x90] = .ok (.leave, [0x90]) :=
  ⟨rfl, rfl⟩

/-- The state after reset with some bytes at the place where it fetches first. -/
def fetching (bs : List Byte) : State := { State.reset with mem := bytesAt 0xFFFFF0 bs }

/-- Nothing but the fetch decides what a step does. -/
def Undisturbed (s : State) : Prop :=
  s.sample.pins.reset = none ∧ s.sample.onHold = false ∧ s.sample.run = .running ∧
    (∀ q, s.sample.request q = none) ∧ s.sample.inst.code = none ∧ s.sample.fetch = FetchState.empty

theorem fetching_undisturbed (bs : List Byte) : Undisturbed (fetching bs) :=
  ⟨rfl, rfl, rfl, fun q => by cases q <;> rfl, rfl, rfl⟩

/-- REP ES: MOVSB at the reset vector. -/
theorem witness_StepRunsDecodedInstruction :
    let s := fetching [0xF3, 0x26, 0xA4, 0, 0, 0, 0, 0, 0, 0]
    Undisturbed s ∧ s.sample.platform.repIgnored = true ∧ Instr.wf (.movs .byte) = true ∧
    (∀ p ∈ [Instr.rep, .seg .es], p.wf = true ∧ p.isPrefix = true) ∧ Instr.isPrefix (.movs .byte) = false ∧
    s.sample.fetchBytes (min s.sample.fetchable 10) =
      [Instr.rep, .seg .es].flatMap encode ++ encode (.movs .byte) ++ List.replicate 7 0 :=
  ⟨fetching_undisturbed _, rfl, rfl, by decide, rfl, rfl⟩

/-- REP MOVSB between two of its iterations. -/
def iterating : State :=
  { realState with
    ip := 0x0010, mem := bytesAt 0x1010 [0xF4] ++ bytesAt 0x3050 [0x5A]
    inst := { InstState.idle with code := some { prefixes := [.rep], instr := .movs .byte, length := 2 } } }

theorem witness_StepRunsDecodedInstruction_goesOn :
    iterating.sample.pins.reset = none ∧ iterating.sample.onHold = false ∧ iterating.sample.run = .running ∧
    (∀ q, iterating.sample.request q = none) ∧
    iterating.sample.inst.code = some { prefixes := [.rep], instr := .movs .byte, length := 2 } :=
  ⟨rfl, rfl, rfl, fun q => by cases q <;> rfl, rfl⟩

/-- Its next iteration moves one byte, although HLT stands at CS:IP by now, and leaves IP at the instruction (43 R380). -/
theorem test_next_iteration :
    shown (step iterating) (fun t => (t.load .byte t.es 0x0060, t.regs.cx, t.regs.si, t.ip, t.run)) =
      some (0x005A#16, 2#16, 0x0051#16, 0x0010#16, .running) := by
  decide +kernel

/-- Each clause: 0F 04; LEA of a register; 8F /1; LOCK at the last byte of the segment; ten prefixes; and an instruction
of three bytes after eight prefixes. -/
theorem witness_StepTakesDecodeFault :
    (let s := fetching [0x0F, 0x04, 0, 0, 0, 0, 0, 0, 0, 0]
     Undisturbed s ∧ s.sample.fetchBytes (min s.sample.fetchable 10) = [0x0F, 0x04] ++ List.replicate 8 0 ∧
      decodeInstr ([0x0F, 0x04] ++ List.replicate 8 0) = .error .undefinedOpcode) ∧
    decodeInstr [0x8D, 0xC0] = .error .memoryRequired ∧ decodeInstr [0x8F, 0xC8] = .error .undefinedPushPop ∧
    (let s := { fetching [] with ip := 0xFFFF, mem := [(0xFFFFFF, 0xF0)] }
     s.sample.fetchable ≤ 10 ∧ s.sample.fetchBytes (min s.sample.fetchable 10) = [Instr.lock].flatMap encode ++ [] ∧
      decodeInstr [] = .error .needMore) ∧
    (let s := fetching (List.replicate 10 0xF0)
     10 < s.sample.fetchable ∧
      s.sample.fetchBytes (min s.sample.fetchable 10) = (List.replicate 10 Instr.lock).flatMap encode ++ []) ∧
    (let s := fetching (List.replicate 8 0xF0 ++ [0xA1, 0x00])
     10 < s.sample.fetchable ∧ Instr.wf (.movAccMem .word 0x1200) = true ∧
      10 < ((List.replicate 8 Instr.lock).flatMap encode ++ encode (.movAccMem .word 0x1200)).length ∧
      s.sample.fetchBytes 10 =
        ((List.replicate 8 Instr.lock).flatMap encode ++ encode (.movAccMem .word 0x1200)).take 10) :=
  ⟨⟨fetching_undisturbed _, rfl, rfl⟩, rfl, rfl, ⟨by decide, rfl, rfl⟩, ⟨by decide, rfl⟩,
    ⟨by decide, rfl, by decide, rfl⟩⟩

/-- That step answers, from a state that has the invariant. -/
theorem witness_StepKeepsInvariant :
    (State.reset.withFetchWord 8 0xF4).Inv ∧ ∃ t, step (State.reset.withFetchWord 8 0xF4) = .next t :=
  ⟨⟨rfl, fun _ => ⟨rfl, rfl⟩, rfl, fun _ h => by cases h⟩, _, rfl⟩

/-- A state at level 3 that has the invariant, sees no RESET, and takes a step: INTR with IF = 1, the table empty. -/
theorem witness_SystemRegistersProtected : ∃ s t : State,
    s.Inv ∧ step s = .next t ∧ s.sample.pins.reset = none ∧ s.pe = true ∧ s.inst.realRules = false ∧
    s.fetch.lmswAt = none ∧ s.cpl ≠ 0 :=
  ⟨{ userState with
      mem := [], flags := { Flags.zero with ifl := true }, idtr := { base := 0, limit := 0 },
      env := [{ Pins.idle with intr := some 0x20 }] },
    _, ⟨rfl, fun h => (by cases h), rfl, fun _ h => by cases h⟩, rfl, rfl, rfl, rfl, rfl, by decide⟩

/-- Each event with nothing that holds it off: an exception of a new task, single step, NMI, overrun, INTR. -/
theorem witness_BoundaryInterrupts :
    (let s : State := { realState with pendingExc := some (Exc.ts 0) }
     s.sample.pins.reset = none ∧ s.sample.onHold = false ∧ s.sample.run ≠ .shutdown ∧
      s.sample.pendingExc = some (Exc.ts 0)) ∧
    (let s : State := { realState with stepTrap := true }
     s.sample.pendingExc = none ∧ s.sample.stepTrap = true ∧ s.sample.inhibit ≠ .all) ∧
    (let s : State := { realState with run := .halted, env := [{ Pins.idle with nmi := true }] }
     s.sample.stepTrap = false ∧ s.sample.nmiPending = true ∧ s.sample.nmiInService = false) ∧
    (let s : State := { realState with overrunPending := true }
     s.sample.nmiPending = false ∧ s.sample.overrunPending = true ∧ s.sample.nmiInService = false) ∧
    (let s : State := { realState with
        flags := { Flags.zero with ifl := true }, env := [{ Pins.idle with intr := some 8 }] }
     s.sample.nmiPending = false ∧ s.sample.overrunPending = false ∧ s.sample.pins.intr = some 8 ∧
      s.sample.flags.ifl = true ∧ s.sample.inhibit = .none) :=
  ⟨⟨rfl, rfl, by decide, rfl⟩, ⟨rfl, rfl, by decide⟩, ⟨rfl, rfl, rfl⟩, ⟨rfl, rfl, rfl⟩, ⟨rfl, rfl, rfl, rfl, rfl⟩⟩

/-- What holds an event off: after a load of SS, after STI, an NMI in service, IF = 0; and a halted state with nothing
pending. -/
theorem witness_BoundaryInterrupts_held :
    (let s : State := { realState with stepTrap := true, nmiPending := true, overrunPending := true, inhibit := .all }
     s.sample.run = .running ∧ s.sample.pendingExc = none ∧ s.sample.inhibit = .all ∧ s.sample.pins.intr = none) ∧
    (let s : State := { realState with
        flags := { Flags.zero with ifl := true }, inhibit := .intr, env := [{ Pins.idle with intr := some 8 }] }
     s.sample.run = .running ∧ s.sample.inhibit ≠ .none ∧ s.sample.nmiPending = false ∧
      s.sample.overrunPending = false ∧ s.sample.stepTrap = false) ∧
    (let s : State := { realState with nmiPending := true, nmiInService := true, overrunPending := true }
     s.sample.run = .running ∧ s.sample.nmiInService = true ∧ s.sample.stepTrap = false) ∧
    (let s : State := { realState with env := [{ Pins.idle with intr := some 8 }] }
     s.sample.flags.ifl = false ∧ s.sample.pins.intr = some 8) ∧
    (let s : State := { realState with run := .halted }
     s.sample.run = .halted ∧ s.sample.stepTrap = false ∧ s.sample.nmiPending = false ∧
      s.sample.overrunPending = false ∧ s.sample.pins.intr = none) :=
  ⟨⟨rfl, rfl, rfl, rfl⟩, ⟨rfl, by decide, rfl, rfl, rfl⟩, ⟨rfl, rfl, rfl⟩, ⟨rfl, rfl⟩, ⟨rfl, rfl, rfl, rfl, rfl⟩⟩

/-- Shutdown: no NMI; an NMI in protected mode; one in real mode, where free values decide whether it is taken. -/
theorem witness_BoundaryInterrupts_shutdown :
    (let s : State := { realState with run := .shutdown }
     s.sample.pins.reset = none ∧ s.sample.onHold = false ∧ s.sample.run = .shutdown ∧ s.sample.nmiPending = false) ∧
    (let s : State := { protState with run := .shutdown, env := [{ Pins.idle with nmi := true }] }
     s.sample.run = .shutdown ∧ s.sample.nmiPending = true ∧ s.sample.nmiInService = false ∧
      s.sample.prot = true) ∧
    (let s : State := { realState with run := .shutdown, env := [{ Pins.idle with nmi := true }] }
     s.sample.nmiPending = true ∧ s.sample.nmiInService = false ∧ s.sample.prot = false) :=
  ⟨⟨rfl, rfl, rfl, rfl⟩, ⟨rfl, rfl, rfl, rfl⟩, ⟨rfl, rfl, rfl⟩⟩

/-- RESET after no byte, and after one byte of a step that goes on. -/
theorem witness_ResetState :
    (∃ s : State, s.sample.pins.reset = some 0) ∧
    (let s := { fetching [0xF4] with env := [{ Pins.idle with reset := some 1 }] }
     s.sample.pins.reset = some 1 ∧ ∃ v, s.sample.proceed = .next v) :=
  ⟨⟨{ protState with env := [{ Pins.idle with reset := some 0 }] }, rfl⟩, rfl, _, rfl⟩

end Sys2Proof.Tests
end

section
/-! The decoder's equations for the forms the encoding family samples, whatever their operands are and whatever bytes
follow, and the samples themselves. -/

namespace Sys2Proof.Proofs.Encoding

open Sys2Proof

/-! ### The mod-reg-r/m byte, by its mod field (30 R184, R185) -/

/-- Mod 00 with r/m 110 is the direct address, and not `[BP]`. -/
theorem readModRm_direct {b : Byte} (lo hi : Byte) (rest : List Byte) (hmod : b.extractLsb' 6 2 = 0#2)
    (hrm : b.extractLsb' 0 3 = 6#3) :
    readModRm (b :: lo :: hi :: rest) = .ok ((b.extractLsb' 3 3, .mem (.direct (hi ++ lo))), rest) := by
  simp only [readModRm, hmod, hrm]
  rfl

/-- Mod 01 is a sum of registers with a byte displacement. -/
theorem readModRm_disp8 {b : Byte} (d : Byte) (rest : List Byte) (hmod : b.extractLsb' 6 2 = 1#2) :
    readModRm (b :: d :: rest) =
      .ok ((b.extractLsb' 3 3, .mem (.disp8 (Base.ofCode (b.extractLsb' 0 3)) d)), rest) := by
  simp only [readModRm, hmod]
  rfl

/-- Mod 11 is a register. -/
theorem readModRm_reg {b : Byte} (rest : List Byte) (hmod : b.extractLsb' 6 2 = 3#2) :
    readModRm (b :: rest) = .ok ((b.extractLsb' 3 3, .reg (Reg.ofCode (b.extractLsb' 0 3))), rest) := by
  simp only [readModRm, hmod]
  rfl

/-! ### Opcodes and groups, over any r/m operand (30 R191, R192, R201) -/

/-- Opcode 01: the register of the reg field is added to the word operand r/m. -/
theorem decodeInstr_addRmReg_toRm_word {bs rest : List Byte} {reg : BitVec 3} {rm : Rm}
    (h : readModRm bs = .ok ((reg, rm), rest)) :
    decodeInstr (0x01#8 :: bs) = .ok (.addRmReg .toRm .word rm (Reg.ofCode reg), rest) := by
  change readRmReg (.addRmReg .toRm .word) bs = _
  rw [readRmReg, h]
  rfl

/-- Opcode 83 /5: the byte after the operand is the immediate. -/
theorem decodeInstr_subRmImm8 {bs rest : List Byte} {rm : Rm} {v : Byte}
    (h : readModRm bs = .ok ((5, rm), v :: rest)) :
    decodeInstr (0x83#8 :: bs) = .ok (.subRmImm8 rm v, rest) := by
  change readGroup1s bs = _
  rw [readGroup1s, h]
  rfl

/-- Opcode D1 /7. -/
theorem decodeInstr_sarOne_word {bs rest : List Byte} {rm : Rm} (h : readModRm bs = .ok ((7, rm), rest)) :
    decodeInstr (0xD1#8 :: bs) = .ok (.sarOne .word rm, rest) := by
  change readShiftOne .word bs = _
  rw [readShiftOne, h]
  rfl

/-- Opcode 0F 01 /2, whose operand is memory (30 R196). -/
theorem decodeInstr_lgdt {bs rest : List Byte} {m : Mem} (h : readModRm bs = .ok ((2, .mem m), rest)) :
    decodeInstr (0x0F#8 :: 0x01#8 :: bs) = .ok (.lgdt m, rest) := by
  change readGroup0F01 bs = _
  rw [readGroup0F01, h]
  rfl

/-- Opcode EA: the offset word, then the selector word, each with its low byte first (30 R186; 20 R81). -/
theorem decodeInstr_jmpFar (offLo offHi selLo selHi : Byte) (rest : List Byte) :
    decodeInstr (0xEA#8 :: offLo :: offHi :: selLo :: selHi :: rest) =
      .ok (.jmpFar (offHi ++ offLo) (selHi ++ selLo), rest) :=
  rfl

/-- After 0F only the second bytes 00 to 03 and 06 are assigned (30 R195, R201; D36, log 23). -/
theorem decodeInstr_twoByte_undefined {b : Byte} (rest : List Byte) (h : b.toNat ∉ [0, 1, 2, 3, 6]) :
    decodeInstr (0x0F#8 :: b :: rest) = .error .undefinedOpcode := by
  change readTwoByte (b :: rest) = _
  simp only [List.mem_cons, List.not_mem_nil, or_false, not_or] at h
  obtain ⟨h0, h1, h2, h3, h6⟩ := h
  simp only [readTwoByte, readByte, bind, Except.bind]

/-! ### The samples -/

/-- Settles O53: each sample's ModRM byte is read by its mod field, and the form's equation gives the instruction; the
second opcode byte 04 is none of the assigned ones. -/
theorem sampleBytesDecode : Obligations.SampleBytesDecode := by
  unfold Obligations.SampleBytesDecode
  have modRm_D8 : readModRm [0xD8#8] = .ok ((3, .reg .ax), []) := readModRm_reg [] rfl
  have modRm_6F : readModRm [0x6F#8, 0xFE#8, 0x80#8] = .ok ((5, .mem (.disp8 .bx 0xFE#8)), [0x80#8]) :=
    readModRm_disp8 0xFE#8 [0x80#8] rfl
  have modRm_16 : readModRm [0x16#8, 0x34#8, 0x12#8] = .ok ((2, .mem (.direct 0x1234#16)), []) :=
    readModRm_direct 0x34#8 0x12#8 [] rfl rfl
  have modRm_F8 : readModRm [0xF8#8] = .ok ((7, .reg .ax), []) := readModRm_reg [] rfl
  exact ⟨decodeInstr_addRmReg_toRm_word modRm_D8, decodeInstr_subRmImm8 modRm_6F, decodeInstr_lgdt modRm_16,
    decodeInstr_jmpFar 0x05#8 0x00#8 0x08#8 0x00#8 [], decodeInstr_sarOne_word modRm_F8,
    decodeInstr_twoByte_undefined [] (by decide)⟩

end Sys2Proof.Proofs.Encoding
end

section
/-! The moves: each is one checked write of an r/m operand, behind one checked read where its source is in memory. -/

namespace Sys2Proof.Proofs.DataTransfer

open Sys2Proof Sys2Proof.Machine

/-! ### Reads and writes whose outcome ends the instruction -/

/-- An instruction that is one write of an r/m operand: the operand holds the value and nothing else changes, or the
failed std-write check is taken from the state before (40 R230). -/
theorem writeRm_result {i : Instr} {w : Width} {dest : Rm} {v : Word} {s : State}
    (hexec : exec i s = complete s (s.writeRm w dest v)) (hv : w.Holds v) :
    (s.rmWriteFault w dest = none →
      ∃ t, exec i s = .next t ∧ s.DataOnly t ∧ t.flags = s.flags ∧ s.Writes t w dest v) ∧
    ∀ e, s.rmWriteFault w dest = some e → exec i s = s.trap e.vector e.code := by
  refine ⟨fun hpass => ⟨s.setRm w dest v, ?_, ?_, s.setRm_flags w dest v, ?_⟩, fun e hfault => ?_⟩
  · rw [hexec, s.writeRm_ok w dest v hpass, complete_ok]
  · rw [State.dataOnly_iff]
    simp
  · have hwrites := s.setRm_writes w dest v
    rwa [w.trunc_of_holds v hv] at hwrites
  · rw [hexec, s.writeRm_fault w dest v e hfault, complete_exc, s.trap_of_rmWrite w dest e hfault]

/-- An instruction that reads memory first takes the exception of a std-read check that fails, whatever follows. -/
theorem complete_readMem_fault {s : State} {w : Width} {r : SReg} {off : Word} {e : Exc} (f : Word → Exe State)
    (h : s.readFault r off w.bytes = some e) : complete s (s.readMem w r off >>= f) = s.trap e.vector e.code := by
  rw [s.readMem_fault w r off e h, exe_bind_error, complete_exc, s.trap_of_access r _ off _ e h]

/-- A memory operand is read at its segment and offset. -/
theorem readRm_mem (s : State) (w : Width) (m : Mem) :
    s.readRm w (.mem m) = s.readMem w (s.eaSeg m) (s.ea m) := rfl

theorem protCheck_ok {s : State} (h : s.prot = true) : s.protCheck = .ok () := by
  rw [State.protCheck, h, ensure_true]

/-! ### What each move does -/

theorem exec_movRmReg_toRm (w : Width) (rm : Rm) (r : Reg) (s : State) :
    exec (.movRmReg .toRm w rm r) s = complete s (s.writeRm w rm (s.reg w r)) := rfl

theorem exec_movRmReg_toReg (w : Width) (rm : Rm) (r : Reg) (s : State) :
    exec (.movRmReg .toReg w rm r) s = complete s (s.readRm w rm >>= s.writeRm w (.reg r)) := rfl

theorem exec_movRmSreg (rm : Rm) (sr : SReg) (s : State) :
    exec (.movRmSreg rm sr) s = complete s (s.writeRm .word rm (s.seg sr).sel) := rfl

theorem exec_movAccMem (w : Width) (a : Word) (s : State) :
    exec (.movAccMem w a) s = complete s (s.readMem w (s.overridden .ds) a >>= s.writeRm w (.reg .ax)) := rfl

theorem exec_movMemAcc (w : Width) (a : Word) (s : State) :
    exec (.movMemAcc w a) s = complete s (s.writeRm w (.mem (.direct a)) (s.reg w .ax)) := rfl

theorem exec_movRegImm (r : Reg) (x : Imm) (s : State) :
    exec (.movRegImm r x) s = complete s (s.writeRm x.width (.reg r) x.value) := rfl

theorem exec_movRmImm (rm : Rm) (x : Imm) (s : State) :
    exec (.movRmImm rm x) s = complete s (s.writeRm x.width rm x.value) := rfl

theorem exec_lea (r : Reg) (m : Mem) (s : State) :
    exec (.lea r m) s = complete s (s.writeRm .word (.reg r) (s.ea m)) := rfl

theorem exec_xlat (s : State) :
    exec .xlat s = complete s
      (s.readMem .byte (s.overridden .ds) (s.regs.bx + zeroExtend s.al) >>= s.writeRm .byte (.reg .ax)) := rfl

theorem exec_smsw (rm : Rm) (s : State) : exec (.smsw rm) s = complete s (s.writeRm .word rm s.msw) := rfl

theorem exec_sldt {s : State} (hprot : s.prot = true) (rm : Rm) :
    exec (.sldt rm) s = complete s (s.writeRm .word rm s.ldtr.sel) := by
  change complete s (s.protCheck >>= fun _ => s.writeRm .word rm s.ldtr.sel) = _
  rw [protCheck_ok hprot, exe_bind_ok]

theorem exec_str {s : State} (hprot : s.prot = true) (rm : Rm) :
    exec (.str rm) s = complete s (s.writeRm .word rm s.tr.sel) := by
  change complete s (s.protCheck >>= fun _ => s.writeRm .word rm s.tr.sel) = _
  rw [protCheck_ok hprot, exe_bind_ok]

/-! ### The moves from memory or a register, once the source has been read -/

theorem exec_movRmReg_toReg_read {s : State} {w : Width} {rm : Rm} (h : s.rmReadFault w rm = none) (r : Reg) :
    exec (.movRmReg .toReg w rm r) s = complete s (s.writeRm w (.reg r) (s.rmValue w rm)) := by
  rw [exec_movRmReg_toReg, s.readRm_ok w rm h, exe_bind_ok]

/-- The accumulator form does what the r/m form does with the direct address and AL or AX (40 R232, R235). -/
theorem exec_movAccMem_read {s : State} {w : Width} {a : Word} (h : s.rmReadFault w (.mem (.direct a)) = none) :
    exec (.movAccMem w a) s = complete s (s.writeRm w (.reg .ax) (s.rmValue w (.mem (.direct a)))) :=
  exec_movRmReg_toReg_read h .ax

theorem exec_xlat_read {s : State}
    (h : s.readFault (s.overridden .ds) (s.regs.bx + zeroExtend s.al) 1 = none) :
    exec .xlat s = complete s (s.writeRm .byte (.reg .ax)
      (s.load .byte (s.seg (s.overridden .ds)) (s.regs.bx + zeroExtend s.al))) := by
  rw [exec_xlat, s.readMem_ok .byte _ _ h, exe_bind_ok]

/-! ### The statement -/

/-- Settles O13: a source in memory that cannot be read ends the instruction; every other form is one write of the
destination, of a value of the operand's width. -/
theorem moveResult : Obligations.MoveResult := by
  unfold Obligations.MoveResult
  constructor
  · rintro i r off w e s (⟨m, q, rfl, rfl, rfl⟩ | ⟨rfl, rfl⟩ | ⟨rfl, rfl, rfl, rfl⟩) hfault
    · rw [exec_movRmReg_toReg, readRm_mem, complete_readMem_fault _ hfault]
    · rw [exec_movAccMem, complete_readMem_fault _ hfault]
    · rw [exec_xlat, complete_readMem_fault _ hfault]
  · rintro i w dest v s (⟨rm, r, rfl, rfl, rfl⟩ | ⟨rm, r, rfl, hread, rfl, rfl⟩ | ⟨rm, sr, rfl, rfl, rfl, rfl⟩ |
      ⟨a, rfl, hread, rfl, rfl⟩ | ⟨a, rfl, rfl, rfl⟩ | ⟨r, x, rfl, rfl, rfl, rfl⟩ | ⟨rm, x, rfl, rfl, rfl, rfl⟩ |
      ⟨r, m, rfl, rfl, rfl, rfl⟩ | ⟨rfl, rfl, rfl, hread, rfl⟩ | ⟨rm, rfl, rfl, rfl, rfl⟩ |
      ⟨rm, rfl, hprot, rfl, rfl, rfl⟩ | ⟨rm, rfl, hprot, rfl, rfl, rfl⟩)
    · exact writeRm_result (exec_movRmReg_toRm w _ r s) (s.holds_reg w r)
    · exact writeRm_result (exec_movRmReg_toReg_read hread r) (s.holds_rmValue w rm)
    · exact writeRm_result (exec_movRmSreg _ sr s) (Width.holds_word _)
    · exact writeRm_result (exec_movAccMem_read hread) (s.holds_rmValue w _)
    · exact writeRm_result (exec_movMemAcc w a s) (s.holds_reg w .ax)
    · exact writeRm_result (exec_movRegImm r x s) x.holds_value
    · exact writeRm_result (exec_movRmImm _ x s) x.holds_value
    · exact writeRm_result (exec_lea r m s) (Width.holds_word _)
    · exact writeRm_result (exec_xlat_read hread) (s.holds_load .byte _ _)
    · exact writeRm_result (exec_smsw _ s) (Width.holds_word _)
    · exact writeRm_result (exec_sldt hprot _) (Width.holds_word _)
    · exact writeRm_result (exec_str hprot _) (Width.holds_word _)

end Sys2Proof.Proofs.DataTransfer
end

section
/-! NEG and NOT: each is one read-modify-write of an r/m operand, by a function of it and flags computed from it. -/

namespace Sys2Proof.Proofs.Arithmetic

open Sys2Proof Sys2Proof.Machine

/-! ### Read-modify-write instructions -/

/-- An operand that fails its std-write check ends the instruction before it has done anything (20 R101). -/
theorem modifyWith_fault {w : Width} {rm : Rm} {s : State} {e : Exc} (f : Word → Word) (g : Word → Flags)
    (h : s.rmWriteFault w rm = some e) : modifyWith w rm f g s = s.trap e.vector e.code := by
  rw [modifyWith, s.modifyRm_fault w rm e h, exe_bind_error, complete_exc, s.trap_of_rmWrite w rm e h]

/-- An operand that passes it is replaced by the function's value and the flags become those computed. -/
theorem modifyWith_result {w : Width} {rm : Rm} {s : State} (f : Word → Word) (g : Word → Flags)
    (hpass : s.rmWriteFault w rm = none) (hv : w.Holds (f (s.rmValue w rm))) :
    ∃ t, modifyWith w rm f g s = .next t ∧ (s.beforeWrite rm).DataOnly t ∧
      (s.beforeWrite rm).Writes t w rm (f (s.rmValue w rm)) ∧ t.flags = g (s.rmValue w rm) :=
  ⟨_, modifyWith_next w rm f g s hpass, s.modify_spec w rm _ _ hv⟩

theorem exec_negRm (w : Width) (rm : Rm) (s : State) :
    exec (.negRm w rm) s = modifyWith w rm (subResult w false 0) (s.flags.sub w false 0) s := rfl

theorem exec_notRm (w : Width) (rm : Rm) (s : State) :
    exec (.notRm w rm) s = modifyWith w rm (fun a => w.trunc (~~~a)) (fun _ => s.flags) s := rfl

/-! ### A subtraction from zero (41 R281, R294) -/

theorem holds_zero (w : Width) : w.Holds 0 := Nat.two_pow_pos w.bits

theorem subResult_zero_toNat (w : Width) (a : Word) (ha : w.Holds a) :
    (subResult w false 0 a).toNat = (2 ^ w.bits - a.toNat) % 2 ^ w.bits := by
  rw [subResult, toNat_ofNat_mod, show (0 : Word).toNat = 0 from rfl, Bool.toNat_false]
  cases w <;> simp only [Width.Holds, Width.bits] at * <;> omega

/-- The negation of an operand leaves the width's range for the most negative operand alone. -/
theorem fits_zero_sub (w : Width) (a : Word) (ha : w.Holds a) :
    w.fits (w.toInt 0 - w.toInt a) = !decide (a.toNat = 2 ^ (w.bits - 1)) := by
  have h0 : w.toInt 0 = 0 := by cases w <;> rfl
  rw [h0, Width.fits, w.toInt_eq a ha, ← Bool.decide_and, ← decide_not, decide_eq_decide]
  by_cases hneg : 2 ^ (w.bits - 1) ≤ a.toNat
  · rw [if_pos hneg]
    cases w <;> simp only [Width.Holds, Width.bits] at * <;> omega
  · rw [if_neg hneg]
    cases w <;> simp only [Width.bits] at * <;> omega

/-- SubFlags of zero and an operand, in plain arithmetic. -/
theorem flags_sub_zero (f : Flags) (w : Width) (a : Word) (ha : w.Holds a) :
    f.StatusOnly (f.sub w false 0 a) ∧ (f.sub w false 0 a).ShowResult w (subResult w false 0 a) ∧
    (f.sub w false 0 a).cf = decide (a.toNat ≠ 0) ∧ (f.sub w false 0 a).af = decide (a.toNat % 16 ≠ 0) ∧
    (f.sub w false 0 a).of = decide (a.toNat = 2 ^ (w.bits - 1)) := by
  obtain ⟨hstatus, hshow, hcf, haf, hof⟩ := f.sub_spec w false 0 a (holds_zero w) ha
  refine ⟨hstatus, hshow, ?_, ?_, ?_⟩
  · rw [hcf]
    simp [Nat.pos_iff_ne_zero]
  · rw [haf]
    simp [Nat.pos_iff_ne_zero]
  · rw [hof, Bool.toNat_false, Nat.cast_zero, sub_zero, fits_zero_sub w a ha, Bool.not_not]

/-! ### Bits of a width (42 R331) -/

theorem getLsbD_trunc (w : Width) (v : Word) (k : Nat) :
    (w.trunc v).getLsbD k = (decide (k < w.bits) && v.getLsbD k) := by
  cases w with
  | byte =>
    rw [trunc_byte, zeroExtend, BitVec.getLsbD_setWidth, BitVec.getLsbD_extractLsb', Nat.zero_add, ← Bool.and_assoc]
    congr 1
    rw [← Bool.decide_and, decide_eq_decide, Width.bits]
    omega
  | word =>
    change v.getLsbD k = (decide (k < 16) && v.getLsbD k)
    by_cases hk : k < 16
    · simp [hk]
    · simp [hk, BitVec.getLsbD_of_ge v k (Nat.le_of_not_lt hk)]

theorem getLsbD_trunc_not (w : Width) (a : Word) (k : Nat) :
    (w.trunc (~~~a)).getLsbD k = (decide (k < w.bits) && !a.getLsbD k) := by
  have hbits : k < w.bits → k < 16 := by cases w <;> simp only [Width.bits] <;> omega
  rw [getLsbD_trunc, BitVec.getLsbD_not]
  by_cases hk : k < w.bits
  · simp [hk, hbits hk]
  · simp [hk]

/-! ### The statement -/

/-- Settles O6: both are read-modify-writes; NEG's result and flags are those of a subtraction from zero, NOT's result
is the complement cut to the operand's width. -/
theorem negateAndInvert : Obligations.NegateAndInvert := by
  unfold Obligations.NegateAndInvert
  refine ⟨fun w rm e s hfault => ?_, fun w rm s hpass => ⟨?neg, ?not⟩⟩
  · rw [exec_negRm, exec_notRm]
    exact ⟨modifyWith_fault _ _ hfault, modifyWith_fault _ _ hfault⟩
  case neg =>
    rw [exec_negRm]
    obtain ⟨t, hnext, hframe, hwrites, hflags⟩ := modifyWith_result (subResult w false 0) (s.flags.sub w false 0) hpass
      (holds_ofNat_mod w _)
    refine ⟨t, _, hnext, hframe, hwrites, subResult_zero_toNat w _ (s.holds_rmValue w rm), ?_⟩
    rw [hflags]
    exact flags_sub_zero s.flags w _ (s.holds_rmValue w rm)
  case not =>
    rw [exec_notRm]
    obtain ⟨t, hnext, hframe, hwrites, hflags⟩ := modifyWith_result (fun a => w.trunc (~~~a)) (fun _ => s.flags) hpass
      (w.holds_trunc _)
    exact ⟨t, _, hnext, hframe, hwrites, hflags, getLsbD_trunc_not w _⟩

end Sys2Proof.Proofs.Arithmetic
end

section
/-! TEST: it reads its r/m operand and sets the flags of the AND, and stores nothing. -/

namespace Sys2Proof.Proofs.Logic

open Sys2Proof Sys2Proof.Machine

/-! ### LogicFlags (42 R330) -/

/-- The AND of two operands is an operand of the width the first one has. -/
theorem holds_and {w : Width} {a : Word} (ha : w.Holds a) (b : Word) : w.Holds (a &&& b) := by
  rw [Width.Holds, BitVec.toNat_and]
  exact Nat.lt_of_le_of_lt Nat.and_le_left ha

/-- Every flag LogicFlags determines, and that it writes no other than the status flags; AF is any value. -/
theorem flags_logic (f : Flags) {w : Width} {r : Word} (hr : w.Holds r) (af : Bool) :
    f.StatusOnly (f.logic w r af) ∧ (f.logic w r af).of = false ∧ (f.logic w r af).cf = false ∧
      (f.logic w r af).ShowResult w r :=
  ⟨rfl, rfl, rfl, Flags.setSZP_show _ w r hr⟩

theorem aluFlags_regsFlagsOnly (s : State) (op : AluOp) (w : Width) (a b : Word) :
    s.RegsFlagsOnly (s.aluFlags op w a b) := rfl

/-! ### An operand that is read and tested (42 R338) -/

/-- An operand that fails its std-read check ends the instruction before it has done anything (20 R101). -/
theorem testOperand_fault {w : Width} {rm : Rm} {s : State} {e : Exc} (h : s.rmReadFault w rm = some e) (b : Word) :
    testOperand w rm b s = s.trap e.vector e.code := by
  rw [testOperand, s.readRm_fault w rm e h, exe_bind_error, complete_exc, s.trap_of_rmRead w rm e h]

/-- An operand that passes it leaves the flags of the AND. -/
theorem testOperand_next {w : Width} {rm : Rm} {s : State} (h : s.rmReadFault w rm = none) (b : Word) :
    testOperand w rm b s = .next (s.aluFlags .and w (s.rmValue w rm) b) := by
  rw [testOperand, s.readRm_ok w rm h, exe_bind_ok, complete_ok]

theorem exec_testRmReg (w : Width) (rm : Rm) (r : Reg) (s : State) :
    exec (.testRmReg w rm r) s = testOperand w rm (s.reg w r) s := rfl

theorem exec_testAccImm (x : Imm) (s : State) :
    exec (.testAccImm x) s = testOperand x.width (.reg .ax) x.value s := rfl

theorem exec_testRmImm (rm : Rm) (x : Imm) (s : State) :
    exec (.testRmImm rm x) s = testOperand x.width rm x.value s := rfl

/-! ### The statement -/

/-- Settles O4: each form tests an r/m operand, the accumulator form AL or AX, which no check can fail; so it takes the
failed check's exception or leaves the flags of the AND. -/
theorem testSetsFlagsOnly : Obligations.TestSetsFlagsOnly := by
  unfold Obligations.TestSetsFlagsOnly
  constructor
  · rintro i w rm e s (⟨r, rfl⟩ | ⟨x, rfl, rfl⟩) hfault
    · rw [exec_testRmReg, testOperand_fault hfault]
    · rw [exec_testRmImm, testOperand_fault hfault]
  · intro i w a b s hform
    have ⟨hexec, ha⟩ : exec i s = .next (s.aluFlags .and w a b) ∧ w.Holds a := by
      rcases hform with ⟨rm, r, rfl, hread, rfl, rfl⟩ | ⟨x, rfl, rfl, rfl, rfl⟩ | ⟨rm, x, rfl, rfl, hread, rfl, rfl⟩
      · exact ⟨by rw [exec_testRmReg, testOperand_next hread], s.holds_rmValue w rm⟩
      · exact ⟨by rw [exec_testAccImm, testOperand_next rfl, State.rmValue], s.holds_reg _ .ax⟩
      · exact ⟨by rw [exec_testRmImm, testOperand_next hread], s.holds_rmValue _ rm⟩
    obtain ⟨hstatus, hof, hcf, hshow⟩ := flags_logic s.flags (holds_and ha b) (s.freeBit 0)
    exact ⟨_, a &&& b, hexec, aluFlags_regsFlagsOnly s .and w a b, s.aluFlags_regs .and w a b, hstatus,
      fun _ => BitVec.getLsbD_and, hof, hcf, hshow⟩

end Sys2Proof.Proofs.Logic
end

section
/-! The conditional jumps and JCXZ: each is the short jump behind one test, of the flags or of CX. -/

namespace Sys2Proof.Proofs.ControlTransfer

open Sys2Proof Sys2Proof.Machine

/-! ### A near transfer (44 R391, R392) -/

/-- A target within the code segment is where the transfer goes. -/
theorem complete_jumpNear_inCode {s : State} {target : Word} (h : s.InCode target) :
    complete s (s.jumpNear target) = .next (s.at target) := by
  rw [State.jumpNear, s.nearFault_none target h, check_none, exe_bind_ok, complete_ok]
  rfl

/-- A target beyond the limit is #GP(0), before anything has changed. -/
theorem complete_jumpNear_beyond {s : State} {target : Word} (h : ¬ s.InCode target) :
    complete s (s.jumpNear target) = s.trap 13 (some 0) := by
  rw [State.jumpNear, s.nearFault_some target h, check_some, exe_bind_error, complete_exc]
  rfl

/-! ### The conditions (44 R393, R394) -/

theorem belowEq_eq_true (f : Flags) : f.belowEq = true ↔ f.cf = true ∨ f.zf = true := by
  rw [Flags.belowEq, Bool.or_eq_true]

theorem belowEq_eq_false (f : Flags) : f.belowEq = false ↔ f.cf = false ∧ f.zf = false := by
  rw [Flags.belowEq, Bool.or_eq_false_iff]

theorem less_eq_true (f : Flags) : f.less = true ↔ f.sf ≠ f.of := by
  rw [Flags.less, bne_iff_ne]

theorem less_eq_false (f : Flags) : f.less = false ↔ f.sf = f.of := by
  rw [Flags.less, bne_eq_false_iff_eq]

theorem lessEq_eq_true (f : Flags) : f.lessEq = true ↔ f.zf = true ∨ f.sf ≠ f.of := by
  rw [Flags.lessEq, Bool.or_eq_true, less_eq_true]

theorem lessEq_eq_false (f : Flags) : f.lessEq = false ↔ f.zf = false ∧ f.sf = f.of := by
  rw [Flags.lessEq, Bool.or_eq_false_iff, less_eq_false]

/-- A test that is written negated. -/
theorem not_eq_true_iff {c : Bool} {p : Prop} (h : c = false ↔ p) : (!c) = true ↔ p := by
  rw [Bool.not_eq_true', h]

/-- What the machine tests for each jump is the condition of the table. -/
theorem exec_instr_eq_jumpIf (j : Jump) (cb : Byte) (s : State) :
    ∃ c : Bool, exec (j.instr cb) s = jumpIf c cb s ∧ (c = true ↔ j.taken s) := by
  cases j with
  | o | b | e | s | p => exact ⟨_, rfl, .rfl⟩
  | no | nb | ne | ns | np => exact ⟨_, rfl, not_eq_true_iff .rfl⟩
  | be => exact ⟨_, rfl, belowEq_eq_true s.flags⟩
  | nbe => exact ⟨_, rfl, not_eq_true_iff (belowEq_eq_false s.flags)⟩
  | l => exact ⟨_, rfl, less_eq_true s.flags⟩
  | nl => exact ⟨_, rfl, not_eq_true_iff (less_eq_false s.flags)⟩
  | le => exact ⟨_, rfl, lessEq_eq_true s.flags⟩
  | nle => exact ⟨_, rfl, not_eq_true_iff (lessEq_eq_false s.flags)⟩
  | cxz => exact ⟨_, rfl, beq_iff_eq⟩

/-! ### A conditional jump, by its condition -/

/-- With the condition met it is the near transfer to the relative target. -/
theorem exec_instr_of_taken {j : Jump} {s : State} (h : j.taken s) (cb : Byte) :
    exec (j.instr cb) s = complete s (s.jumpNear (BitVec.ofInt 16 (s.ip.toNat + cb.toInt))) := by
  obtain ⟨c, hexec, hc⟩ := exec_instr_eq_jumpIf j cb s
  rw [hexec, jumpIf, if_pos (hc.mpr h), relative_target]

/-- With the condition not met it does nothing. -/
theorem exec_instr_of_not_taken {j : Jump} {s : State} (h : ¬ j.taken s) (cb : Byte) :
    exec (j.instr cb) s = .next s := by
  obtain ⟨c, hexec, hc⟩ := exec_instr_eq_jumpIf j cb s
  rw [hexec, jumpIf, if_neg fun hmet => h (hc.mp hmet)]

/-! ### The statement -/

/-- Settles O28: the condition decides whether there is a near transfer, and the limit how the transfer ends. -/
theorem conditionalJumpResult : Obligations.ConditionalJumpResult := by
  unfold Obligations.ConditionalJumpResult
  refine fun j cb s => ⟨fun htaken hin => ?_, fun hnot => exec_instr_of_not_taken hnot cb, fun htaken hbeyond => ?_⟩
  · rw [exec_instr_of_taken htaken, complete_jumpNear_inCode hin]
  · rw [exec_instr_of_taken htaken, complete_jumpNear_beyond hbeyond]

end Sys2Proof.Proofs.ControlTransfer
end

section
/-! Decoding and encoding: each reader of the decoder answers exactly where the bytes begin with what the encoder
writes, so the encoder's bytes decode and decoded bytes are the encoder's. -/

namespace Sys2Proof.Proofs.Other

open Sys2Proof Sys2Proof.Machine

-- One proof after another: elaborated side by side, the proofs of the whole text need more memory than its check has.
set_option Elab.async false

/-! ### Fields (30 R184-R188) -/

theorem regOfCode_code (r : Reg) : Reg.ofCode r.code = r := by cases r <;> rfl

theorem code_regOfCode (c : BitVec 3) : (Reg.ofCode c).code = c := by
  revert c
  decide

theorem sregOfCode_code (r : SReg) : SReg.ofCode r.code = r := by cases r <;> rfl

theorem code_sregOfCode (c : BitVec 2) : (SReg.ofCode c).code = c := by
  revert c
  decide

theorem baseOfCode_code (b : Base) : Base.ofCode b.code = b := by cases b <;> rfl

theorem code_baseOfCode (c : BitVec 3) : (Base.ofCode c).code = c := by
  revert c
  decide

theorem baseOfCode_ne_bp {c : BitVec 3} (h : c ≠ 6) : Base.ofCode c ≠ .bp := by
  revert c
  decide

theorem base_wf_iff (b : Base) : (Mem.base b).wf = true ↔ b.code ≠ 6 := by cases b <;> decide

/-- The eight values of a three-bit field. -/
theorem field3_cases (n : BitVec 3) : n = 0 ∨ n = 1 ∨ n = 2 ∨ n = 3 ∨ n = 4 ∨ n = 5 ∨ n = 6 ∨ n = 7 := by
  revert n
  decide

/-- The four values of a two-bit field. -/
theorem field2_cases (n : BitVec 2) : n = 0#2 ∨ n = 1#2 ∨ n = 2#2 ∨ n = 3#2 := by
  revert n
  decide

/-- A segment register's two bits in a three-bit field whose upper bit is 0 (30 R188, R200). -/
theorem sregField {n : BitVec 3} (h : n.toNat < 4) : n = 0#1 ++ n.extractLsb' 0 2 := by
  revert n
  decide

/-- The second opcode bytes that are assigned (30 R201). -/
theorem twoByte_cases {b : Byte} (h : b.toNat ∈ [0, 1, 2, 3, 6]) : b = 0 ∨ b = 1 ∨ b = 2 ∨ b = 3 ∨ b = 6 := by
  revert b
  decide

/-- A mod-reg-r/m byte is its three fields (30 R184). -/
theorem modRm_byte (b : Byte) : b.extractLsb' 6 2 ++ b.extractLsb' 3 3 ++ b.extractLsb' 0 3 = b := by
  revert b
  decide

/-- The fields of a mod-reg-r/m byte put together. -/
theorem modRm_fields (md : BitVec 2) (n c : BitVec 3) : (md ++ n ++ c : Byte).extractLsb' 6 2 = md ∧
    (md ++ n ++ c : Byte).extractLsb' 3 3 = n ∧ (md ++ n ++ c : Byte).extractLsb' 0 3 = c := by
  revert md n c
  decide

/-! ### What each reader of a field answers -/

theorem except_bind_eq_ok {ε α β : Type} {m : Except ε α} {k : α → Except ε β} {y : β} :
    (m >>= k) = .ok y ↔ ∃ a, m = .ok a ∧ k a = .ok y := by
  cases m with
  | ok a => exact ⟨fun h => ⟨a, rfl, h⟩, fun ⟨_, ha, h⟩ => by cases ha; exact h⟩
  | error e => exact ⟨fun h => (by cases h), fun ⟨_, ha, _⟩ => (by cases ha)⟩

theorem readByte_eq_ok {bs rest : List Byte} {b : Byte} : readByte bs = .ok (b, rest) ↔ bs = b :: rest := by
  cases bs <;> simp [readByte]

theorem readWord_eq_ok {bs rest : List Byte} {v : Word} : readWord bs = .ok (v, rest) ↔ bs = wordBytes v ++ rest := by
  constructor
  · match bs with
    | [] | [_] => exact fun h => (by cases h)
    | lo :: hi :: bs =>
      intro h
      cases h
      rw [wordBytes, low_append, high_append]
      rfl
  · rintro rfl
    change Except.ok (v.extractLsb' 8 8 ++ v.extractLsb' 0 8, rest) = _
    rw [word_of_bytes]

theorem readImm_eq_ok {w : Width} {bs rest : List Byte} {x : Imm} :
    readImm w bs = .ok (x, rest) ↔ x.width = w ∧ bs = immBytes x ++ rest := by
  cases w with
  | byte =>
    rw [readImm, except_bind_eq_ok]
    constructor
    · rintro ⟨⟨v, bs'⟩, hread, h⟩
      cases h
      exact ⟨rfl, readByte_eq_ok.mp hread⟩
    · rintro ⟨hw, rfl⟩
      cases x with
      | byte v => exact ⟨(v, rest), rfl, rfl⟩
      | word v => cases hw
  | word =>
    rw [readImm, except_bind_eq_ok]
    constructor
    · rintro ⟨⟨v, bs'⟩, hread, h⟩
      cases h
      exact ⟨rfl, readWord_eq_ok.mp hread⟩
    · rintro ⟨hw, rfl⟩
      cases x with
      | byte v => cases hw
      | word v => exact ⟨(v, rest), readWord_eq_ok.mpr rfl, rfl⟩

/-- The encoder's mod-reg-r/m byte and displacement are read back (30 R184, R185). -/
theorem readModRm_rmBytes {rm : Rm} (hwf : rm.wf = true) (n : BitVec 3) (rest : List Byte) :
    readModRm (rmBytes n rm ++ rest) = .ok ((n, rm), rest) := by
  match rm with
  | .reg r =>
    obtain ⟨hmod, hn, hc⟩ := modRm_fields 3#2 n r.code
    change readModRm ((3#2 ++ n ++ r.code) :: rest) = _
    rw [Encoding.readModRm_reg rest hmod, hn, hc, regOfCode_code]
  | .mem (.direct d) =>
    obtain ⟨hmod, hn, hc⟩ := modRm_fields 0#2 n 6#3
    change readModRm ((0#2 ++ n ++ 6#3) :: d.extractLsb' 0 8 :: d.extractLsb' 8 8 :: rest) = _
    rw [Encoding.readModRm_direct _ _ _ hmod hc, hn, word_of_bytes]
  | .mem (.base b) =>
    obtain ⟨hmod, hn, hc⟩ := modRm_fields 0#2 n b.code
    change readModRm ((0#2 ++ n ++ b.code) :: rest) = _
    simp only [readModRm, hmod, hn, hc, if_neg ((base_wf_iff b).mp hwf), baseOfCode_code]
    rfl
  | .mem (.disp8 b d) =>
    obtain ⟨hmod, hn, hc⟩ := modRm_fields 1#2 n b.code
    change readModRm ((1#2 ++ n ++ b.code) :: d :: rest) = _
    rw [Encoding.readModRm_disp8 _ _ hmod, hn, hc, baseOfCode_code]
  | .mem (.disp16 b d) =>
    obtain ⟨hmod, hn, hc⟩ := modRm_fields 2#2 n b.code
    change readModRm ((2#2 ++ n ++ b.code) :: (wordBytes d ++ rest)) = _
    have hd : readWord (wordBytes d ++ rest) = .ok (d, rest) := readWord_eq_ok.mpr rfl
    simp only [readModRm, hmod, hn, hc, hd, baseOfCode_code]
    rfl

/-- The bytes a mod-reg-r/m operand is read from are the encoder's. -/
theorem readModRm_inv {bs rest : List Byte} {n : BitVec 3} {rm : Rm} (h : readModRm bs = .ok ((n, rm), rest)) :
    rm.wf = true ∧ bs = rmBytes n rm ++ rest := by
  match bs with
  | [] => cases h
  | b :: bs =>
    have hb := modRm_byte b
    simp only [readModRm] at h
    generalize b.extractLsb' 6 2 = md at h hb
    generalize b.extractLsb' 3 3 = reg at h hb
    generalize b.extractLsb' 0 3 = c at h hb
    subst hb
    rcases field2_cases md with rfl | rfl | rfl | rfl
    · by_cases hc : c = 6#3
      · subst hc
        obtain ⟨⟨d, bs'⟩, hread, h⟩ := except_bind_eq_ok.mp h
        cases h
        rw [readWord_eq_ok.mp hread]
        exact ⟨rfl, rfl⟩
      · have h : Except.ok (ε := DecodeError) ((reg, Rm.mem (.base (Base.ofCode c))), bs) =
            .ok ((n, rm), rest) := by
          rw [← h]
          exact (if_neg hc).symm
        cases h
        refine ⟨(base_wf_iff _).mpr (by rwa [code_baseOfCode]), ?_⟩
        rw [rmBytes, memBytes, code_baseOfCode]
        rfl
    · obtain ⟨⟨d, bs'⟩, hread, h⟩ := except_bind_eq_ok.mp h
      cases h
      refine ⟨rfl, ?_⟩
      rw [readByte_eq_ok.mp hread, rmBytes, memBytes, code_baseOfCode]
      rfl
    · obtain ⟨⟨d, bs'⟩, hread, h⟩ := except_bind_eq_ok.mp h
      cases h
      refine ⟨rfl, ?_⟩
      rw [readWord_eq_ok.mp hread, rmBytes, memBytes, code_baseOfCode]
      rfl
    · cases h
      refine ⟨rfl, ?_⟩
      rw [rmBytes, code_regOfCode]
      rfl

theorem readModMem_memBytes {m : Mem} (hwf : m.wf = true) (n : BitVec 3) (rest : List Byte) :
    readModMem (memBytes n m ++ rest) = .ok ((n, m), rest) := by
  have h : readModRm (memBytes n m ++ rest) = .ok ((n, .mem m), rest) := readModRm_rmBytes (rm := .mem m) hwf n rest
  rw [readModMem, h]
  rfl

theorem readModMem_inv {bs rest : List Byte} {n : BitVec 3} {m : Mem} (h : readModMem bs = .ok ((n, m), rest)) :
    m.wf = true ∧ bs = memBytes n m ++ rest := by
  obtain ⟨⟨⟨n', rm⟩, bs'⟩, hread, h⟩ := except_bind_eq_ok.mp h
  cases rm with
  | reg r => cases h
  | mem m' =>
    cases h
    exact readModRm_inv hread

/-! ### From bytes to the instruction -/

/-- An instruction with an r/m operand is well formed when the operand is. -/
theorem wf_of_rm {i : Instr} {rm : Rm} (h : i.rm? = some rm) (hwf : rm.wf = true) : i.wf = true := by
  cases i with
  | xchgAx r => cases h
  | _ => simp [Instr.wf, h, hwf]

theorem rm_wf_of_wf {i : Instr} {rm : Rm} (hwf : i.wf = true) (h : i.rm? = some rm) : rm.wf = true := by
  simp only [Instr.wf, h, Bool.and_eq_true] at hwf
  exact hwf.1

/-- Whatever a reader reads behind the bytes `pre` is, with them, a well-formed instruction's encoding. -/
def Inverts (pre : List Byte) (f : Reader Instr) : Prop :=
  ∀ bs i rest, f bs = .ok (i, rest) → i.wf = true ∧ pre ++ bs = encode i ++ rest

theorem inverts_undefined {pre : List Byte} : Inverts pre readUndefined := fun _ _ _ h => by cases h

theorem inverts_plain {pre : List Byte} {i : Instr} (hwf : i.wf = true) (h : encode i = pre) :
    Inverts pre (plain i) := fun bs j rest hread => by
  cases hread
  exact ⟨hwf, by rw [h]⟩

/-- An r/m operand is read; what it is part of follows. -/
theorem modRm_inv {bs : List Byte} {k : (BitVec 3 × Rm) × List Byte → Except DecodeError (Instr × List Byte)}
    {y : Instr × List Byte} (h : (readModRm bs >>= k) = .ok y) :
    ∃ n rm bs', rm.wf = true ∧ bs = rmBytes n rm ++ bs' ∧ k ((n, rm), bs') = .ok y := by
  obtain ⟨⟨⟨n, rm⟩, bs'⟩, hread, h⟩ := except_bind_eq_ok.mp h
  obtain ⟨hwf, hbs⟩ := readModRm_inv hread
  exact ⟨n, rm, bs', hwf, hbs, h⟩

theorem byte_inv {bs : List Byte} {k : Byte × List Byte → Except DecodeError (Instr × List Byte)}
    {y : Instr × List Byte} (h : (readByte bs >>= k) = .ok y) : ∃ v bs', bs = v :: bs' ∧ k (v, bs') = .ok y := by
  obtain ⟨⟨v, bs'⟩, hread, h⟩ := except_bind_eq_ok.mp h
  exact ⟨v, bs', readByte_eq_ok.mp hread, h⟩

theorem word_inv {bs : List Byte} {k : Word × List Byte → Except DecodeError (Instr × List Byte)}
    {y : Instr × List Byte} (h : (readWord bs >>= k) = .ok y) :
    ∃ v bs', bs = wordBytes v ++ bs' ∧ k (v, bs') = .ok y := by
  obtain ⟨⟨v, bs'⟩, hread, h⟩ := except_bind_eq_ok.mp h
  exact ⟨v, bs', readWord_eq_ok.mp hread, h⟩

theorem imm_inv {w : Width} {bs : List Byte} {k : Imm × List Byte → Except DecodeError (Instr × List Byte)}
    {y : Instr × List Byte} (h : (readImm w bs >>= k) = .ok y) :
    ∃ x bs', x.width = w ∧ bs = immBytes x ++ bs' ∧ k (x, bs') = .ok y := by
  obtain ⟨⟨x, bs'⟩, hread, h⟩ := except_bind_eq_ok.mp h
  obtain ⟨hw, hbs⟩ := readImm_eq_ok.mp hread
  exact ⟨x, bs', hw, hbs, h⟩

theorem inverts_rmReg {pre : List Byte} {f : Rm → Reg → Instr} (hrm : ∀ rm r, (f rm r).rm? = some rm)
    (h : ∀ rm r, encode (f rm r) = pre ++ rmBytes r.code rm) : Inverts pre (readRmReg f) := fun bs i rest hread => by
  obtain ⟨n, rm, bs', hwf, rfl, hk⟩ := modRm_inv hread
  cases hk
  exact ⟨wf_of_rm (hrm _ _) hwf, by rw [h, code_regOfCode, List.append_assoc]⟩

theorem inverts_memReg {pre : List Byte} {f : Reg → Mem → Instr} (hrm : ∀ r m, (f r m).rm? = some (.mem m))
    (h : ∀ r m, encode (f r m) = pre ++ memBytes r.code m) : Inverts pre (readMemReg f) := fun bs i rest hread => by
  obtain ⟨⟨⟨n, m⟩, bs'⟩, hmem, hk⟩ := except_bind_eq_ok.mp hread
  obtain ⟨hwf, rfl⟩ := readModMem_inv hmem
  cases hk
  exact ⟨wf_of_rm (hrm _ _) hwf, by rw [h, code_regOfCode, List.append_assoc]⟩

theorem inverts_immForm {pre : List Byte} {w : Width} {f : Imm → Instr} (hwf : ∀ x, (f x).wf = true)
    (h : ∀ x, x.width = w → encode (f x) = pre ++ immBytes x) : Inverts pre (readImmForm w f) :=
  fun bs i rest hread => by
  obtain ⟨x, bs', hw, rfl, hk⟩ := imm_inv hread
  cases hk
  exact ⟨hwf x, by rw [h x hw, List.append_assoc]⟩

theorem inverts_byteForm {pre : List Byte} {f : Byte → Instr} (hwf : ∀ v, (f v).wf = true)
    (h : ∀ v, encode (f v) = pre ++ [v]) : Inverts pre (readByteForm f) := fun bs i rest hread => by
  obtain ⟨v, bs', rfl, hk⟩ := byte_inv hread
  cases hk
  exact ⟨hwf v, by rw [h, List.append_assoc]; rfl⟩

theorem inverts_wordForm {pre : List Byte} {f : Word → Instr} (hwf : ∀ v, (f v).wf = true)
    (h : ∀ v, encode (f v) = pre ++ wordBytes v) : Inverts pre (readWordForm f) := fun bs i rest hread => by
  obtain ⟨v, bs', rfl, hk⟩ := word_inv hread
  cases hk
  exact ⟨hwf v, by rw [h, List.append_assoc]⟩

theorem inverts_farForm {pre : List Byte} {f : Word → Word → Instr} (hwf : ∀ u v, (f u v).wf = true)
    (h : ∀ u v, encode (f u v) = pre ++ (wordBytes u ++ wordBytes v)) : Inverts pre (readFarForm f) :=
  fun bs i rest hread => by
  obtain ⟨u, bs', rfl, hk⟩ := word_inv hread
  obtain ⟨v, bs'', rfl, hk'⟩ := word_inv hk
  cases hk'
  exact ⟨hwf u v, by rw [h, List.append_assoc, List.append_assoc]⟩

theorem inverts_ten {pre : List Byte} {i : Instr} (hwf : i.wf = true) (h : encode i = pre ++ [0x0A#8]) :
    Inverts pre (readTen i) := fun bs j rest hread => by
  obtain ⟨v, bs', rfl, hk⟩ := byte_inv hread
  by_cases hv : v = 0x0A#8
  · simp only [if_pos hv] at hk
    cases hk
    exact ⟨hwf, by rw [h, hv, List.append_assoc]; rfl⟩
  · simp only [if_neg hv] at hk
    cases hk

/-- A form whose bytes are an r/m operand behind `pre`. -/
theorem rmForm_inv {pre : List Byte} {i : Instr} {n : BitVec 3} {rm : Rm} (hwf : rm.wf = true) (rest : List Byte)
    (hrm : i.rm? = some rm) (h : encode i = pre ++ rmBytes n rm) :
    i.wf = true ∧ pre ++ (rmBytes n rm ++ rest) = encode i ++ rest :=
  ⟨wf_of_rm hrm hwf, by rw [h, List.append_assoc]⟩

/-- A form whose bytes are an r/m operand and an immediate behind `pre`. -/
theorem rmImmForm_inv {pre l : List Byte} {i : Instr} {n : BitVec 3} {rm : Rm} (hwf : rm.wf = true) (rest : List Byte)
    (hrm : i.rm? = some rm) (h : encode i = pre ++ (rmBytes n rm ++ l)) :
    i.wf = true ∧ pre ++ (rmBytes n rm ++ (l ++ rest)) = encode i ++ rest :=
  ⟨wf_of_rm hrm hwf, by rw [h, List.append_assoc, List.append_assoc]⟩

/-! ### The groups (30 R192) -/

theorem inverts_group1 (w : Width) : Inverts [0b1000000#7 ++ w.bit] (readGroup1 w) := fun bs i rest h => by
  obtain ⟨n, rm, bs', hwf, rfl, hk⟩ := modRm_inv h
  obtain ⟨x, bs'', rfl, rfl, hk'⟩ := imm_inv hk
  rcases field3_cases n with rfl | rfl | rfl | rfl | rfl | rfl | rfl | rfl <;> cases hk' <;>
    exact rmImmForm_inv hwf _ rfl rfl

theorem inverts_group1s : Inverts [0x83#8] readGroup1s := fun bs i rest h => by
  obtain ⟨n, rm, bs', hwf, rfl, hk⟩ := modRm_inv h
  obtain ⟨v, bs'', rfl, hk'⟩ := byte_inv hk
  rcases field3_cases n with rfl | rfl | rfl | rfl | rfl | rfl | rfl | rfl <;> cases hk' <;>
    exact rmImmForm_inv (l := [v]) hwf _ rfl rfl

theorem inverts_shiftOne (w : Width) : Inverts [0b1101000#7 ++ w.bit] (readShiftOne w) := fun bs i rest h => by
  obtain ⟨n, rm, bs', hwf, rfl, hk⟩ := modRm_inv h
  rcases field3_cases n with rfl | rfl | rfl | rfl | rfl | rfl | rfl | rfl <;> cases hk <;>
    exact rmForm_inv hwf _ rfl rfl

theorem inverts_shiftCl (w : Width) : Inverts [0b1101001#7 ++ w.bit] (readShiftCl w) := fun bs i rest h => by
  obtain ⟨n, rm, bs', hwf, rfl, hk⟩ := modRm_inv h
  rcases field3_cases n with rfl | rfl | rfl | rfl | rfl | rfl | rfl | rfl <;> cases hk <;>
    exact rmForm_inv hwf _ rfl rfl

theorem inverts_shiftImm (w : Width) : Inverts [0b1100000#7 ++ w.bit] (readShiftImm w) := fun bs i rest h => by
  obtain ⟨n, rm, bs', hwf, rfl, hk⟩ := modRm_inv h
  obtain ⟨v, bs'', rfl, hk'⟩ := byte_inv hk
  rcases field3_cases n with rfl | rfl | rfl | rfl | rfl | rfl | rfl | rfl <;> cases hk' <;>
    exact rmImmForm_inv (l := [v]) hwf _ rfl rfl

theorem inverts_group3 (w : Width) : Inverts [0b1111011#7 ++ w.bit] (readGroup3 w) := fun bs i rest h => by
  obtain ⟨n, rm, bs', hwf, rfl, hk⟩ := modRm_inv h
  rcases field3_cases n with rfl | rfl | rfl | rfl | rfl | rfl | rfl | rfl
  · obtain ⟨x, bs'', rfl, rfl, hk'⟩ := imm_inv hk
    cases hk'
    exact rmImmForm_inv hwf _ rfl rfl
  all_goals
    cases hk <;> exact rmForm_inv hwf _ rfl rfl

theorem inverts_group4 : Inverts [0xFE#8] readGroup4 := fun bs i rest h => by
  obtain ⟨n, rm, bs', hwf, rfl, hk⟩ := modRm_inv h
  rcases field3_cases n with rfl | rfl | rfl | rfl | rfl | rfl | rfl | rfl <;> cases hk <;>
    exact rmForm_inv hwf _ rfl rfl

theorem inverts_group5 : Inverts [0xFF#8] readGroup5 := fun bs i rest h => by
  obtain ⟨n, rm, bs', hwf, rfl, hk⟩ := modRm_inv h
  rcases field3_cases n with rfl | rfl | rfl | rfl | rfl | rfl | rfl | rfl <;> cases rm <;> cases hk <;>
    exact rmForm_inv hwf _ rfl rfl

theorem inverts_popRm : Inverts [0x8F#8] readPopRm := fun bs i rest h => by
  obtain ⟨n, rm, bs', hwf, rfl, hk⟩ := modRm_inv h
  by_cases hn : n = 0
  · simp only [if_pos hn] at hk
    cases hk
    subst hn
    exact rmForm_inv hwf _ rfl rfl
  · simp only [if_neg hn] at hk
    cases hk

theorem inverts_movImm (w : Width) : Inverts [0b1100011#7 ++ w.bit] (readMovImm w) := fun bs i rest h => by
  obtain ⟨n, rm, bs', hwf, rfl, hk⟩ := modRm_inv h
  obtain ⟨x, bs'', rfl, rfl, hk'⟩ := imm_inv hk
  by_cases hn : n = 0
  · simp only [if_pos hn] at hk'
    cases hk'
    subst hn
    exact rmImmForm_inv hwf _ rfl rfl
  · simp only [if_neg hn] at hk'
    cases hk'

theorem inverts_movFromSreg : Inverts [0x8C#8] readMovFromSreg := fun bs i rest h => by
  obtain ⟨n, rm, bs', hwf, rfl, hk⟩ := modRm_inv h
  by_cases hn : n.toNat < 4
  · simp only [if_pos hn] at hk
    cases hk
    exact rmForm_inv hwf _ rfl (by rw [encode, code_sregOfCode, ← sregField hn]; rfl)
  · simp only [if_neg hn] at hk
    cases hk

theorem inverts_movToSreg : Inverts [0x8E#8] readMovToSreg := fun bs i rest h => by
  obtain ⟨n, rm, bs', hwf, rfl, hk⟩ := modRm_inv h
  rcases field3_cases n with rfl | rfl | rfl | rfl | rfl | rfl | rfl | rfl <;> cases hk <;>
    exact rmForm_inv hwf _ rfl rfl

theorem inverts_esc (ttt : BitVec 3) : Inverts [0b11011#5 ++ ttt] (readEsc ttt) := fun bs i rest h => by
  obtain ⟨n, rm, bs', hwf, rfl, hk⟩ := modRm_inv h
  cases hk
  exact rmForm_inv hwf _ rfl rfl

theorem inverts_imul16 : Inverts [0x69#8] readImul16 := fun bs i rest h => by
  obtain ⟨n, rm, bs', hwf, rfl, hk⟩ := modRm_inv h
  obtain ⟨v, bs'', rfl, hk'⟩ := word_inv hk
  cases hk'
  exact rmImmForm_inv hwf _ rfl (by rw [encode, code_regOfCode]; rfl)

theorem inverts_imul8 : Inverts [0x6B#8] readImul8 := fun bs i rest h => by
  obtain ⟨n, rm, bs', hwf, rfl, hk⟩ := modRm_inv h
  obtain ⟨v, bs'', rfl, hk'⟩ := byte_inv hk
  cases hk'
  exact rmImmForm_inv (l := [v]) hwf _ rfl (by rw [encode, code_regOfCode]; rfl)

theorem inverts_enter : Inverts [0xC8#8] readEnter := fun bs i rest h => by
  obtain ⟨size, bs', rfl, hk⟩ := word_inv h
  obtain ⟨level, bs'', rfl, hk'⟩ := byte_inv hk
  cases hk'
  exact ⟨rfl, rfl⟩

/-- The groups behind 0F (30 R201). -/
theorem inverts_group0F00 : Inverts [0x0F#8, 0x00#8] readGroup0F00 := fun bs i rest h => by
  obtain ⟨n, rm, bs', hwf, rfl, hk⟩ := modRm_inv h
  rcases field3_cases n with rfl | rfl | rfl | rfl | rfl | rfl | rfl | rfl <;> cases hk <;>
    exact rmForm_inv hwf _ rfl rfl

theorem inverts_group0F01 : Inverts [0x0F#8, 0x01#8] readGroup0F01 := fun bs i rest h => by
  obtain ⟨n, rm, bs', hwf, rfl, hk⟩ := modRm_inv h
  rcases field3_cases n with rfl | rfl | rfl | rfl | rfl | rfl | rfl | rfl <;> cases rm <;> cases hk <;>
    exact rmForm_inv hwf _ rfl rfl

theorem inverts_twoByte : Inverts [0x0F#8] readTwoByte := fun bs i rest h => by
  obtain ⟨b, bs', rfl, hk⟩ := byte_inv h
  by_cases hb : b.toNat ∈ [0, 1, 2, 3, 6]
  · rcases twoByte_cases hb with rfl | rfl | rfl | rfl | rfl
    · exact inverts_group0F00 bs' i rest hk
    · exact inverts_group0F01 bs' i rest hk
    · exact inverts_rmReg (pre := [0x0F#8, 0x02#8]) (f := fun rm r => .lar r rm) (fun _ _ => rfl)
        (fun _ _ => rfl) bs' i rest hk
    · exact inverts_rmReg (pre := [0x0F#8, 0x03#8]) (f := fun rm r => .lsl r rm) (fun _ _ => rfl)
        (fun _ _ => rfl) bs' i rest hk
    · cases hk
      exact ⟨rfl, rfl⟩
  · change readTwoByte (b :: bs') = _ at hk
    rw [show readTwoByte (b :: bs') = .error .undefinedOpcode from
      Encoding.decodeInstr_twoByte_undefined bs' hb] at hk
    cases hk

/-! ### The opcode map's rows (30 R191) -/

theorem inverts_row0 : ∀ lo < 16, Inverts [BitVec.ofNat 8 (0x00 + lo)] (opcodeRow0 lo)
  | 0, _ | 1, _ | 2, _ | 3, _ | 8, _ | 9, _ | 10, _ | 11, _ => inverts_rmReg (fun _ _ => rfl) (fun _ _ => rfl)
  | 4, _ | 5, _ | 12, _ | 13, _ => inverts_immForm (fun _ => rfl) (fun _ hx => by rw [encode, Imm.bit, hx]; rfl)
  | 6, _ | 7, _ | 14, _ => inverts_plain rfl rfl
  | 15, _ => inverts_twoByte
  | _ + 16, h => absurd h (by omega)

theorem inverts_row1 : ∀ lo < 16, Inverts [BitVec.ofNat 8 (0x10 + lo)] (opcodeRow1 lo)
  | 0, _ | 1, _ | 2, _ | 3, _ | 8, _ | 9, _ | 10, _ | 11, _ => inverts_rmReg (fun _ _ => rfl) (fun _ _ => rfl)
  | 4, _ | 5, _ | 12, _ | 13, _ => inverts_immForm (fun _ => rfl) (fun _ hx => by rw [encode, Imm.bit, hx]; rfl)
  | 6, _ | 7, _ | 14, _ | 15, _ => inverts_plain rfl rfl
  | _ + 16, h => absurd h (by omega)

theorem inverts_row2 : ∀ lo < 16, Inverts [BitVec.ofNat 8 (0x20 + lo)] (opcodeRow2 lo)
  | 0, _ | 1, _ | 2, _ | 3, _ | 8, _ | 9, _ | 10, _ | 11, _ => inverts_rmReg (fun _ _ => rfl) (fun _ _ => rfl)
  | 4, _ | 5, _ | 12, _ | 13, _ => inverts_immForm (fun _ => rfl) (fun _ hx => by rw [encode, Imm.bit, hx]; rfl)
  | 6, _ | 7, _ | 14, _ | 15, _ => inverts_plain rfl rfl
  | _ + 16, h => absurd h (by omega)

theorem inverts_row3 : ∀ lo < 16, Inverts [BitVec.ofNat 8 (0x30 + lo)] (opcodeRow3 lo)
  | 0, _ | 1, _ | 2, _ | 3, _ | 8, _ | 9, _ | 10, _ | 11, _ => inverts_rmReg (fun _ _ => rfl) (fun _ _ => rfl)
  | 4, _ | 5, _ | 12, _ | 13, _ => inverts_immForm (fun _ => rfl) (fun _ hx => by rw [encode, Imm.bit, hx]; rfl)
  | 6, _ | 7, _ | 14, _ | 15, _ => inverts_plain rfl rfl
  | _ + 16, h => absurd h (by omega)

theorem inverts_row6 : ∀ lo < 16, Inverts [BitVec.ofNat 8 (0x60 + lo)] (opcodeRow6 lo)
  | 0, _ | 1, _ | 12, _ | 13, _ | 14, _ | 15, _ => inverts_plain rfl rfl
  | 2, _ => inverts_memReg (fun _ _ => rfl) (fun _ _ => rfl)
  | 3, _ => inverts_rmReg (fun _ _ => rfl) (fun _ _ => rfl)
  | 4, _ | 5, _ | 6, _ | 7, _ => inverts_undefined
  | 8, _ => inverts_wordForm (fun _ => rfl) (fun _ => rfl)
  | 9, _ => inverts_imul16
  | 10, _ => inverts_byteForm (fun _ => rfl) (fun _ => rfl)
  | 11, _ => inverts_imul8
  | _ + 16, h => absurd h (by omega)

theorem inverts_row7 : ∀ lo < 16, Inverts [BitVec.ofNat 8 (0x70 + lo)] (opcodeRow7 lo)
  | 0, _ | 1, _ | 2, _ | 3, _ | 4, _ | 5, _ | 6, _ | 7, _ | 8, _ | 9, _ | 10, _ | 11, _ | 12, _ | 13, _ | 14, _
  | 15, _ => inverts_byteForm (fun _ => rfl) (fun _ => rfl)
  | _ + 16, h => absurd h (by omega)

theorem inverts_row8 : ∀ lo < 16, Inverts [BitVec.ofNat 8 (0x80 + lo)] (opcodeRow8 lo)
  | 0, _ | 1, _ => inverts_group1 _
  | 2, _ => inverts_undefined
  | 3, _ => inverts_group1s
  | 4, _ | 5, _ | 6, _ | 7, _ | 8, _ | 9, _ | 10, _ | 11, _ => inverts_rmReg (fun _ _ => rfl) (fun _ _ => rfl)
  | 12, _ => inverts_movFromSreg
  | 13, _ => inverts_memReg (fun _ _ => rfl) (fun _ _ => rfl)
  | 14, _ => inverts_movToSreg
  | 15, _ => inverts_popRm
  | _ + 16, h => absurd h (by omega)

theorem inverts_row9 : ∀ lo < 16, Inverts [BitVec.ofNat 8 (0x90 + lo)] (opcodeRow9 lo)
  | 0, _ | 1, _ | 2, _ | 3, _ | 4, _ | 5, _ | 6, _ | 7, _ | 8, _ | 9, _ | 11, _ | 12, _ | 13, _ | 14, _ | 15, _ =>
    inverts_plain rfl rfl
  | 10, _ => inverts_farForm (fun _ _ => rfl) (fun _ _ => rfl)
  | _ + 16, h => absurd h (by omega)

theorem inverts_rowA : ∀ lo < 16, Inverts [BitVec.ofNat 8 (0xA0 + lo)] (opcodeRowA lo)
  | 0, _ | 1, _ | 2, _ | 3, _ => inverts_wordForm (fun _ => rfl) (fun _ => rfl)
  | 8, _ | 9, _ => inverts_immForm (fun _ => rfl) (fun _ hx => by rw [encode, Imm.bit, hx]; rfl)
  | 4, _ | 5, _ | 6, _ | 7, _ | 10, _ | 11, _ | 12, _ | 13, _ | 14, _ | 15, _ => inverts_plain rfl rfl
  | _ + 16, h => absurd h (by omega)

theorem inverts_rowC : ∀ lo < 16, Inverts [BitVec.ofNat 8 (0xC0 + lo)] (opcodeRowC lo)
  | 0, _ | 1, _ => inverts_shiftImm _
  | 2, _ | 10, _ => inverts_wordForm (fun _ => rfl) (fun _ => rfl)
  | 4, _ | 5, _ => inverts_memReg (fun _ _ => rfl) (fun _ _ => rfl)
  | 6, _ | 7, _ => inverts_movImm _
  | 8, _ => inverts_enter
  | 13, _ => inverts_byteForm (fun _ => rfl) (fun _ => rfl)
  | 3, _ | 9, _ | 11, _ | 12, _ | 14, _ | 15, _ => inverts_plain rfl rfl
  | _ + 16, h => absurd h (by omega)

theorem inverts_rowD : ∀ lo < 16, Inverts [BitVec.ofNat 8 (0xD0 + lo)] (opcodeRowD lo)
  | 0, _ | 1, _ => inverts_shiftOne _
  | 2, _ | 3, _ => inverts_shiftCl _
  | 4, _ | 5, _ => inverts_ten rfl rfl
  | 6, _ => inverts_undefined
  | 7, _ => inverts_plain rfl rfl
  | 8, _ | 9, _ | 10, _ | 11, _ | 12, _ | 13, _ | 14, _ | 15, _ => inverts_esc _
  | _ + 16, h => absurd h (by omega)

theorem inverts_rowE : ∀ lo < 16, Inverts [BitVec.ofNat 8 (0xE0 + lo)] (opcodeRowE lo)
  | 0, _ | 1, _ | 2, _ | 3, _ | 4, _ | 5, _ | 6, _ | 7, _ | 11, _ => inverts_byteForm (fun _ => rfl) (fun _ => rfl)
  | 8, _ | 9, _ => inverts_wordForm (fun _ => rfl) (fun _ => rfl)
  | 10, _ => inverts_farForm (fun _ _ => rfl) (fun _ _ => rfl)
  | 12, _ | 13, _ | 14, _ | 15, _ => inverts_plain rfl rfl
  | _ + 16, h => absurd h (by omega)

theorem inverts_rowF : ∀ lo < 16, Inverts [BitVec.ofNat 8 (0xF0 + lo)] (opcodeRowF lo)
  | 1, _ => inverts_undefined
  | 6, _ | 7, _ => inverts_group3 _
  | 14, _ => inverts_group4
  | 15, _ => inverts_group5
  | 0, _ | 2, _ | 3, _ | 4, _ | 5, _ | 8, _ | 9, _ | 10, _ | 11, _ | 12, _ | 13, _ => inverts_plain rfl rfl
  | _ + 16, h => absurd h (by omega)

theorem byte_of_digits {op : Byte} {hi : Nat} (h : op.toNat / 16 = hi) :
    BitVec.ofNat 8 (16 * hi + op.toNat % 16) = op := by
  subst h
  rw [Nat.div_add_mod, BitVec.ofNat_toNat, BitVec.setWidth_eq]

/-- Where the opcode holds a register, its upper five bits are the rest of it. -/
theorem byte_regField {op : Byte} {hi : BitVec 5} (h : op.toNat / 8 = hi.toNat) : hi ++ op.extractLsb' 0 3 = op := by
  have hhi : hi = op.extractLsb' 3 5 := by
    apply BitVec.eq_of_toNat_eq
    rw [← h, BitVec.extractLsb'_toNat, Nat.shiftRight_eq_div_pow]
    omega
  rw [hhi]
  clear h hhi
  revert op
  decide

theorem inverts_row (op : Byte) {row : Nat → Reader Instr} (hi : Nat) (h : op.toNat / 16 = hi)
    (hrow : ∀ lo < 16, Inverts [BitVec.ofNat 8 (16 * hi + lo)] (row lo)) : Inverts [op] (row (op.toNat % 16)) := by
  have h := hrow (op.toNat % 16) (Nat.mod_lt _ (by decide))
  rwa [byte_of_digits ‹_›] at h

/-- Rows 4 and 5: the register in the opcode (30 R187). -/
theorem inverts_regForm {op : Byte} (hi : BitVec 5) {f : Reg → Instr} (hop : op.toNat / 8 = hi.toNat)
    (hwf : ∀ r, (f r).wf = true) (h : ∀ r, encode (f r) = [hi ++ r.code]) :
    Inverts [op] (plain (f (Reg.ofCode (op.extractLsb' 0 3)))) :=
  inverts_plain (hwf _) (by rw [h, code_regOfCode, byte_regField hop])

/-- Row B: the width and the register in the opcode. -/
theorem inverts_movRegImm {op : Byte} (w : Width) (hop : op.toNat / 8 = (0b1011#4 ++ w.bit).toNat) :
    Inverts [op] (readImmForm w (.movRegImm (Reg.ofCode (op.extractLsb' 0 3)))) :=
  inverts_immForm (fun _ => rfl) fun x hx => by
    rw [encode, code_regOfCode, Imm.bit, hx, byte_regField hop]
    rfl

theorem inverts_opcodeMap (op : Byte) : Inverts [op] (opcodeMap op) := by
  have hlt := op.isLt
  have hdiv : op.toNat / 16 < 16 := by omega
  simp only [opcodeMap]
  generalize hhi : op.toNat / 16 = hi at hdiv
  interval_cases hi
  · exact inverts_row op 0 hhi inverts_row0
  · exact inverts_row op 1 hhi inverts_row1
  · exact inverts_row op 2 hhi inverts_row2
  · exact inverts_row op 3 hhi inverts_row3
  · by_cases hlo : op.toNat % 16 < 8
    · simpa [hlo, Width.ofBit] using inverts_regForm 0b01000#5 (by change _ = 8; omega) (fun _ => rfl) (fun _ => rfl)
    · simpa [hlo, Width.ofBit] using inverts_regForm 0b01001#5 (by change _ = 9; omega) (fun _ => rfl) (fun _ => rfl)
  · by_cases hlo : op.toNat % 16 < 8
    · simpa [hlo, Width.ofBit] using inverts_regForm 0b01010#5 (by change _ = 10; omega) (fun _ => rfl) (fun _ => rfl)
    · simpa [hlo, Width.ofBit] using inverts_regForm 0b01011#5 (by change _ = 11; omega) (fun _ => rfl) (fun _ => rfl)
  · exact inverts_row op 6 hhi inverts_row6
  · exact inverts_row op 7 hhi inverts_row7
  · exact inverts_row op 8 hhi inverts_row8
  · exact inverts_row op 9 hhi inverts_row9
  · exact inverts_row op 10 hhi inverts_rowA
  · by_cases hlo : 8 ≤ op.toNat % 16
    · simpa [hlo, Width.ofBit] using inverts_movRegImm .word (by change _ = 23; omega)
    · simpa [hlo, Width.ofBit] using inverts_movRegImm .byte (by change _ = 22; omega)
  · exact inverts_row op 12 hhi inverts_rowC
  · exact inverts_row op 13 hhi inverts_rowD
  · exact inverts_row op 14 hhi inverts_rowE
  · exact inverts_row op 15 hhi inverts_rowF

/-- Decoded bytes are the bytes of a well-formed instruction and what follows. -/
theorem decodeInstr_inv {bs rest : List Byte} {i : Instr} (h : decodeInstr bs = .ok (i, rest)) :
    i.wf = true ∧ bs = encode i ++ rest :=
  match bs with
  | [] => nomatch h
  | op :: bs => inverts_opcodeMap op bs i rest h

/-! ### From the instruction to its bytes and back -/

/-- What a step of a reader goes on with. -/
abbrev Rest (α : Type) := α × List Byte → Except DecodeError (Instr × List Byte)

theorem modRm_bind {rm : Rm} (hwf : rm.wf = true) {n : BitVec 3} {rest : List Byte} {k : Rest (BitVec 3 × Rm)}
    {y : Except DecodeError (Instr × List Byte)} (h : k ((n, rm), rest) = y) :
    (readModRm (rmBytes n rm ++ rest) >>= k) = y := by
  rw [readModRm_rmBytes hwf]
  exact h

theorem modRm_append_bind {rm : Rm} (hwf : rm.wf = true) {n : BitVec 3} {l rest : List Byte}
    {k : Rest (BitVec 3 × Rm)} {y : Except DecodeError (Instr × List Byte)} (h : k ((n, rm), l ++ rest) = y) :
    (readModRm (rmBytes n rm ++ l ++ rest) >>= k) = y := by
  rw [List.append_assoc]
  exact modRm_bind hwf h

theorem modMem_bind {m : Mem} (hwf : m.wf = true) {n : BitVec 3} {rest : List Byte} {k : Rest (BitVec 3 × Mem)}
    {y : Except DecodeError (Instr × List Byte)} (h : k ((n, m), rest) = y) :
    (readModMem (memBytes n m ++ rest) >>= k) = y := by
  rw [readModMem_memBytes hwf]
  exact h

theorem word_bind {v : Word} {rest : List Byte} {k : Rest Word} {y : Except DecodeError (Instr × List Byte)}
    (h : k (v, rest) = y) : (readWord (wordBytes v ++ rest) >>= k) = y := by
  rw [readWord_eq_ok.mpr rfl]
  exact h

theorem imm_bind {w : Width} {x : Imm} (hw : x.width = w) {rest : List Byte} {k : Rest Imm}
    {y : Except DecodeError (Instr × List Byte)}
    (h : k (x, rest) = y) : (readImm w (immBytes x ++ rest) >>= k) = y := by
  rw [readImm_eq_ok.mpr ⟨hw, rfl⟩]
  exact h

theorem readRmReg_rmBytes (f : Rm → Reg → Instr) {rm : Rm} (hwf : rm.wf = true) (r : Reg) (rest : List Byte) :
    readRmReg f (rmBytes r.code rm ++ rest) = .ok (f rm r, rest) :=
  modRm_bind hwf (by simp only [regOfCode_code])

theorem readMemReg_memBytes (f : Reg → Mem → Instr) {m : Mem} (hwf : m.wf = true) (r : Reg) (rest : List Byte) :
    readMemReg f (memBytes r.code m ++ rest) = .ok (f r m, rest) :=
  modMem_bind hwf (by simp only [regOfCode_code])

theorem readImmForm_immBytes (f : Imm → Instr) {w : Width} {x : Imm} (hw : x.width = w) (rest : List Byte) :
    readImmForm w f (immBytes x ++ rest) = .ok (f x, rest) :=
  imm_bind hw rfl

theorem decodeInstr_encode (i : Instr) (hwf : i.wf = true) (rest : List Byte) :
    decodeInstr (encode i ++ rest) = .ok (i, rest) := by
  cases i with
  | addRmReg d w rm r | orRmReg d w rm r | adcRmReg d w rm r | sbbRmReg d w rm r | andRmReg d w rm r
  | subRmReg d w rm r | xorRmReg d w rm r | cmpRmReg d w rm r | movRmReg d w rm r =>
    cases d <;> cases w <;> exact readRmReg_rmBytes _ (rm_wf_of_wf hwf rfl) r rest
  | testRmReg w rm r | xchgRmReg w rm r => cases w <;> exact readRmReg_rmBytes _ (rm_wf_of_wf hwf rfl) r rest
  | lar r rm => exact readRmReg_rmBytes (fun rm r => .lar r rm) (rm_wf_of_wf hwf rfl) r rest
  | lsl r rm => exact readRmReg_rmBytes (fun rm r => .lsl r rm) (rm_wf_of_wf hwf rfl) r rest
  | arpl rm r => exact readRmReg_rmBytes _ (rm_wf_of_wf hwf rfl) r rest
  | lea r m | lds r m | les r m | bound r m => exact readMemReg_memBytes _ (rm_wf_of_wf hwf rfl) r rest
  | addAccImm x | orAccImm x | adcAccImm x | sbbAccImm x | andAccImm x | subAccImm x | xorAccImm x | cmpAccImm x
  | testAccImm x =>
    cases x <;> rw [encode, Imm.bit, Imm.width] <;> exact readImmForm_immBytes _ (by rfl) rest
  | addRmImm rm x | orRmImm rm x | adcRmImm rm x | sbbRmImm rm x | andRmImm rm x | subRmImm rm x | xorRmImm rm x
  | cmpRmImm rm x | testRmImm rm x | movRmImm rm x =>
    cases x <;> rw [encode, Imm.bit, Imm.width] <;>
      exact modRm_append_bind (rm_wf_of_wf hwf rfl) (imm_bind (by rfl) rfl)
  | addRmImm8 rm v | adcRmImm8 rm v | sbbRmImm8 rm v | subRmImm8 rm v | cmpRmImm8 rm v =>
    exact modRm_append_bind (rm_wf_of_wf hwf rfl) rfl
  | incRm w rm | decRm w rm | negRm w rm | notRm w rm | mulRm w rm | imulRm w rm | divRm w rm | idivRm w rm
  | rolOne w rm | rorOne w rm | rclOne w rm | rcrOne w rm | shlOne w rm | shrOne w rm | sarOne w rm
  | rolCl w rm | rorCl w rm | rclCl w rm | rcrCl w rm | shlCl w rm | shrCl w rm | sarCl w rm =>
    cases w <;> exact modRm_bind (rm_wf_of_wf hwf rfl) rfl
  | rolImm w rm v | rorImm w rm v | rclImm w rm v | rcrImm w rm v | shlImm w rm v | shrImm w rm v | sarImm w rm v =>
    cases w <;> exact modRm_append_bind (rm_wf_of_wf hwf rfl) rfl
  | imulImm r rm v => exact modRm_append_bind (rm_wf_of_wf hwf rfl) (word_bind (by simp only [regOfCode_code]))
  | imulImm8 r rm v =>
    have hr := regOfCode_code r
    exact modRm_append_bind (l := [v]) (rm_wf_of_wf hwf rfl)
      (congrArg (fun r => Except.ok (Instr.imulImm8 r rm v, rest)) hr)
  | movEsRm rm | movSsRm rm | movDsRm rm | pushRm rm | popRm rm | jmpRm rm | callRm rm | lmsw rm | smsw rm | lldt rm
  | sldt rm | ltr rm | str rm | verr rm | verw rm => exact modRm_bind (rm_wf_of_wf hwf rfl) rfl
  | jmpFarMem m | callFarMem m | lgdt m | lidt m | sgdt m | sidt m =>
    exact modRm_bind (rm := .mem m) (rm_wf_of_wf hwf rfl) rfl
  | movRmSreg rm sr => cases sr <;> exact modRm_bind (rm_wf_of_wf hwf rfl) rfl
  | esc ttt lll rm =>
    rcases field3_cases ttt with rfl | rfl | rfl | rfl | rfl | rfl | rfl | rfl <;>
      exact modRm_bind (rm_wf_of_wf hwf rfl) rfl
  | movAccMem w a | movMemAcc w a => cases w <;> exact word_bind rfl
  | movRegImm r x => 
    cases r <;> cases x <;> rw [encode, Imm.bit, Imm.width] <;> exact readImmForm_immBytes _ (by rfl) rest
  | pushImm v | jmpNear v | callNear v | retNearImm v | retFarImm v => exact word_bind rfl
  | jmpFar off sel | callFar off sel =>
    exact word_bind (rest := wordBytes sel ++ rest) (word_bind rfl)
  | enter size level => exact word_bind (rest := level :: rest) rfl
  | incReg r | decReg r | pushReg r | popReg r => cases r <;> rfl
  | xchgAx r => cases r <;> first | rfl | exact absurd hwf (by decide)
  | pushSreg sr => cases sr <;> rfl
  | inImm w p | outImm w p => cases w <;> rfl
  | inDx w | outDx w | movs w | cmps w | stos w | lods w | scas w | ins w | outs w => cases w <;> rfl
  | seg sr => cases sr <;> rfl
  | pushImm8 v | intImm v | jo v | jno v | jb v | jnb v | je v | jne v | jbe v | jnbe v | js v | jns v | jp v | jnp v
  | jl v | jnl v | jle v | jnle v | jcxz v | loop v | loope v | loopne v | jmpShort v => rfl
  | _ => rfl

/-- Settles O52, by the two directions: a reader for each form, and each opcode's reader undone. -/
theorem decodeEncodeAgree : Obligations.DecodeEncodeAgree := by
  unfold Obligations.DecodeEncodeAgree
  exact fun i bs rest => ⟨fun hwf => decodeInstr_encode i hwf rest, decodeInstr_inv⟩

end Sys2Proof.Proofs.Other
end

section
/-! What the instructions keep of the system state: the table registers, MSW but for TS, the canonical form of memory,
IOPL and NT in real mode. LMSW, LGDT and LIDT alone write any of it. -/

namespace Sys2Proof.Proofs.Other

open Sys2Proof Sys2Proof.Machine

set_option Elab.async false

/-! ### Reads and writes of operands -/

/-- A computation that answers no state stops, if it does, in no state of its own. -/
theorem keeping_readRm (s t : State) (w : Width) (rm : Rm) : Keeping s (fun _ => True) (t.readRm w rm) :=
  (keeping_check s _).bind fun _ _ => trivial

theorem keeping_modifyRm (s t : State) (w : Width) (rm : Rm) : Keeping s (fun _ => True) (t.modifyRm w rm) :=
  (keeping_check s _).bind fun _ _ => trivial

theorem keeping_readMem (s t : State) (w : Width) (r : SReg) (off : Word) :
    Keeping s (fun _ => True) (t.readMem w r off) :=
  (keeping_check s _).bind fun _ _ => trivial

theorem keeping_writeRm {s t : State} (h : s.Keeps t) (w : Width) (rm : Rm) (v : Word) :
    Keeping s s.Keeps (t.writeRm w rm v) :=
  (keeping_check s _).bind fun _ _ => h.trans (t.keeps_setRm w rm v)

theorem keeping_writeMem {s t : State} (h : s.Keeps t) (w : Width) (r : SReg) (off v : Word) :
    Keeping s s.Keeps (t.writeMem w r off v) :=
  (keeping_check s _).bind fun _ _ => h.trans (t.keeps_store w _ off v)

theorem keeps_setReg16 (s : State) (r : Reg) (v : Word) : s.Keeps (s.setReg16 r v) := s.keeps_setReg .word r v

theorem keeps_tick (s : State) (n : Nat) : s.Keeps (s.tick n) := .of_fields rfl rfl rfl id rfl rfl rfl

theorem keeps_dropStack (s : State) (n : Word) : s.Keeps (s.dropStack n) := s.keeps_setSp _

theorem keeps_putStack (s : State) (off v : Word) : s.Keeps (s.putStack off v) := s.keeps_store .word s.ss off v

theorem keeps_goOn (s : State) (p : Progress) : s.Keeps (s.goOn p) := .of_fields rfl rfl rfl id rfl rfl rfl

theorem keeps_advance (s : State) (w : Width) (r : Reg) : s.Keeps (s.advance w r) := keeps_setReg16 s r _

/-- Flags of which IOPL and NT are as they were. -/
theorem keeps_setStatus (s : State) (f : Flags) (h : f.iopl = s.flags.iopl ∧ f.nt = s.flags.nt) :
    s.Keeps (s.setFlags f) := s.keeps_setFlags f fun _ => h

theorem keeps_aluFlags (s : State) (op : AluOp) (w : Width) (a b : Word) : s.Keeps (s.aluFlags op w a b) :=
  (keeps_setStatus s _ (by cases op <;> exact ⟨rfl, rfl⟩)).trans (keeps_tick _ _)

/-- What POPF and IRET load leaves IOPL and NT as they are in real mode (40 R276, 45 R459). -/
theorem keeps_popFlags (s : State) (v : Word) : s.Keeps (s.setFlags (s.flags.pop s.prot s.cpl v)) :=
  s.keeps_setFlags _ fun h => by
    have hprot : s.prot = false := by rw [State.prot, h, Bool.false_and]
    rw [hprot]
    exact ⟨rfl, rfl⟩

/-! ### The stack -/

theorem keeping_push {s t : State} (h : s.Keeps t) (v : Word) : Keeping s s.Keeps (t.push v) :=
  (keeping_check s _).bind fun _ _ => (h.trans (keeps_putStack t _ v)).trans (State.keeps_setSp _ _)

theorem keeping_pushOperand {s t : State} (h : s.Keeps t) (v : Word) : Keeping s s.Keeps (t.pushOperand v) := by
  unfold State.pushOperand
  split_ifs
  · exact (h.trans (keeps_tick t 1)).trans (State.keeps_setSp _ _)
  · exact (h.trans (keeps_tick t 1)).trans (State.keeps_setSp _ _)
  · exact keeping_push h v

theorem keeping_top (s : State) : Keeping s (fun _ => True) s.top :=
  (s.keeping_popCheck _).bind fun _ _ => trivial

/-! ### Loads of segment registers -/

theorem keeping_loadDataSeg {s t : State} (h : s.Keeps t) (r : SReg) (sel : Word) :
    Keeping s s.Keeps (t.loadDataSeg r sel) := by
  unfold State.loadDataSeg
  split_ifs
  · exact h.trans (t.keeps_setSeg r _)
  · exact (keeping_orExc s _ _ _).bind fun d _ => h.trans (t.keeps_loadSeg r d sel)

theorem keeping_loadSS {s t : State} (h : s.Keeps t) (sel : Word) : Keeping s s.Keeps (t.loadSS sel) := by
  unfold State.loadSS
  split_ifs
  · trivial
  · exact (keeping_orExc s _ _ _).bind fun d _ => h.trans (t.keeps_loadSeg .ss d sel)

theorem keeping_loadSReg {s t : State} (h : s.Keeps t) (r : SReg) (sel : Word) :
    Keeping s s.Keeps (t.loadSReg r sel) := by
  unfold State.loadSReg
  split_ifs
  · refine keeping_afterReads t h 1 fun u hu => ?_
    cases r with
    | ss => exact keeping_loadSS hu sel
    | es | cs | ds => exact keeping_loadDataSeg hu _ sel
  · exact h.trans (t.keeps_setSeg r _)

/-- A pointer in memory is read for what follows. -/
theorem keeping_readPair {s : State} {m : Mem} {f : Word → Word → State → Exe State}
    (h : ∀ a b t, s.Keeps t → Keeping s s.Keeps (f a b t)) : Keeping s s.Keeps (s.readPair m f) :=
  (keeping_check s _).bind fun _ _ => (keeping_check s _).bind fun _ _ =>
    keeping_afterReads s (.refl s) 2 (h _ _)

/-! ### Answers -/

/-- Every next state of an answer keeps the system state. -/
def Preserves (s : State) (a : Answer) : Prop := ∀ t, a = .next t → s.Keeps t

theorem preserves_next {s t : State} (h : s.Keeps t) : Preserves s (.next t) := fun u hu => by
  cases hu
  exact h

theorem preserves_complete {s : State} {m : Exe State} (h : Keeping s s.Keeps m) : Preserves s (complete s m) :=
  fun _ ht => complete_keeps h ht

/-! ### Arithmetic and logic -/

theorem keeps_aluWrite (s : State) (op : AluOp) (w : Width) (rm : Rm) (a b : Word) :
    s.Keeps (s.aluWrite op w rm a b) := by
  unfold State.aluWrite
  split_ifs
  · exact keeps_aluFlags s op w a b
  · exact (keeps_aluFlags s op w a b).trans (State.keeps_putBack _ w rm _)

theorem preserves_aluToRm (op : AluOp) (w : Width) (rm : Rm) (b : Word) (s : State) :
    Preserves s (aluToRm op w rm b s) := by
  refine preserves_complete (Keeping.bind (P := fun _ => True) ?_ fun a _ => keeps_aluWrite s op w rm a b)
  unfold State.aluRead
  split_ifs
  · exact keeping_readRm s s w rm
  · exact keeping_modifyRm s s w rm

theorem preserves_aluRmReg (op : AluOp) (d : Dir) (w : Width) (rm : Rm) (r : Reg) (s : State) :
    Preserves s (aluRmReg op d w rm r s) := by
  cases d with
  | toRm => exact preserves_aluToRm op w rm _ s
  | toReg => exact preserves_complete ((keeping_readRm s s w rm).bind fun b _ => keeps_aluWrite s op w _ _ b)

theorem preserves_aluAccImm (op : AluOp) (x : Imm) (s : State) : Preserves s (aluAccImm op x s) :=
  preserves_aluToRm op x.width (.reg .ax) x.value s

theorem preserves_aluRmImm (op : AluOp) (rm : Rm) (x : Imm) (s : State) : Preserves s (aluRmImm op rm x s) :=
  preserves_aluToRm op x.width rm x.value s

theorem preserves_aluRmImm8 (op : AluOp) (rm : Rm) (v : Byte) (s : State) : Preserves s (aluRmImm8 op rm v s) :=
  preserves_aluToRm op .word rm (signExtend v) s

theorem preserves_modifyWith (w : Width) (rm : Rm) (f : Word → Word) (g : Word → Flags) (s : State)
    (hg : ∀ a, (g a).iopl = s.flags.iopl ∧ (g a).nt = s.flags.nt) : Preserves s (modifyWith w rm f g s) :=
  preserves_complete ((keeping_modifyRm s s w rm).bind fun a _ =>
    (keeps_setStatus s _ (hg a)).trans (State.keeps_putBack _ w rm _))

theorem preserves_incOperand (w : Width) (rm : Rm) (s : State) : Preserves s (incOperand w rm s) :=
  preserves_modifyWith w rm _ _ s fun _ => ⟨rfl, rfl⟩

theorem preserves_decOperand (w : Width) (rm : Rm) (s : State) : Preserves s (decOperand w rm s) :=
  preserves_modifyWith w rm _ _ s fun _ => ⟨rfl, rfl⟩

theorem keeps_mulFlags (s : State) (b : Bool) : s.Keeps (s.mulFlags b) := .of_fields rfl rfl rfl id rfl rfl rfl

theorem keeps_divFlags (s : State) : s.Keeps s.divFlags := .of_fields rfl rfl rfl id rfl rfl rfl

theorem keeps_setPair (s : State) (dx ax : Word) : s.Keeps (s.setPair dx ax) :=
  (keeps_setReg16 s .dx dx).trans (keeps_setReg16 _ .ax ax)

theorem preserves_mulRm (w : Width) (rm : Rm) (s : State) : Preserves s (execMulRm w rm s) :=
  preserves_complete ((keeping_readRm s s w rm).bind fun v _ => by
    cases w with
    | byte => exact (keeps_mulFlags s _).trans (keeps_setReg16 _ .ax _)
    | word => exact (keeps_mulFlags s _).trans (keeps_setPair _ _ _))

theorem preserves_imulRm (w : Width) (rm : Rm) (s : State) : Preserves s (execImulRm w rm s) :=
  preserves_complete ((keeping_readRm s s w rm).bind fun v _ => by
    cases w with
    | byte => exact (keeps_mulFlags s _).trans (keeps_setReg16 _ .ax _)
    | word => exact (keeps_mulFlags s _).trans (keeps_setPair _ _ _))

theorem preserves_imulToReg (r : Reg) (rm : Rm) (v : Word) (s : State) : Preserves s (imulToReg r rm v s) :=
  preserves_complete ((keeping_readRm s s .word rm).bind fun _ _ =>
    (keeps_mulFlags s _).trans (keeps_setReg16 _ r _))

theorem preserves_divRm (w : Width) (rm : Rm) (s : State) : Preserves s (execDivRm w rm s) :=
  preserves_complete ((keeping_readRm s s w rm).bind fun v _ => (keeping_ensure s _ _).bind fun _ _ => by
    cases w with
    | byte => exact (keeping_ensure s _ _).bind fun _ _ => (keeps_divFlags s).trans (keeps_setReg16 _ .ax _)
    | word => exact (keeping_ensure s _ _).bind fun _ _ => (keeps_divFlags s).trans (keeps_setPair _ _ _))

theorem preserves_idivRm (w : Width) (rm : Rm) (s : State) : Preserves s (execIdivRm w rm s) :=
  preserves_complete ((keeping_readRm s s w rm).bind fun v _ => (keeping_ensure s _ _).bind fun _ _ => by
    cases w with
    | byte => exact (keeping_ensure s _ _).bind fun _ _ => (keeps_divFlags s).trans (keeps_setReg16 _ .ax _)
    | word => exact (keeping_ensure s _ _).bind fun _ _ => (keeps_divFlags s).trans (keeps_setPair _ _ _))

/-- The adjusts leave flags of which IOPL and NT are as before, and AX. -/
theorem keeps_adjusted (s : State) (f : Flags) (n : Nat) (v : Word) (h : f.iopl = s.flags.iopl ∧ f.nt = s.flags.nt) :
    s.Keeps (((s.setFlags f).tick n).setReg16 .ax v) :=
  ((keeps_setStatus s f h).trans (keeps_tick _ n)).trans (keeps_setReg16 _ .ax v)

theorem preserves_testOperand (w : Width) (rm : Rm) (b : Word) (s : State) : Preserves s (testOperand w rm b s) :=
  preserves_complete ((keeping_readRm s s w rm).bind fun a _ => keeps_aluFlags s .and w a b)

theorem flags_kept_shift (op : ShiftOp) (f : Flags) (w : Width) (y : Word) (cf of af : Bool) :
    (op.flags f w y cf of af).iopl = f.iopl ∧ (op.flags f w y cf of af).nt = f.nt := by
  cases op <;> exact ⟨rfl, rfl⟩

theorem keeps_shifted (s : State) (op : ShiftOp) (w : Width) (rm : Rm) (y : Word × Bool) (of : Bool) :
    s.Keeps (s.shifted op w rm y of) :=
  ((keeps_setStatus s _ (flags_kept_shift op _ w _ _ _ _)).trans (keeps_tick _ 2)).trans (State.keeps_putBack _ w rm _)

theorem preserves_shiftOne (op : ShiftOp) (w : Width) (rm : Rm) (s : State) : Preserves s (shiftOne op w rm s) :=
  preserves_complete ((keeping_modifyRm s s w rm).bind fun _ _ => keeps_shifted s op w rm _ _)

theorem preserves_shiftCount (op : ShiftOp) (w : Width) (rm : Rm) (n : Byte) (s : State) :
    Preserves s (shiftCount op w rm n s) :=
  preserves_complete ((keeping_modifyRm s s w rm).bind fun x _ => by
    dsimp only
    split_ifs
    · exact .refl s
    · exact keeps_shifted s op w rm _ _)

/-! ### Data transfer -/

theorem preserves_movRmReg (d : Dir) (w : Width) (rm : Rm) (r : Reg) (s : State) :
    Preserves s (execMovRmReg d w rm r s) := by
  cases d with
  | toRm => exact preserves_complete (keeping_writeRm (.refl s) w rm _)
  | toReg => exact preserves_complete ((keeping_readRm s s w rm).bind fun v _ => s.keeps_setReg w r v)

theorem keeping_movSReg (s : State) (r : SReg) (rm : Rm) : Keeping s s.Keeps (s.movSReg r rm) :=
  (keeping_readRm s s .word rm).bind fun v _ => keeping_loadSReg (.refl s) r v

theorem keeps_inhibitAll (s : State) : s.Keeps s.inhibitAll := .of_fields rfl rfl rfl id rfl rfl rfl

theorem keeping_popSReg (s : State) (r : SReg) : Keeping s s.Keeps (s.popSReg r) :=
  (keeping_top s).bind fun v _ => (keeping_loadSReg (.refl s) r v).bind fun t ht => ht.trans (keeps_dropStack t 2)

theorem keeping_pushWhile {s : State} (vs : List Word) : ∀ t, s.Keeps t → s.Keeps (t.pushWhile vs).2 := by
  induction vs with
  | nil => exact fun t h => h
  | cons v vs ih =>
    intro t h
    unfold State.pushWhile
    split
    · exact h
    · exact ih _ (((h.trans (keeps_putStack t _ v)).trans (State.keeps_setSp _ _)).trans (State.keeps_yieldBus _))

theorem preserves_pusha (s : State) : Preserves s (execPusha s) :=
  preserves_complete ((keeping_check s _).bind fun _ _ => (keeping_check s _).bind fun _ _ => by
    have hpush := keeping_pushWhile (s := s)
      [s.regs.ax, s.regs.cx, s.regs.dx, s.regs.bx, s.regs.sp, s.regs.bp, s.regs.si, s.regs.di] s (.refl s)
    split
    · rename_i t heq
      rwa [heq] at hpush
    · rename_i e t heq
      rw [heq] at hpush
      exact (State.Keeps.trans hpush (State.keeps_setSp t _)).trans (keeps_tick _ 2))

theorem keeps_loadRegs (s t : State) (g : Regs) (h : s.Keeps t) : s.Keeps { t with regs := g } :=
  h.trans (.of_fields rfl rfl rfl id rfl rfl rfl)

theorem preserves_popa (s : State) : Preserves s (execPopa s) :=
  preserves_complete ((keeping_check s _).bind fun _ _ => (keeping_check s _).bind fun _ _ => by
    dsimp only
    split_ifs
    · exact keeps_loadRegs s _ _ (s.keeps_yields 7)
    · exact .refl s
    · exact (keeps_loadRegs s _ _ (s.keeps_yields _)).trans (keeps_tick _ 10)
    · exact (keeps_loadRegs s _ _ (s.keeps_yields _)).trans (keeps_tick _ 10))

theorem keeping_popDestCheck (s : State) (rm : Rm) : Keeping s (fun _ => True) (s.popDestCheck rm) := by
  unfold State.popDestCheck
  split
  · trivial
  · split_ifs
    · trivial
    · exact (s.keeps_setSp _).trans (keeps_tick _ 1)
    · exact (s.keeps_setSp _).trans (keeps_tick _ 1)

theorem preserves_popRm (rm : Rm) (s : State) : Preserves s (execPopRm rm s) :=
  preserves_complete ((keeping_popDestCheck s rm).bind fun _ _ => (keeping_top s).bind fun v _ =>
    (keeps_dropStack s 2).trans (State.keeps_putBack _ .word rm v))

theorem preserves_xchgRmReg (w : Width) (rm : Rm) (r : Reg) (s : State) : Preserves s (execXchgRmReg w rm r s) :=
  preserves_complete ((keeping_modifyRm s s w rm).bind fun a _ =>
    (s.keeps_setRm w rm _).trans (State.keeps_setReg _ w r a))

theorem keeping_ioCheck (s t : State) : Keeping s (fun _ => True) t.ioCheck := keeping_ensure s _ _

theorem keeping_portIn {s t : State} (h : s.Keeps t) (w : Width) (port : Word) :
    Keeping s (fun x => s.Keeps x.2) (t.portIn w port) := by
  unfold State.portIn
  split_ifs
  · trivial
  · exact h.trans (keeps_tick t 1)

theorem keeping_portOut {s t : State} (h : s.Keeps t) (w : Width) (port v : Word) :
    Keeping s s.Keeps (t.portOut w port v) := by
  unfold State.portOut
  split_ifs
  · trivial
  · exact h.trans (.of_fields rfl rfl rfl id rfl rfl rfl)

theorem preserves_inPort (w : Width) (port : Word) (s : State) : Preserves s (inPort w port s) :=
  preserves_complete ((keeping_ioCheck s s).bind fun _ _ => (keeping_portIn (.refl s) w port).bind fun _ hx =>
    hx.trans (State.keeps_setReg _ w .ax _))

theorem preserves_outPort (w : Width) (port : Word) (s : State) : Preserves s (outPort w port s) :=
  preserves_complete ((keeping_ioCheck s s).bind fun _ _ => keeping_portOut (.refl s) w port _)

theorem preserves_loadPointer (sr : SReg) (r : Reg) (m : Mem) (s : State) :
    Preserves s (complete s (s.loadPointer sr r m)) :=
  preserves_complete (keeping_readPair fun off sel _ ht =>
    (keeping_loadSReg ht sr sel).bind fun u hu => hu.trans (keeps_setReg16 u r off))

/-! ### Strings -/

theorem preserves_stringPass (compares : Bool) (iteration : Exe State) (s : State)
    (h : Keeping s s.Keeps iteration) : Preserves s (stringPass compares iteration s) := by
  unfold stringPass
  split
  · exact preserves_complete h
  · split_ifs
    · exact preserves_next (.refl s)
    · refine preserves_complete (h.bind fun t ht => ?_)
      have hcx := ht.trans (keeps_setReg16 t .cx (t.regs.cx - 1))
      dsimp only
      split_ifs
      · exact hcx
      · exact hcx.trans (keeps_goOn _ _)

theorem preserves_movs (w : Width) (s : State) : Preserves s (execMovs w s) :=
  preserves_stringPass _ _ s ((keeping_readMem s s w _ _).bind fun v _ =>
    Keeping.bind (keeping_afterReads s (.refl s) 1 fun _ hu => keeping_writeMem hu w .es _ v) fun t ht =>
      (ht.trans (keeps_advance t w .si)).trans (keeps_advance _ w .di))

theorem flags_kept_sub (f : Flags) (w : Width) (c : Bool) (a b : Word) :
    (f.sub w c a b).iopl = f.iopl ∧ (f.sub w c a b).nt = f.nt := ⟨rfl, rfl⟩

theorem preserves_cmps (w : Width) (s : State) : Preserves s (execCmps w s) :=
  preserves_stringPass _ _ s ((keeping_readMem s s w _ _).bind fun a _ =>
    keeping_afterReads s (.refl s) 1 fun t ht => (keeping_readMem s t w _ _).bind fun b _ =>
      ((ht.trans (keeps_setStatus t _ (flags_kept_sub _ w _ a b))).trans (keeps_advance _ w .si)).trans
        (keeps_advance _ w .di))

theorem preserves_scas (w : Width) (s : State) : Preserves s (execScas w s) :=
  preserves_stringPass _ _ s ((keeping_readMem s s w _ _).bind fun b _ =>
    (keeps_setStatus s _ (flags_kept_sub _ w _ _ b)).trans (keeps_advance _ w .di))

theorem preserves_lods (w : Width) (s : State) : Preserves s (execLods w s) :=
  preserves_stringPass _ _ s ((keeping_readMem s s w _ _).bind fun v _ =>
    (s.keeps_setReg w .ax v).trans (keeps_advance _ w .si))

theorem preserves_stos (w : Width) (s : State) : Preserves s (execStos w s) :=
  preserves_stringPass _ _ s ((keeping_writeMem (.refl s) w .es _ _).bind fun t ht =>
    ht.trans (keeps_advance t w .di))

theorem preserves_ins (w : Width) (s : State) : Preserves s (execIns w s) :=
  preserves_stringPass _ _ s ((keeping_ioCheck s s).bind fun _ _ => (keeping_check s _).bind fun _ _ =>
    (keeping_portIn (.refl s) w _).bind fun _ hx =>
      (hx.trans (State.keeps_store _ w _ _ _)).trans (keeps_advance _ w .di))

theorem preserves_outs (w : Width) (s : State) : Preserves s (execOuts w s) :=
  preserves_stringPass _ _ s ((keeping_ioCheck s s).bind fun _ _ => (keeping_readMem s s w _ _).bind fun v _ =>
    (keeping_portOut (.refl s) w _ v).bind fun t ht => ht.trans (keeps_advance t w .si))

/-! ### Control transfer -/

theorem keeping_jumpNear (s t : State) (h : s.Keeps t) (target : Word) : Keeping s s.Keeps (t.jumpNear target) :=
  (keeping_check s _).bind fun _ _ => h.trans (t.keeps_jumpTo target)

theorem preserves_jumpIf (c : Bool) (cb : Byte) (s : State) : Preserves s (jumpIf c cb s) := by
  unfold jumpIf
  split_ifs
  · exact preserves_complete (keeping_jumpNear s s (.refl s) _)
  · exact preserves_next (.refl s)

theorem preserves_loopIf (c : Bool) (cb : Byte) (s : State) : Preserves s (loopIf c cb s) := by
  have hcx := keeps_setReg16 s .cx (s.regs.cx - 1)
  unfold loopIf
  dsimp only
  split_ifs
  · exact preserves_complete ((keeping_check s _).bind fun _ _ => hcx.trans (State.keeps_jumpTo _ _))
  · exact preserves_next hcx

theorem keeping_callNearTo {s t : State} (h : s.Keeps t) (target : Word) : Keeping s s.Keeps (t.callNearTo target) :=
  (keeping_check s _).bind fun _ _ => (keeping_push h t.ip).bind fun u hu => hu.trans (u.keeps_jumpTo target)

theorem preserves_callRm (rm : Rm) (s : State) : Preserves s (execCallRm rm s) :=
  preserves_complete ((keeping_readRm s s .word rm).bind fun t _ =>
    keeping_afterReads s (.refl s) 1 fun _ hu => keeping_callNearTo hu t)

theorem keeping_retNearBy (s : State) (n : Word) : Keeping s s.Keeps (s.retNearBy n) :=
  (keeping_top s).bind fun t _ => (keeping_check s _).bind fun _ _ =>
    (keeps_dropStack s _).trans (State.keeps_jumpTo _ t)

/-- A task switch by an instruction, in protected mode. -/
theorem keeping_switchTo {s t : State} (h : s.Keeps t) (hpe : s.pe = true) (kind : SwitchKind) (sel : Word) (d : Desc) :
    Keeping s s.Keeps (t.switchTasks kind sel d t.ip false >>= fun u => u.taskIpCheck false) :=
  (Keeping.after h ((t.keeping_switchTasks kind sel d t.ip false ((pe_of_msw h.msw).trans hpe)).mono
    fun _ hu => h.trans hu)).bind fun _ hu => State.keeping_taskIpCheck hu false

theorem keeping_gateUsable (s t : State) (g : Desc) (sel : Word) : Keeping s (fun _ => True) (t.gateUsable g sel) :=
  (keeping_ensure s _ _).bind fun _ _ => keeping_ensure s _ _

theorem keeping_gateCode (s t : State) (g : Desc) (test : Desc → Bool) :
    Keeping s (fun _ => True) (t.gateCode g test) :=
  (keeping_ensure s _ _).bind fun _ _ => keeping_orExc s _ _ _

theorem keeping_viaTaskGate {s t : State} (h : s.Keeps t) (hpe : s.pe = true) (g : Desc) (sel : Word)
    (kind : SwitchKind) : Keeping s s.Keeps (t.viaTaskGate g sel kind) :=
  (keeping_gateUsable s t g sel).bind fun _ _ => keeping_afterReads t h 1 fun _ hu =>
    (keeping_orExc s _ _ _).bind fun d _ => keeping_switchTo hu hpe kind _ d

theorem keeping_viaTss {s t : State} (h : s.Keeps t) (hpe : s.pe = true) (d : Desc) (sel : Word) (kind : SwitchKind) :
    Keeping s s.Keeps (t.viaTss d sel kind) :=
  (keeping_ensure s _ _).bind fun _ _ => (keeping_ensure s _ _).bind fun _ _ => keeping_switchTo h hpe kind sel d

theorem keeping_farDesc (s t : State) (sel : Word) : Keeping s (fun _ => True) (t.farDesc sel) :=
  (keeping_ensure s _ _).bind fun _ _ => by split <;> trivial

theorem keeping_directCode (s t : State) (d : Desc) (sel : Word) : Keeping s (fun _ => True) (t.directCode d sel) :=
  (keeping_ensure s _ _).bind fun _ _ => keeping_ensure s _ _

theorem keeping_jumpGate {s t : State} (h : s.Keeps t) (g : Desc) (sel : Word) : Keeping s s.Keeps (t.jumpGate g sel) :=
  (keeping_gateUsable s t g sel).bind fun _ _ => keeping_afterReads t h 1 fun u hu =>
    (keeping_gateCode s u g _).bind fun code _ => (keeping_ensure s _ _).bind fun _ _ =>
      hu.trans (u.keeps_enterCode code _ _ _)

theorem keeping_jumpFar {s t : State} (h : s.Keeps t) (sel off : Word) : Keeping s s.Keeps (t.jumpFar sel off) := by
  unfold State.jumpFar
  split_ifs with hprot
  · have hpe : s.pe = true := (pe_of_msw h.msw).symm.trans (State.pe_of_prot hprot)
    refine keeping_afterReads t h 1 fun u hu => (keeping_farDesc s u sel).bind fun d _ => ?_
    cases farKind d.ar with
    | code => exact (keeping_directCode s u d sel).bind fun _ _ => (keeping_ensure s _ _).bind fun _ _ =>
        hu.trans (u.keeps_enterCode d _ _ _)
    | callGate => exact keeping_jumpGate hu d sel
    | taskGate => exact keeping_viaTaskGate hu hpe d sel .jump
    | tss => exact keeping_viaTss hu hpe d sel .jump
    | other => trivial
  · exact h.trans (t.keeps_enterReal sel off)

theorem keeping_stackRoom (s t : State) (n : Nat) : Keeping s (fun _ => True) (t.stackRoom n) := keeping_check s _

theorem keeping_innerStackDesc (s t : State) (level : Nat) (sel : Word) (ext : Bool) :
    Keeping s (fun _ => True) (t.innerStackDesc level sel ext) :=
  (keeping_ensure s _ _).bind fun _ _ => keeping_orExc s _ _ _

theorem keeping_callInner {s t : State} (h : s.Keeps t) (g code : Desc) : Keeping s s.Keeps (t.callInner g code) :=
  (keeping_ensure s _ _).bind fun _ _ => keeping_afterReads t h 3 fun u hu =>
    (keeping_innerStackDesc s u _ _ _).bind fun _ _ => (keeping_ensure s _ _).bind fun _ _ =>
      (keeping_ensure s _ _).bind fun _ _ => (keeping_ensure s _ _).bind fun _ _ =>
        (((((((hu.trans (u.keeps_yields _)).trans (State.keeps_loadSeg _ _ _ _)).trans (State.keeps_yieldBus _)).trans
          (State.keeps_loadSeg _ _ _ _)).trans (State.keeps_setSp _ _)).trans (State.keeps_yieldBus _)).trans
          (State.keeps_pushList _ _)).trans (State.keeps_jumpTo _ _)

/-- CS and the offset of the following instruction are pushed and the code segment is entered. -/
theorem keeps_pushEnter (s : State) (d : Desc) (sel : Word) (l : Nat) (off : Word) (vs : List Word) :
    s.Keeps ((s.yieldBus.pushList vs).enterCode d sel l off) :=
  (s.keeps_yieldBus.trans (State.keeps_pushList _ _)).trans (State.keeps_enterCode _ d sel l off)

theorem keeping_callGate {s t : State} (h : s.Keeps t) (g : Desc) (sel : Word) : Keeping s s.Keeps (t.callGate g sel) :=
  (keeping_gateUsable s t g sel).bind fun _ _ => keeping_afterReads t h 1 fun u hu =>
    (keeping_gateCode s u g _).bind fun code _ => by
      split_ifs
      · exact (keeping_stackRoom s u 2).bind fun _ _ => (keeping_ensure s _ _).bind fun _ _ =>
          hu.trans (keeps_pushEnter u code _ _ _ _)
      · exact keeping_callInner hu g code

theorem keeping_callFar {s t : State} (h : s.Keeps t) (sel off : Word) : Keeping s s.Keeps (t.callFar sel off) := by
  unfold State.callFar
  split_ifs with hprot
  · have hpe : s.pe = true := (pe_of_msw h.msw).symm.trans (State.pe_of_prot hprot)
    refine keeping_afterReads t h 1 fun u hu => (keeping_farDesc s u sel).bind fun d _ => ?_
    cases farKind d.ar with
    | code => exact (keeping_directCode s u d sel).bind fun _ _ => (keeping_stackRoom s u 2).bind fun _ _ =>
        (keeping_ensure s _ _).bind fun _ _ => hu.trans (keeps_pushEnter u d _ _ _ _)
    | callGate => exact keeping_callGate hu d sel
    | taskGate => exact keeping_viaTaskGate hu hpe d sel .nest
    | tss => exact keeping_viaTss hu hpe d sel .nest
    | other => trivial
  · exact (keeping_stackRoom s t 2).bind fun _ _ =>
      (h.trans (t.keeps_pushList _)).trans (State.keeps_enterReal _ sel off)

/-! ### Returns -/

theorem keeping_returnCode (s t : State) (sel : Word) : Keeping s (fun _ => True) (t.returnCode sel) :=
  (keeping_ensure s _ _).bind fun _ _ => keeping_orExc s _ _ _

theorem keeping_returnStack (s t : State) (l : Nat) (sel : Word) : Keeping s (fun _ => True) (t.returnStack l sel) :=
  (keeping_ensure s _ _).bind fun _ _ => keeping_orExc s _ _ _

theorem keeps_trimData (s : State) (r : SReg) (level : Nat) : s.Keeps (s.trimData r level) := by
  unfold State.trimData
  split_ifs
  · exact .refl s
  · exact s.keeps_setSeg r _

theorem keeps_returnOuter (s : State) (code : Desc) (csSel ip : Word) (stack : Desc) (ssSel sp : Word) :
    s.Keeps (s.returnOuter code csSel ip stack ssSel sp) :=
  ((((((s.keeps_yieldBus.trans (State.keeps_loadSeg _ _ _ _)).trans (State.keeps_yieldBus _)).trans
    (State.keeps_loadSeg _ _ _ _)).trans (State.keeps_setSp _ sp)).trans (keeps_trimData _ .es _)).trans
    (keeps_trimData _ .ds _)).trans (State.keeps_jumpTo _ ip)

theorem keeping_outerStack {s t : State} (h : s.Keeps t) (csSel off : Word) {f : Desc → Word → State → Exe State}
    (k : ∀ d sel u, s.Keeps u → Keeping s s.Keeps (f d sel u)) : Keeping s s.Keeps (t.outerStack csSel off f) :=
  keeping_afterReads t h 1 fun u hu => (keeping_returnStack s u _ _).bind fun d _ =>
    keeping_afterReads u hu 1 (k d _)

theorem keeping_popChecks (s : State) (off : Word) : Keeping s (fun _ => True) (s.popCheck off) :=
  s.keeping_popCheck off

theorem keeping_retSame {s t : State} (h : s.Keeps t) (sel n : Word) : Keeping s s.Keeps (t.retSame sel n) :=
  (keeping_returnCode s t sel).bind fun d _ => (keeping_check s _).bind fun _ _ =>
    keeping_afterReads t h 1 fun u hu => (keeping_ensure s _ _).bind fun _ _ =>
      ((hu.trans (keeps_dropStack u _)).trans (State.keeps_yieldBus _)).trans (State.keeps_enterCode _ d sel _ _)

theorem keeping_retOuter {s t : State} (h : s.Keeps t) (sel n : Word) : Keeping s s.Keeps (t.retOuter sel n) :=
  (keeping_ensure s _ _).bind fun _ _ => (keeping_returnCode s t sel).bind fun code _ =>
    keeping_afterReads t h 1 fun _ hu => keeping_outerStack hu _ _ fun _ _ v hv => (keeping_ensure s _ _).bind fun _ _ =>
      (hv.trans v.keeps_yieldBus).trans (keeps_returnOuter _ code sel _ _ _ _)

theorem keeping_retFarBy (s : State) (n : Word) : Keeping s s.Keeps (s.retFarBy n) := by
  unfold State.retFarBy
  split_ifs
  · refine (keeping_check s _).bind fun _ _ => (keeping_ensure s _ _).bind fun _ _ =>
      keeping_afterReads s (.refl s) 1 fun u hu => ?_
    split_ifs
    · exact keeping_retSame hu _ n
    · exact keeping_retOuter hu _ n
  · exact (s.keeping_popCheck _).bind fun _ _ => (s.keeping_popCheck _).bind fun _ _ =>
      (s.keeps_yieldBus.trans (keeps_dropStack _ _)).trans (State.keeps_enterReal _ _ _)

theorem keeping_iretReal (s : State) (hprot : s.prot = false) : Keeping s s.Keeps s.iretReal :=
  (s.keeping_popCheck _).bind fun _ _ => (s.keeping_popCheck _).bind fun _ _ => (s.keeping_popCheck _).bind fun _ _ => by
    have hdrop : s.Keeps ((s.yields 2).dropStack 6) := (s.keeps_yields 2).trans (keeps_dropStack _ 6)
    refine ((hdrop.trans (State.keeps_setFlags _ _ fun _ => ?_)).trans (State.keeps_enterReal _ _ _)).trans
      (State.keeps_endNmi _)
    simp only [hprot, Flags.pop, State.dropStack, State.setSp, State.setReg16_flags, State.yields_flags]
    exact ⟨rfl, rfl⟩

/-- In protected mode the flags may change. -/
theorem keeps_protFlags {s t : State} (h : s.Keeps t) (hpe : s.pe = true) (f : Flags) : s.Keeps (t.setFlags f) :=
  h.trans (t.keeps_setFlags f fun hp => by rw [pe_of_msw h.msw, hpe] at hp; cases hp)

theorem keeping_iretSame {s t : State} (h : s.Keeps t) (hpe : s.pe = true) (sel : Word) :
    Keeping s s.Keeps (t.iretSame sel) :=
  (keeping_ensure s _ _).bind fun _ _ => (keeping_returnCode s t sel).bind fun d _ =>
    keeping_afterReads t h 1 fun u hu => (keeping_ensure s _ _).bind fun _ _ =>
      (((keeps_protFlags ((hu.trans u.keeps_yieldBus).trans (keeps_dropStack _ 6)) hpe _).trans
        (State.keeps_yieldBus _)).trans (State.keeps_enterCode _ d sel _ _)).trans (State.keeps_endNmi _)

theorem keeping_iretOuter {s t : State} (h : s.Keeps t) (hpe : s.pe = true) (sel : Word) :
    Keeping s s.Keeps (t.iretOuter sel) :=
  (keeping_ensure s _ _).bind fun _ _ => (keeping_returnCode s t sel).bind fun code _ =>
    keeping_afterReads t h 1 fun _ hu => keeping_outerStack hu _ _ fun _ _ v hv => (keeping_ensure s _ _).bind fun _ _ =>
      ((keeps_protFlags (hv.trans (v.keeps_yields 2)) hpe _).trans (keeps_returnOuter _ code sel _ _ _ _)).trans
        (State.keeps_endNmi _)

theorem keeping_iretTask (s : State) (hpe : s.pe = true) : Keeping s s.Keeps s.iretTask :=
  (keeping_ensure s _ _).bind fun _ _ => keeping_afterReads s (.refl s) 1 fun u hu =>
    (keeping_orExc s _ _ _).bind fun d _ => keeping_switchTo (hu.trans u.keeps_endNmi) hpe .iret _ d

theorem keeping_iret (s : State) : Keeping s s.Keeps (if s.prot then s.iretProt else s.iretReal) := by
  split_ifs with hprot
  · have hpe := State.pe_of_prot hprot
    unfold State.iretProt
    split_ifs
    · exact keeping_iretTask s hpe
    · refine (keeping_check s _).bind fun _ _ => (keeping_ensure s _ _).bind fun _ _ =>
        keeping_afterReads s (.refl s) 1 fun u hu => ?_
      split_ifs
      · exact keeping_iretSame hu hpe _
      · exact keeping_iretOuter hu hpe _
  · exact keeping_iretReal s (Bool.not_eq_true _ ▸ hprot)

theorem preserves_softInterrupt (v : Byte) (s : State) : Preserves s (softInterrupt v s) :=
  preserves_complete (s.keeping_deliver _ _)

/-! ### ENTER, LEAVE, BOUND -/

/-- Where a word of ENTER fails, the registers of the state before come back. -/
theorem keeping_keepWrites {α : Type} {s t : State} {P : α → Prop} {m : Exe α} (g : State) (h : s.Keeps t)
    (k : Keeping s P m) : Keeping s P (keepWrites g t m) := by
  unfold keepWrites
  cases m with
  | ok a => exact k
  | error e =>
    cases e with
    | exc e => exact keeps_loadRegs s t _ h
    | _ => exact k

theorem keeping_copyDisplay {s g : State} (n : Nat) : ∀ t, s.Keeps t → Keeping s s.Keeps (copyDisplay g n t) := by
  induction n with
  | zero => exact fun t h => h
  | succ n ih =>
    intro t h
    have hbus := h.trans t.keeps_yieldBus
    have hbp := hbus.trans (keeps_setReg16 _ .bp (t.yieldBus.regs.bp - 2))
    have hread := hbp.trans (State.keeps_yieldBus _)
    exact (keeping_keepWrites g hbus (keeping_readMem s _ .word .ss _)).bind fun v _ =>
      (keeping_keepWrites g hread (keeping_push hread v)).bind fun u hu => ih u hu

theorem preserves_enter (size : Word) (level : Byte) (s : State) : Preserves s (execEnter size level s) :=
  preserves_complete ((keeping_push (.refl s) s.regs.bp).bind fun t ht => by
    have hframe : ∀ u, s.Keeps u → s.Keeps ((u.setReg16 .bp t.regs.sp).setSp (u.regs.sp - size)) := fun u hu =>
      (hu.trans (keeps_setReg16 u .bp _)).trans (State.keeps_setSp _ _)
    dsimp only
    split_ifs
    · exact hframe t ht
    · exact (keeping_copyDisplay _ t ht).bind fun u hu =>
        (keeping_keepWrites s (hu.trans u.keeps_yieldBus) (keeping_push (hu.trans u.keeps_yieldBus) _)).bind hframe)

theorem preserves_leave (s : State) : Preserves s (execLeave s) :=
  preserves_complete ((s.keeping_popCheck _).bind fun _ _ => (s.keeps_setSp _).trans (keeps_setReg16 _ .bp _))

theorem preserves_bound (r : Reg) (m : Mem) (s : State) : Preserves s (execBound r m s) :=
  preserves_complete (keeping_readPair fun _ _ _ ht => (keeping_ensure s _ _).bind fun _ _ => ht)

/-! ### Processor control -/

theorem keeping_supervisorCheck (s t : State) : Keeping s (fun _ => True) t.supervisorCheck := keeping_ensure s _ _

theorem keeping_protCheck (s t : State) : Keeping s (fun _ => True) t.protCheck := keeping_ensure s _ _

theorem preserves_wait (s : State) : Preserves s (execWait s) :=
  preserves_complete ((keeping_ensure s _ _).bind fun _ _ => by
    split_ifs
    · exact keeps_goOn s .stall
    · exact (keeping_ensure s _ _).bind fun _ _ => State.Keeps.refl s)

theorem keeps_handEsc (s : State) (ttt lll : BitVec 3) (rm : Rm) : s.Keeps (s.handEsc ttt lll rm) := by
  cases rm <;> exact .of_fields rfl rfl rfl id rfl rfl rfl

theorem preserves_esc (ttt lll : BitVec 3) (rm : Rm) (s : State) : Preserves s (execEsc ttt lll rm s) :=
  preserves_complete ((keeping_ensure s _ _).bind fun _ _ => by
    by_cases hnpx : s.npxPresent
    · simp only [hnpx, Bool.not_true, Bool.false_eq_true, if_false]
      refine (keeping_check s _).bind fun _ _ => (keeping_ensure s _ _).bind fun _ _ => ?_
      split_ifs
      · exact keeps_goOn s .stall
      · exact keeps_handEsc s ttt lll rm
    · simp only [hnpx, Bool.not_false, if_true]
      trivial)

theorem keeping_writeTriple {s t : State} (h : s.Keeps t) (m : Mem) (a b c : Word) :
    Keeping s s.Keeps (t.writeTriple m a b c) :=
  (keeping_check s _).bind fun _ _ => (keeping_check s _).bind fun _ _ => (keeping_check s _).bind fun _ _ =>
    ((((h.trans (t.keeps_store _ _ _ _)).trans (State.keeps_yieldBus _)).trans (State.keeps_store _ _ _ _ _)).trans
      (State.keeps_yieldBus _)).trans (State.keeps_store _ _ _ _ _)

theorem keeping_storeTable (s : State) (m : Mem) (t : TableReg) : Keeping s s.Keeps (s.storeTable m t) :=
  keeping_writeTriple (keeps_tick s 1) m _ _ _

theorem keeps_setLdtr (s : State) (r : LdtReg) : s.Keeps { s with ldtr := r } := .of_fields rfl rfl rfl id rfl rfl rfl

theorem preserves_lldt (rm : Rm) (s : State) : Preserves s (execLldt rm s) :=
  preserves_complete ((keeping_protCheck s s).bind fun _ _ => (keeping_supervisorCheck s s).bind fun _ _ =>
    (keeping_readRm s s .word rm).bind fun sel _ => by
      dsimp only
      split_ifs
      · exact keeps_setLdtr s _
      · exact keeping_afterReads s (.refl s) 1 fun u hu => (keeping_orExc s _ _ _).bind fun _ _ =>
          hu.trans (keeps_setLdtr u _))

theorem preserves_ltr (rm : Rm) (s : State) : Preserves s (execLtr rm s) :=
  preserves_complete ((keeping_protCheck s s).bind fun _ _ => (keeping_supervisorCheck s s).bind fun _ _ =>
    (keeping_readRm s s .word rm).bind fun _ _ => keeping_afterReads s (.refl s) 1 fun u hu =>
      (keeping_orExc s _ _ _).bind fun _ _ =>
        (hu.trans (u.keeps_putByte _ _)).trans (.of_fields rfl rfl rfl id rfl rfl rfl))

theorem keeping_protWrite (s : State) (rm : Rm) (v : Word) :
    Keeping s s.Keeps (s.protCheck >>= fun _ => s.writeRm .word rm v) :=
  (keeping_protCheck s s).bind fun _ _ => keeping_writeRm (.refl s) .word rm v

theorem keeps_accessedFree (s : State) (sel : Word) : s.Keeps (s.accessedFree sel) := by
  unfold State.accessedFree
  split
  · split_ifs
    · exact (s.keeps_putByte _ _).trans (keeps_tick _ 1)
    · exact (s.keeps_putByte _ _).trans (keeps_tick _ 1)
    · exact .refl s
  · exact .refl s

theorem keeps_setZf (s : State) (b : Bool) : s.Keeps (s.setZf b) := keeps_setStatus s _ ⟨rfl, rfl⟩

/-- A selector test: the mode and the operand, then what is done with the descriptor. -/
theorem preserves_selectorTest (rm : Rm) (s : State) {f : Word → State → Exe State}
    (h : ∀ sel t, s.Keeps t → Keeping s s.Keeps (f sel t)) :
    Preserves s (complete s (s.protCheck >>= fun _ => s.readRm .word rm >>= fun sel => s.afterBus (f sel))) :=
  preserves_complete ((keeping_protCheck s s).bind fun _ _ => (keeping_readRm s s .word rm).bind fun sel _ =>
    keeping_afterReads s (.refl s) 1 (h sel))

theorem preserves_lar (r : Reg) (rm : Rm) (s : State) : Preserves s (execLar r rm s) :=
  preserves_selectorTest rm s fun sel t ht => by
    have hfree := ht.trans (keeps_accessedFree t sel)
    split
    · exact (hfree.trans (keeps_setZf _ true)).trans (keeps_setReg16 _ r _)
    · exact hfree.trans (keeps_setZf _ false)

theorem preserves_lsl (r : Reg) (rm : Rm) (s : State) : Preserves s (execLsl r rm s) :=
  preserves_selectorTest rm s fun sel t ht => by
    have hfree := ht.trans (keeps_accessedFree t sel)
    split
    · exact (hfree.trans (keeps_setZf _ true)).trans (keeps_setReg16 _ r _)
    · exact hfree.trans (keeps_setZf _ false)

theorem preserves_verify (type : Byte → Bool) (rm : Rm) (s : State) : Preserves s (verify type rm s) :=
  preserves_selectorTest rm s fun sel t ht => (ht.trans (keeps_accessedFree t sel)).trans (keeps_setZf _ _)

theorem preserves_arpl (rm : Rm) (r : Reg) (s : State) : Preserves s (execArpl rm r s) :=
  preserves_complete ((keeping_protCheck s s).bind fun _ _ => (keeping_modifyRm s s .word rm).bind fun _ _ => by
    split_ifs
    · exact (keeps_setZf s true).trans (State.keeps_putBack _ .word rm _)
    · exact keeps_setZf s false)

/-! ### Every instruction but three -/

/-- The instructions that write GDTR, IDTR or a bit of MSW other than TS (47 R497, 48 R512, R513). -/
def writesSystem : Instr → Bool
  | .lmsw _ | .lgdt _ | .lidt _ => true
  | _ => false

theorem exec_preserves (i : Instr) (s : State) (h : writesSystem i = false) : Preserves s (exec i s) := by
  cases i with
  | addRmReg d w rm r | orRmReg d w rm r | adcRmReg d w rm r | sbbRmReg d w rm r | andRmReg d w rm r
  | subRmReg d w rm r | xorRmReg d w rm r | cmpRmReg d w rm r => exact preserves_aluRmReg _ d w rm r s
  | addAccImm x => exact preserves_aluAccImm .add x s
  | orAccImm x => exact preserves_aluAccImm .or x s
  | adcAccImm x => exact preserves_aluAccImm .adc x s
  | sbbAccImm x => exact preserves_aluAccImm .sbb x s
  | andAccImm x => exact preserves_aluAccImm .and x s
  | subAccImm x => exact preserves_aluAccImm .sub x s
  | xorAccImm x => exact preserves_aluAccImm .xor x s
  | cmpAccImm x => exact preserves_aluAccImm .cmp x s
  | addRmImm rm x | orRmImm rm x | adcRmImm rm x | sbbRmImm rm x | andRmImm rm x | subRmImm rm x | xorRmImm rm x
  | cmpRmImm rm x => exact preserves_aluRmImm _ rm x s
  | addRmImm8 rm v | adcRmImm8 rm v | sbbRmImm8 rm v | subRmImm8 rm v | cmpRmImm8 rm v =>
    exact preserves_aluRmImm8 _ rm v s
  | incReg r => exact preserves_incOperand .word (.reg r) s
  | decReg r => exact preserves_decOperand .word (.reg r) s
  | incRm w rm => exact preserves_incOperand w rm s
  | decRm w rm => exact preserves_decOperand w rm s
  | negRm w rm => exact preserves_modifyWith w rm _ (s.flags.sub w false 0) s fun _ => ⟨rfl, rfl⟩
  | notRm w rm => exact preserves_modifyWith w rm _ (fun _ => s.flags) s fun _ => ⟨rfl, rfl⟩
  | mulRm w rm => exact preserves_mulRm w rm s
  | imulRm w rm => exact preserves_imulRm w rm s
  | imulImm r rm v => exact preserves_imulToReg r rm v s
  | imulImm8 r rm v => exact preserves_imulToReg r rm _ s
  | divRm w rm => exact preserves_divRm w rm s
  | idivRm w rm => exact preserves_idivRm w rm s
  | testRmReg w rm r => exact preserves_testOperand w rm _ s
  | testAccImm x => exact preserves_testOperand x.width (.reg .ax) _ s
  | testRmImm rm x => exact preserves_testOperand x.width rm _ s
  | aaa | daa | aas | das | aam | aad => exact preserves_next (keeps_adjusted s _ _ _ ⟨rfl, rfl⟩)
  | cbw | cwd | lea r m | lahf => exact preserves_next (keeps_setReg16 s _ _)
  | rolOne w rm | rorOne w rm | rclOne w rm | rcrOne w rm | shlOne w rm | shrOne w rm | sarOne w rm =>
    exact preserves_shiftOne _ w rm s
  | rolCl w rm | rorCl w rm | rclCl w rm | rcrCl w rm | shlCl w rm | shrCl w rm | sarCl w rm =>
    exact preserves_shiftCount _ w rm _ s
  | rolImm w rm n | rorImm w rm n | rclImm w rm n | rcrImm w rm n | shlImm w rm n | shrImm w rm n | sarImm w rm n =>
    exact preserves_shiftCount _ w rm n s
  | movRmReg d w rm r => exact preserves_movRmReg d w rm r s
  | movRmSreg rm sr => exact preserves_complete (keeping_writeRm (.refl s) .word rm _)
  | smsw rm => exact preserves_complete (keeping_writeRm (.refl s) .word rm _)
  | movRmImm rm x => exact preserves_complete (keeping_writeRm (.refl s) x.width rm _)
  | movEsRm rm | movDsRm rm => exact preserves_complete (keeping_movSReg s _ rm)
  | movSsRm rm => exact preserves_complete ((keeping_movSReg s .ss rm).bind fun t ht => ht.trans (keeps_inhibitAll t))
  | movAccMem w a => exact preserves_complete ((keeping_readMem s s w _ a).bind fun v _ => s.keeps_setReg w .ax v)
  | movMemAcc w a => exact preserves_complete (keeping_writeMem (.refl s) w _ a _)
  | movRegImm r x => exact preserves_next (s.keeps_setReg x.width r _)
  | pushReg r | pushSreg sr | pushImm v | pushImm8 v | pushf =>
    exact preserves_complete (keeping_pushOperand (.refl s) _)
  | pushRm rm => exact preserves_complete ((keeping_readRm s s .word rm).bind fun v _ =>
      keeping_afterReads s (.refl s) 1 fun _ hu => keeping_pushOperand hu v)
  | pusha => exact preserves_pusha s
  | popa => exact preserves_popa s
  | popReg r => exact preserves_complete ((keeping_top s).bind fun v _ =>
      (keeps_dropStack s 2).trans (keeps_setReg16 _ r v))
  | popRm rm => exact preserves_popRm rm s
  | popEs | popDs => exact preserves_complete (keeping_popSReg s _)
  | popSs => exact preserves_complete ((keeping_popSReg s .ss).bind fun t ht => ht.trans (keeps_inhibitAll t))
  | xchgRmReg w rm r => exact preserves_xchgRmReg w rm r s
  | xchgAx r => exact preserves_next ((keeps_setReg16 s .ax _).trans (keeps_setReg16 _ r _))
  | nop => exact preserves_next (.refl s)
  | xlat => exact preserves_complete ((keeping_readMem s s .byte _ _).bind fun v _ => s.keeps_setReg .byte .ax v)
  | inImm w p | inDx w => exact preserves_inPort w _ s
  | outImm w p | outDx w => exact preserves_outPort w _ s
  | lds r m | les r m => exact preserves_loadPointer _ r m s
  | sahf | stc | clc | cmc | std | cld => exact preserves_next (keeps_setStatus s _ ⟨rfl, rfl⟩)
  | popf => exact preserves_complete ((keeping_top s).bind fun v _ =>
      (keeps_dropStack s 2).trans (keeps_popFlags (s.dropStack 2) v))
  | movs w => exact preserves_movs w s
  | cmps w => exact preserves_cmps w s
  | stos w => exact preserves_stos w s
  | lods w => exact preserves_lods w s
  | scas w => exact preserves_scas w s
  | ins w => exact preserves_ins w s
  | outs w => exact preserves_outs w s
  | rep | repne | seg sr => exact preserves_next (.of_fields rfl rfl rfl id rfl rfl rfl)
  | jo v | jno v | jb v | jnb v | je v | jne v | jbe v | jnbe v | js v | jns v | jp v | jnp v | jl v | jnl v | jle v
  | jnle v | jcxz v => exact preserves_jumpIf _ v s
  | loop v | loope v | loopne v => exact preserves_loopIf _ v s
  | jmpShort v | jmpNear v => exact preserves_complete (keeping_jumpNear s s (.refl s) _)
  | jmpRm rm => exact preserves_complete ((keeping_readRm s s .word rm).bind fun v _ =>
      keeping_jumpNear s s (.refl s) v)
  | jmpFar off sel => exact preserves_complete (keeping_jumpFar (.refl s) sel off)
  | jmpFarMem m => exact preserves_complete (keeping_readPair fun off sel _ ht => keeping_jumpFar ht sel off)
  | callNear v => exact preserves_complete (keeping_callNearTo (.refl s) _)
  | callRm rm => exact preserves_callRm rm s
  | callFar off sel => exact preserves_complete (keeping_callFar (.refl s) sel off)
  | callFarMem m => exact preserves_complete (keeping_readPair fun off sel _ ht => keeping_callFar ht sel off)
  | retNear | retNearImm n => exact preserves_complete (keeping_retNearBy s _)
  | retFar | retFarImm n => exact preserves_complete (keeping_retFarBy s _)
  | int3 | intImm v => exact preserves_softInterrupt _ s
  | into =>
    change Preserves s (if s.flags.of then softInterrupt 4 s else .next s)
    split_ifs
    · exact preserves_softInterrupt 4 s
    · exact preserves_next (.refl s)
  | iret => exact preserves_complete (keeping_iret s)
  | enter size level => exact preserves_enter size level s
  | leave => exact preserves_leave s
  | bound r m => exact preserves_bound r m s
  | sti | cli | lock | hlt =>
    exact preserves_complete ((keeping_ensure s _ _).bind fun _ _ => .of_fields rfl rfl rfl id rfl rfl rfl)
  | wait => exact preserves_wait s
  | esc ttt lll rm => exact preserves_esc ttt lll rm s
  | clts => exact preserves_complete ((keeping_supervisorCheck s s).bind fun _ _ => s.keeps_setTaskSwitched false)
  | sgdt m | sidt m => exact preserves_complete (keeping_storeTable s m _)
  | lldt rm => exact preserves_lldt rm s
  | sldt rm | str rm => exact preserves_complete (keeping_protWrite s rm _)
  | ltr rm => exact preserves_ltr rm s
  | lar r rm => exact preserves_lar r rm s
  | lsl r rm => exact preserves_lsl r rm s
  | verr rm | verw rm => exact preserves_verify _ rm s
  | arpl rm r => exact preserves_arpl rm r s
  | lmsw rm | lgdt m | lidt m => cases h

end Sys2Proof.Proofs.Other
end

section
/-! What a step keeps: every instruction, delivery and end of an instruction leads from a sound state to a sound state
and leaves PE set, and an outer level cannot write the system registers. -/

namespace Sys2Proof.Proofs.Other

open Sys2Proof Sys2Proof.Machine

set_option Elab.async false

/-! ### The invariant with the record of stores -/

/-- The invariant, with every store on record at an address of memory, so that memory is canonical too where RESET cuts
the step's stores short (70 R600). -/
def Sound (s : State) : Prop := s.Stored ∧ s.RealFlags ∧ s.MswHigh ∧ s.PrefixesOnly

theorem Sound.inv {s : State} (h : Sound s) : s.Inv := ⟨h.1.1, h.2⟩

/-- What may follow a state: the invariant holds again, and PE is not cleared. -/
def Evolves (s t : State) : Prop := (Sound s → Sound t) ∧ (s.pe = true → t.pe = true)

theorem Evolves.refl (s : State) : Evolves s s := ⟨id, id⟩

theorem Evolves.trans {s t u : State} (h : Evolves s t) (k : Evolves t u) : Evolves s u :=
  ⟨fun hs => k.1 (h.1 hs), fun hs => k.2 (h.2 hs)⟩

theorem pe_congr {s t : State} (h : t.msw = s.msw) : t.pe = s.pe := by rw [State.pe, h, State.pe]

theorem realFlags_congr {s t : State} (hf : t.flags = s.flags) (hmsw : t.msw = s.msw) (h : s.RealFlags) :
    t.RealFlags := by
  unfold State.RealFlags
  rw [pe_congr hmsw, hf]
  exact h

theorem mswHigh_congr {s t : State} (hmsw : t.msw = s.msw) (h : s.MswHigh) : t.MswHigh := by
  unfold State.MswHigh
  rw [hmsw]
  exact h

theorem prefixesOnly_congr {s t : State} (hcode : t.inst.code = s.inst.code) (h : s.PrefixesOnly) :
    t.PrefixesOnly := by
  unfold State.PrefixesOnly
  rw [hcode]
  exact h

theorem prefixesOnly_none {s : State} (h : s.inst.code = none) : s.PrefixesOnly := by
  unfold State.PrefixesOnly
  rw [h]
  rintro _ ⟨⟩

theorem prefixesOnly_some {s : State} {d : Decoded} (hcode : s.inst.code = some d)
    (h : ∀ p ∈ d.prefixes, p.isPrefix = true) : s.PrefixesOnly := by
  unfold State.PrefixesOnly
  rw [hcode]
  rintro _ ⟨⟩
  exact h

/-- Updates of none of it but the instruction in progress. -/
theorem Evolves.of_fields {s t : State} (hm : t.mem = s.mem) (hw : t.writes = s.writes) (hf : t.flags = s.flags)
    (hmsw : t.msw = s.msw) (hcode : s.PrefixesOnly → t.PrefixesOnly) : Evolves s t :=
  ⟨fun ⟨hst, hfl, hhigh, hpre⟩ => ⟨hst.congr hm hw, realFlags_congr hf hmsw hfl, mswHigh_congr hmsw hhigh, hcode hpre⟩,
    fun hpe => (pe_congr hmsw).trans hpe⟩

theorem mswHigh_of_keeps {s t : State} (h : t.msw ||| 8#16 = s.msw ||| 8#16) (hs : s.MswHigh) : t.MswHigh := by
  have hbits : ∀ v : Word, (v ||| 8#16).extractLsb' 4 12 = v.extractLsb' 4 12 := fun v => by
    ext i hi
    have hlt : i < 12 := hi
    interval_cases i <;> simp
  unfold State.MswHigh
  rw [← hbits, h, hbits]
  exact hs

theorem Evolves.of_keeps {s t : State} (h : s.Keeps t) : Evolves s t := by
  refine ⟨fun ⟨hst, hfl, hhigh, hpre⟩ => ⟨h.mem hst, fun hpe => ?_, mswHigh_of_keeps h.msw hhigh, ?_⟩,
    fun hpe => (pe_of_msw h.msw).trans hpe⟩
  · have hpe : s.pe = false := (pe_of_msw h.msw).symm.trans hpe
    obtain ⟨hiopl, hnt⟩ := h.flags hpe
    rw [hiopl, hnt]
    exact hfl hpe
  · exact prefixesOnly_congr h.code hpre

/-- Every next state of an answer may follow a state. -/
def Leads (s : State) (a : Answer) : Prop := ∀ t, a = .next t → Evolves s t

theorem Leads.of_preserves {s : State} {a : Answer} (h : Preserves s a) : Leads s a := fun t ht => .of_keeps (h t ht)

theorem Leads.next {s t : State} (h : Evolves s t) : Leads s (.next t) := fun u hu => by
  cases hu
  exact h

theorem Leads.after {s t : State} {a : Answer} (h : Evolves s t) (k : Leads t a) : Leads s a :=
  fun u hu => h.trans (k u hu)

/-! ### The three instructions that write the system registers -/

theorem leads_complete {s : State} {m : Exe State} (hstop : Keeping s (fun _ => True) m)
    (hok : ∀ u, m = .ok u → Evolves s u) : Leads s (complete s m) := by
  cases m with
  | ok u => exact .next (hok u rfl)
  | error e =>
    have hkeeps : Keeping s s.Keeps (.error e) := by cases e <;> exact hstop
    exact .of_preserves (preserves_complete hkeeps)

theorem pe_mswLoaded (msw v : Word) : (mswLoaded msw v).getLsbD 0 = (msw.getLsbD 0 || v.getLsbD 0) := by
  simp [mswLoaded]

theorem mswLoaded_high (msw v : Word) : (mswLoaded msw v).extractLsb' 4 12 = msw.extractLsb' 4 12 := by
  ext i hi
  have hlt : i < 12 := hi
  interval_cases i <;> simp [mswLoaded]

/-- MSW loaded by LMSW: PE can only be set, and bits 15-4 stay (47 R497). -/
theorem evolves_mswLoaded (s : State) (v : Word) : Evolves s { s with msw := mswLoaded s.msw v } := by
  have hpe : ({ s with msw := mswLoaded s.msw v } : State).pe = (s.pe || v.getLsbD 0) := pe_mswLoaded s.msw v
  refine ⟨fun ⟨hst, hfl, hhigh, hpre⟩ => ⟨hst, fun h => ?_, (mswLoaded_high s.msw v).trans hhigh, hpre⟩, fun h => ?_⟩
  · rw [hpe, Bool.or_eq_false_iff] at h
    exact hfl h.1
  · rw [hpe, h, Bool.true_or]

theorem leads_lmsw (rm : Rm) (s : State) : Leads s (execLmsw rm s) := by
  refine leads_complete ((keeping_supervisorCheck s s).bind fun _ _ => (keeping_readRm s s .word rm).bind fun _ _ =>
    trivial) fun u hu => ?_
  obtain ⟨_, -, hu⟩ := (exe_bind_eq_ok _ _ _).mp hu
  obtain ⟨v, -, hu⟩ := (exe_bind_eq_ok _ _ _).mp hu
  dsimp only at hu
  split_ifs at hu
  · cases hu
    exact (evolves_mswLoaded s v).trans (.of_fields rfl rfl rfl rfl id)
  · cases hu
    exact evolves_mswLoaded s v

theorem keeping_readTable (s : State) (m : Mem) : Keeping s (fun _ => True) (s.readTable m) :=
  (keeping_supervisorCheck s s).bind fun _ _ => Keeping.bind (P := fun _ => True)
    ((keeping_check s _).bind fun _ _ => (keeping_check s _).bind fun _ _ => (keeping_check s _).bind fun _ _ => trivial)
    fun _ _ => trivial

/-- LGDT and LIDT: the operand is read and a table register is written (48 R512, R513). -/
theorem leads_loadTable {s : State} {m : Mem} {f : TableReg → State} (h : ∀ t, Evolves s (f t)) :
    Leads s (complete s (s.readTable m >>= fun t => .ok (f t))) := by
  refine leads_complete ((keeping_readTable s m).bind fun _ _ => trivial) fun u hu => ?_
  obtain ⟨t, -, hu⟩ := (exe_bind_eq_ok _ _ _).mp hu
  cases hu
  exact h t

theorem exec_leads (i : Instr) (s : State) : Leads s (exec i s) := by
  have hyields : Evolves s (s.yields 2) := .of_keeps (s.keeps_yields 2)
  cases h : writesSystem i with
  | false => exact .of_preserves (exec_preserves i s h)
  | true =>
    cases i with
    | lmsw rm => exact leads_lmsw rm s
    | lgdt m | lidt m => exact leads_loadTable fun _ => hyields.trans (.of_fields rfl rfl rfl rfl id)
    | _ => cases h

/-! ### An instruction with its prefixes -/

theorem runItems_leads (is : List Instr) : ∀ s, Leads s (runItems is s) := by
  induction is with
  | nil => exact fun s => .next (.refl s)
  | cons i is ih =>
    intro s t ht
    have hi := exec_leads i s
    unfold runItems at ht
    cases hex : exec i s with
    | next u =>
      rw [hex] at ht
      dsimp only at ht
      split_ifs at ht
      · exact (hi u hex).trans (ih u t ht)
      · cases ht
        exact hi _ hex
    | fault r => rw [hex] at ht; cases ht
    | refused r => rw [hex] at ht; cases ht

/-- What is carried to the next step is the instruction in progress or nothing (43 R380). -/
theorem carried_code (i : InstState) : i.carried.code = none ∨ i.carried.code = i.code := by
  unfold InstState.carried
  split
  · exact .inl rfl
  · exact .inr rfl
  · exact .inr rfl

theorem evolves_finishInst (s t : State) : Evolves t (s.finishInst t) :=
  .of_fields rfl rfl rfl rfl fun hpre => by
    rcases carried_code t.inst with h | h
    · exact prefixesOnly_none h
    · exact prefixesOnly_congr h hpre

theorem Leads.finish {s u : State} {a : Answer} (h : Leads s a) : Leads s (finish u a) := by
  intro t ht
  cases a with
  | next v =>
    cases ht
    exact (h v rfl).trans (evolves_finishInst u v)
  | fault r => cases ht
  | refused r => cases ht

theorem leads_raise (ev : Event) (ra : Word) (s : State) : Leads s (raise ev ra s) := fun _ ht =>
  .of_keeps (raise_keeps ht)

theorem leads_fetchFault (s : State) (e : Exc) (real : Bool) : Leads s (s.fetchFault e real) := by
  refine Leads.finish (Leads.after ?_ (leads_raise _ _ _))
  exact .of_fields rfl rfl rfl rfl fun _ => prefixesOnly_none rfl

/-- What decoding puts before an instruction are prefixes (30 R181). -/
theorem decodeItems_prefixes (fuel : Nat) : ∀ {bs : List Byte} {ps : List Instr} {i : Instr} {rest : List Byte},
    decodeItems fuel bs = .ok (ps, i, rest) → ∀ p ∈ ps, p.isPrefix = true := by
  induction fuel with
  | zero => exact fun h => nomatch h
  | succ fuel ih =>
    intro bs ps i rest h
    unfold decodeItems at h
    split at h
    · cases h
    · split_ifs at h with hpre
      · split at h
        · cases h
        · rename_i hrest
          cases h
          rintro p (_ | ⟨_, hp⟩)
          · exact hpre
          · exact ih hrest p hp
      · cases h
        rintro p ⟨⟩

theorem fetchDecode_prefixes {s : State} {d : Decoded} (h : s.fetchDecode = .ok d) :
    ∀ p ∈ d.prefixes, p.isPrefix = true := by
  unfold State.fetchDecode decode at h
  split at h
  · rename_i hdec
    split at hdec
    · cases hdec
    · rename_i hitems
      cases hdec
      cases h
      exact decodeItems_prefixes _ hitems
  · cases h

theorem evolves_beginInst (s : State) (d : Decoded) (real : Bool) (h : ∀ p ∈ d.prefixes, p.isPrefix = true) :
    Evolves s (s.beginInst d real) :=
  .of_fields rfl rfl rfl rfl fun _ => prefixesOnly_some rfl h

theorem evolves_tick (s : State) (n : Nat) : Evolves s (s.tick n) := .of_keeps (keeps_tick s n)

theorem evolves_yieldBus (s : State) : Evolves s s.yieldBus := .of_keeps s.keeps_yieldBus

theorem leads_fetchExecute (s : State) : Leads s s.fetchExecute := by
  unfold State.fetchExecute
  split
  · rename_i d hd
    split_ifs
    · rintro t ⟨⟩
    · have hbegin : Evolves s (s.beginFetched d).yieldBus :=
        ((evolves_beginInst s d _ (fetchDecode_prefixes hd)).trans (evolves_tick _ _)).trans (evolves_yieldBus _)
      exact (Leads.after hbegin (runItems_leads _ _)).finish
  · exact Leads.after (evolves_tick s _) (leads_fetchFault _ _ _)

/-- An instruction leads from a sound state: what stands before one that goes on are prefixes. -/
theorem leads_runInstruction {s : State} (hs : Sound s) : Leads s s.runInstruction := by
  unfold State.runInstruction
  split
  · rename_i d hd
    exact (Leads.after (evolves_beginInst s d _ (hs.2.2.2 d hd)) (runItems_leads _ _)).finish
  · dsimp only
    split_ifs
    · exact Leads.after ((evolves_tick s 1).trans (evolves_tick _ _)) (leads_fetchFault _ _ _)
    · exact Leads.after (evolves_tick s 1) (leads_fetchExecute _)
    · exact leads_fetchExecute s

/-! ### The boundary (60 R553-R557, R575) -/

theorem evolves_request {s u : State} {q : Source} {ev : Event} (h : s.request q = some (ev, u)) : Evolves s u := by
  cases q with
  | exc =>
    simp only [State.request] at h
    obtain ⟨e, -, he⟩ := Option.map_eq_some_iff.mp h
    cases he
    exact .of_fields rfl rfl rfl rfl id
  | intr =>
    simp only [State.request] at h
    split at h
    · split_ifs at h
      cases h
      exact .refl s
    · cases h
  | step | nmi | overrun =>
    simp only [State.request] at h
    split_ifs at h
    cases h
    exact .of_fields rfl rfl rfl rfl id

theorem leads_interrupt (s : State) (ev : Event) : Leads s (s.interrupt ev) := by
  refine Leads.after ?_ (leads_raise _ _ _)
  exact .of_fields rfl rfl rfl rfl fun _ => prefixesOnly_none rfl

theorem leads_deliverEach {k : State → Answer} (hk : ∀ s, Sound s → Leads s (k s)) (qs : List Source) :
    ∀ s, Sound s → Leads s (deliverEach k qs s) := by
  induction qs with
  | nil => exact hk
  | cons q qs ih =>
    intro s hs t ht
    unfold deliverEach at ht
    split at ht
    · exact ih s hs t ht
    · rename_i ev u hq
      have hu := evolves_request hq
      cases hd : u.interrupt ev with
      | next v =>
        rw [hd] at ht
        have hv := hu.trans (leads_interrupt u ev v hd)
        dsimp only at ht
        split_ifs at ht
        · have hy := hv.trans (evolves_yieldBus v)
          exact hy.trans (ih _ (hy.1 hs) t ht)
        · cases ht
          exact hv
      | fault f => rw [hd] at ht; cases ht
      | refused r => rw [hd] at ht; cases ht

theorem pe_afterShutdown (s : State) : s.afterShutdown.pe = s.pe := by
  simp [State.pe, State.afterShutdown]

/-- An NMI out of shutdown finds free values in the registers, but for PE, bits 15-4 of MSW, and IOPL and NT in real
mode. -/
theorem evolves_afterShutdown (s : State) : Evolves s s.afterShutdown := by
  refine ⟨fun ⟨hst, hfl, hhigh, hpre⟩ => ⟨hst, fun hpe => ?_, ?_, hpre⟩, fun hpe => (pe_afterShutdown s).trans hpe⟩
  · have hpe : s.pe = false := (pe_afterShutdown s).symm.trans hpe
    simp only [State.afterShutdown, hpe]
    exact hfl hpe
  · refine Eq.trans ?_ hhigh
    simp only [State.afterShutdown]
    ext i hi
    have hlt : i < 12 := hi
    interval_cases i <;> simp

theorem leads_shutdownStep {k : State → Answer} (hk : ∀ s, Sound s → Leads s (k s)) (s : State) (hs : Sound s) :
    Leads s (s.shutdownStep k) := by
  unfold State.shutdownStep
  split_ifs
  · dsimp only
    split_ifs
    · have hfree : Evolves s { s.afterShutdown with inhibit := .none } :=
        (evolves_afterShutdown s).trans (.of_fields rfl rfl rfl rfl id)
      exact Leads.after hfree (leads_deliverEach hk _ _ (hfree.1 hs))
    · exact .next (.of_fields rfl rfl rfl rfl id)
  · exact .next (.refl s)

theorem leads_proceed {s : State} (hs : Sound s) : Leads s s.proceed := by
  have hrun : ∀ s, Sound s → Leads s s.runInstruction := fun s hs => leads_runInstruction hs
  unfold State.proceed
  split
  · exact leads_shutdownStep hrun s hs
  · split_ifs
    · exact leads_deliverEach hrun _ s hs
    · exact .next (.refl s)
  · exact leads_deliverEach hrun _ s hs

/-! ### The inputs and RESET -/

theorem grants_wf (ws : List BusSlot) : ∀ s : State, s.mem.wf = true → (s.grants ws).mem.wf = true := by
  induction ws with
  | nil => exact fun _ h => h
  | cons w ws ih => exact fun s h => ih _ (State.grant_wf s w h)

/-- The state once the inputs are read and other users of the bus have had their turn. -/
theorem shareBus_keeps (s : State) : s.nextSample.shareBus.latchNmi.flags = s.flags ∧
    s.nextSample.shareBus.latchNmi.msw = s.msw ∧ s.nextSample.shareBus.latchNmi.inst = s.inst ∧
    (s.mem.wf = true → s.nextSample.shareBus.latchNmi.mem.wf = true) := by
  have hnext : s.nextSample.flags = s.flags ∧ s.nextSample.msw = s.msw ∧ s.nextSample.inst = s.inst ∧
      s.nextSample.mem = s.mem := by
    unfold State.nextSample
    split <;> exact ⟨rfl, rfl, rfl, rfl⟩
  obtain ⟨hflags, hmsw, hinst, hmem⟩ := hnext
  unfold State.latchNmi State.shareBus
  dsimp only
  split_ifs
  · exact ⟨hflags, hmsw, hinst, fun h => by rwa [hmem]⟩
  · exact ⟨by simp [hflags], by simp [hmsw], by simp [hinst], fun h => grants_wf _ _ (by rwa [hmem])⟩

theorem sample_keeps (s : State) : s.sample.flags = s.flags ∧ s.sample.msw = s.msw ∧ s.sample.inst = s.inst ∧
    (s.mem.wf = true → s.sample.mem.wf = true) := by
  obtain ⟨hflags, hmsw, hinst, hmem⟩ := shareBus_keeps s
  unfold State.sample
  dsimp only
  split_ifs
  · exact ⟨by simp [hflags], by simp [hmsw], by simp [hinst], fun h => State.serveExtension_wf _ _ (hmem h)⟩
  · exact ⟨hflags, hmsw, hinst, hmem⟩

theorem sample_sound {s : State} (h : s.Inv) : Sound s.sample := by
  obtain ⟨hwf, hfl, hhigh, hpre⟩ := h
  obtain ⟨hflags, hmsw, hinst, hmem⟩ := sample_keeps s
  exact ⟨⟨hmem hwf, fun c hc => nomatch hc⟩, realFlags_congr hflags hmsw hfl, mswHigh_congr hmsw hhigh,
    prefixesOnly_congr (by rw [hinst]) hpre⟩

/-- Stores at addresses of memory keep its canonical form. -/
theorem foldl_set_wf (cs : List Host.Cell) (h : ∀ c ∈ cs, c.1 < 2 ^ 24) :
    ∀ m : Memory, m.wf = true → (cs.foldl (fun m c => m.set c.1 c.2) m).wf = true := by
  induction cs with
  | nil => exact fun _ hm => hm
  | cons c cs ih =>
    exact fun m hm => ih (fun d hd => h d (List.mem_cons_of_mem c hd)) _
      (Memory.set_wf m c.1 c.2 (h c List.mem_cons_self) hm)

theorem cpuReset_inv {s : State} (h : s.mem.wf = true) : s.cpuReset.Inv :=
  ⟨h, fun _ => ⟨rfl, rfl⟩, (by decide : (0xFFF0#16 : Word).extractLsb' 4 12 = 0xFFF#12), prefixesOnly_none rfl⟩

theorem resetAfter_inv {s : State} (hs : Sound s) (k : Nat) {a : Answer} (ha : Leads s a) :
    (s.resetAfter k a).Inv := by
  cases a with
  | next t =>
    obtain ⟨-, hwrites⟩ := ((ha t rfl).1 hs).1
    exact cpuReset_inv (foldl_set_wf _ (fun c hc => hwrites c (List.mem_reverse.mp (List.mem_of_mem_take hc))) _ hs.1.1)
  | fault _ => exact cpuReset_inv hs.1.1
  | refused _ => exact cpuReset_inv hs.1.1

/-- Settles O56: the inputs leave a sound state; what the step then does leads to one, and RESET to the reset state with
some of the step's stores. -/
theorem stepKeepsInvariant : Obligations.StepKeepsInvariant := by
  unfold Obligations.StepKeepsInvariant
  intro s t hs ht
  have hsample := sample_sound hs
  have hlead := leads_proceed hsample
  unfold step at ht
  dsimp only at ht
  split at ht
  · cases ht
    exact resetAfter_inv hsample _ hlead
  · split_ifs at ht
    · cases ht
      exact hsample.inv
    · exact ((hlead t ht).1 hsample).inv

/-- Settles O57: the reset state's fields. -/
theorem resetHasInvariant : Obligations.ResetHasInvariant := by
  unfold Obligations.ResetHasInvariant
  exact cpuReset_inv (s := State.reset) rfl

/-! ### The system registers -/

/-- GDTR, IDTR and every bit of MSW but TS are as before. -/
def SystemKept (s t : State) : Prop := t.gdtr = s.gdtr ∧ t.idtr = s.idtr ∧ t.msw ||| 8#16 = s.msw ||| 8#16

theorem SystemKept.of_keeps {s t : State} (h : s.Keeps t) : SystemKept s t := ⟨h.gdtr, h.idtr, h.msw⟩

theorem SystemKept.refl (s : State) : SystemKept s s := ⟨rfl, rfl, rfl⟩

theorem SystemKept.trans {s t u : State} (h : SystemKept s t) (k : SystemKept t u) : SystemKept s u :=
  ⟨k.1.trans h.1, k.2.1.trans h.2.1, k.2.2.trans h.2.2⟩

theorem SystemKept.bits {s t : State} (h : SystemKept s t) : t.gdtr = s.gdtr ∧ t.idtr = s.idtr ∧ t.pe = s.pe ∧
    t.msw.getLsbD 1 = s.msw.getLsbD 1 ∧ t.msw.getLsbD 2 = s.msw.getLsbD 2 := by
  obtain ⟨hgdtr, hidtr, hmsw⟩ := h
  have hone := congrArg (fun v => BitVec.getLsbD v 1) hmsw
  have htwo := congrArg (fun v => BitVec.getLsbD v 2) hmsw
  exact ⟨hgdtr, hidtr, pe_of_msw hmsw, by simpa using hone, by simpa using htwo⟩

/-! ### An instruction at an outer level -/

/-- An exception taken leaves no further item of its instruction to run. -/
theorem raiseDouble_inactive {ev : Event} {ra : Word} {s t : State} (h : raiseDouble ev ra s = .next t) :
    t.inst.active = false := by
  unfold raiseDouble at h
  dsimp only at h
  split at h <;> cases h <;> rfl

theorem raise_inactive {ev : Event} {ra : Word} {s t : State} (h : raise ev ra s = .next t) :
    t.inst.active = false := by
  unfold raise at h
  dsimp only at h
  split at h
  case h_3 | h_4 | h_5 => exact raiseDouble_inactive h
  all_goals
    cases h
    try rfl

/-- Where the privilege test fails, the three instructions that write the system registers stop before they do. -/
theorem exec_preserves_of_not_supervisor (i : Instr) {s : State} (h : s.supervisor = false) :
    Preserves s (exec i s) := by
  have hcheck : s.supervisorCheck = .error (.exc (Exc.gp 0)) := by rw [State.supervisorCheck, h]; rfl
  cases hsys : writesSystem i with
  | false => exact exec_preserves i s hsys
  | true =>
    cases i with
    | lmsw rm =>
      refine preserves_complete ?_
      rw [hcheck]
      trivial
    | lgdt m | lidt m =>
      refine preserves_complete ?_
      rw [State.readTable, hcheck]
      trivial
    | _ => cases hsys

/-- A prefix that does not end in an exception leaves the level as it is. -/
theorem exec_prefix_supervisor {p : Instr} (hp : p.isPrefix = true) {s t : State} (h : exec p s = .next t)
    (hactive : t.inst.active = true) : t.supervisor = s.supervisor := by
  cases p with
  | rep | repne | seg sr =>
    cases h
    rfl
  | lock =>
    change complete s (s.ioCheck >>= fun _ => _) = _ at h
    cases hio : s.ioAllowed with
    | true =>
      rw [State.ioCheck, hio, ensure_true, exe_bind_ok] at h
      cases h
      rfl
    | false =>
      rw [State.ioCheck, hio, ensure_false, exe_bind_error, complete_exc] at h
      rw [raise_inactive h] at hactive
      cases hactive
  | _ => cases hp

theorem runItems_outer {i : Instr} (ps : List Instr) (hps : ∀ p ∈ ps, p.isPrefix = true) : ∀ {s t : State},
    s.supervisor = false → runItems (ps ++ [i]) s = .next t → SystemKept s t := by
  induction ps with
  | nil =>
    intro s t hs ht
    rw [List.nil_append, runItems] at ht
    cases hex : exec i s with
    | next u =>
      rw [hex] at ht
      have hu := SystemKept.of_keeps (exec_preserves_of_not_supervisor i hs u hex)
      dsimp only [runItems] at ht
      split_ifs at ht <;> cases ht <;> exact hu
    | fault r => rw [hex] at ht; cases ht
    | refused r => rw [hex] at ht; cases ht
  | cons p ps ih =>
    intro s t hs ht
    rw [List.cons_append, runItems] at ht
    cases hex : exec p s with
    | next u =>
      rw [hex] at ht
      have hu := SystemKept.of_keeps (exec_preserves_of_not_supervisor p hs u hex)
      dsimp only at ht
      split_ifs at ht with hactive
      · have hlevel := exec_prefix_supervisor (hps p List.mem_cons_self) hex hactive
        exact hu.trans (ih (fun q hq => hps q (List.mem_cons_of_mem p hq)) (hlevel.trans hs) ht)
      · cases ht
        exact hu
    | fault r => rw [hex] at ht; cases ht
    | refused r => rw [hex] at ht; cases ht

theorem finish_systemKept {s u : State} {a : Answer} (h : ∀ t, a = .next t → SystemKept s t) {t : State}
    (ht : finish u a = .next t) : SystemKept s t := by
  cases a with
  | next v =>
    cases ht
    exact h v rfl
  | fault r => cases ht
  | refused r => cases ht

theorem fetchFault_systemKept {s t : State} {e : Exc} {real : Bool} (h : s.fetchFault e real = .next t) :
    SystemKept s t := by
  refine finish_systemKept (fun u hu => ?_) h
  obtain ⟨hgdtr, hidtr, hmsw⟩ := SystemKept.of_keeps (raise_keeps hu)
  exact ⟨hgdtr, hidtr, hmsw⟩

theorem supervisor_tick (s : State) (n : Nat) : (s.tick n).supervisor = s.supervisor := rfl

theorem supervisor_yieldBus (s : State) : s.yieldBus.supervisor = s.supervisor := by
  simp [State.supervisor, State.yieldBus_prot, State.yieldBus_cpl]

/-- An instruction under the rules of protected mode begins at the level the state has. -/
theorem supervisor_beginInst {s : State} (hreal : s.inst.realRules = false) (d : Decoded) :
    (s.beginInst d false).supervisor = s.supervisor := by
  have hprot : (s.beginInst d false).prot = s.prot := by
    rw [State.prot, State.prot, hreal]
    rfl
  rw [State.supervisor, State.supervisor, State.cpl, State.cpl, hprot]
  rfl

/-- With no LMSW near, no draw decides about the mode's rules. -/
theorem drawsReal_false {s : State} (h : s.fetch.lmswAt = none) (i : Option Instr) : s.drawsReal i = false := by
  have hnear : s.nearLmsw = false := by rw [State.nearLmsw, h]
  rw [State.drawsReal, State.inLmswWindow, hnear]
  rfl

theorem fetchExecute_systemKept {s t : State} (hlevel : s.supervisor = false) (hreal : s.inst.realRules = false)
    (hlmsw : s.fetch.lmswAt = none) (h : s.fetchExecute = .next t) : SystemKept s t := by
  unfold State.fetchExecute at h
  split at h
  · rename_i d hd
    split_ifs at h
    refine finish_systemKept (fun u hu => ?_) h
    have hbegin : (s.beginFetched d).yieldBus.supervisor = false := by
      rw [supervisor_yieldBus, State.beginFetched, supervisor_tick, drawsReal_false hlmsw,
        supervisor_beginInst hreal, hlevel]
    obtain ⟨hgdtr, hidtr, hmsw⟩ := (SystemKept.of_keeps (State.keeps_yieldBus _)).trans
      (runItems_outer d.prefixes (fetchDecode_prefixes hd) hbegin hu)
    exact ⟨hgdtr, hidtr, hmsw⟩
  · obtain ⟨hgdtr, hidtr, hmsw⟩ := fetchFault_systemKept h
    exact ⟨hgdtr, hidtr, hmsw⟩

theorem runInstruction_systemKept {s t : State} (hpre : s.PrefixesOnly) (hlevel : s.supervisor = false)
    (hreal : s.inst.realRules = false) (hlmsw : s.fetch.lmswAt = none) (h : s.runInstruction = .next t) :
    SystemKept s t := by
  unfold State.runInstruction at h
  split at h
  · rename_i d hd
    refine finish_systemKept (fun u hu => ?_) h
    rw [hreal] at hu
    obtain ⟨hgdtr, hidtr, hmsw⟩ :=
      runItems_outer d.prefixes (hpre d hd) ((supervisor_beginInst hreal d).trans hlevel) hu
    exact ⟨hgdtr, hidtr, hmsw⟩
  · dsimp only at h
    split_ifs at h
    · obtain ⟨hgdtr, hidtr, hmsw⟩ := fetchFault_systemKept h
      exact ⟨hgdtr, hidtr, hmsw⟩
    · obtain ⟨hgdtr, hidtr, hmsw⟩ := fetchExecute_systemKept (s := s.tick 1) hlevel hreal hlmsw h
      exact ⟨hgdtr, hidtr, hmsw⟩
    · exact fetchExecute_systemKept hlevel hreal hlmsw h

/-- Settles O58: nothing that follows the inputs clears PE; a delivery keeps the system registers; and at an outer level
the privilege test stops what would write them. -/
theorem systemRegistersProtected : Obligations.SystemRegistersProtected := by
  unfold Obligations.SystemRegistersProtected
  refine ⟨fun s t hs ht hreset hpe => ?_, fun ev ra s t ht => ?_, fun s t hpre hpe hcpl hreal hlmsw ht => ?_⟩
  · have hpe : s.sample.pe = true := (pe_congr (sample_keeps s).2.1).trans hpe
    simp only [step, hreset] at ht
    split_ifs at ht
    · cases ht
      exact hpe
    · exact (leads_proceed (sample_sound hs) t ht).2 hpe
  · exact (SystemKept.of_keeps (raise_keeps ht)).bits
  · have hlevel : s.supervisor = false := by
      rw [State.supervisor, State.prot, hpe, hreal, decide_eq_false hcpl]
      rfl
    exact (runInstruction_systemKept hpre hlevel hreal hlmsw ht).bits

end Sys2Proof.Proofs.Other
end

section
/-! The two-operand instructions by operation and form, and INC and DEC. -/

namespace Sys2Proof.Proofs.Other

open Sys2Proof Sys2Proof.Machine

set_option Elab.async false

/-! ### One operation in all its forms (30 R189, R191, R192) -/

theorem holds_addResult (w : Width) (c : Bool) (a b : Word) : w.Holds (addResult w c a b) := holds_ofNat_mod w _

theorem holds_subResult (w : Width) (c : Bool) (a b : Word) : w.Holds (subResult w c a b) := holds_ofNat_mod w _

/-- What the machine does for an operation and a form. -/
def runForm (op : AluOp) : AluForm → State → Answer
  | .rmReg d w rm r => aluRmReg op d w rm r
  | .accImm x => aluAccImm op x
  | .rmImm rm x => aluRmImm op rm x
  | .rmImm8 rm v => aluRmImm8 op rm v

theorem exec_form {op : AluOp} {x : AluForm} {i : Instr} (h : x.instr op = some i) (s : State) :
    exec i s = runForm op x s := by
  cases x <;> cases op <;> cases h <;> rfl

theorem complete_aluToReg {op : AluOp} {w : Width} {rm : Rm} {s : State} (h : s.rmReadFault w rm = none) (r : Reg) :
    aluToReg op w rm r s = .next (s.aluWrite op w (.reg r) (s.reg w r) (s.rmValue w rm)) := by
  rw [aluToReg, s.readRm_ok w rm h, exe_bind_ok, complete_ok]

/-- A form whose operand passes its check leaves what the operation writes. -/
theorem exec_form_next {op : AluOp} {x : AluForm} {i : Instr} {s : State} (h : x.instr op = some i)
    (hready : x.ready (decide (op ≠ .cmp)) s) :
    exec i s = .next (s.aluWrite op x.width x.dest (s.rmValue x.width x.dest) (x.source s)) := by
  have hcheck : ∀ w rm, (if decide (op ≠ .cmp) = true then s.rmWriteFault w rm else s.rmReadFault w rm) = none →
      (if op = .cmp then s.rmReadFault w rm else s.rmWriteFault w rm) = none := fun w rm h => by
    by_cases hop : op = .cmp <;> simpa [hop] using h
  rw [exec_form h]
  cases x with
  | rmReg d w rm r =>
    cases d with
    | toRm => exact aluToRm_next op w rm _ s (hcheck w rm hready)
    | toReg => exact complete_aluToReg hready r
  | accImm x => exact aluToRm_next op _ _ _ s (ite_self none)
  | rmImm rm x => exact aluToRm_next op _ rm _ s (hcheck _ rm hready)
  | rmImm8 rm v => exact aluToRm_next op _ rm _ s (hcheck _ rm hready)

theorem holds_source (x : AluForm) (s : State) : x.width.Holds (x.source s) := by
  cases x with
  | rmReg d w rm r =>
    cases d with
    | toRm => exact s.holds_reg w r
    | toReg => exact s.holds_rmValue w rm
  | accImm x => exact x.holds_value
  | rmImm rm x => exact x.holds_value
  | rmImm8 rm v => exact Width.holds_word _

/-! ### Addition (41 R281-R285) -/

theorem carryIn (p : Prop) [Decidable p] (cf : Bool) : (if p ∧ cf = true then 1 else 0) = (decide p && cf).toNat := by
  by_cases hp : p <;> cases cf <;> simp [hp]

/-- ADD and ADC are the same addition; ADC's carry in is CF. -/
theorem addition_op {op : AluOp} (h : op = .add ∨ op = .adc) (f : Flags) (w : Width) (a b : Word) (free : Bool) :
    op ≠ .cmp ∧ op.result w f.cf a b = addResult w (decide (op = .adc) && f.cf) a b ∧
      op.flags f w a b free = f.add w (decide (op = .adc) && f.cf) a b := by
  rcases h with rfl | rfl <;> exact ⟨nofun, rfl, rfl⟩

/-- Settles O1: every form is one addition of its operands, whose flags are those of the sum. -/
theorem additionResult : Obligations.AdditionResult := by
  unfold Obligations.AdditionResult
  intro op x i s hop hi hready
  obtain ⟨hne, hresult, hflags⟩ := addition_op hop s.flags x.width (s.rmValue x.width x.dest) (x.source s) (s.freeBit 0)
  obtain ⟨hframe, hwrites, hleft⟩ :=
    s.aluWrite_spec op x.width x.dest (s.rmValue x.width x.dest) (x.source s) hne
  rw [hresult, Width.trunc_of_holds _ _ (holds_addResult ..)] at hwrites
  rw [hflags] at hleft
  simp only [carryIn]
  refine ⟨_, exec_form_next hi (by simpa [hne] using hready), hframe, hwrites, ?_⟩
  rw [hleft]
  exact s.flags.add_spec x.width _ _ _ (s.holds_rmValue _ _) (holds_source x s)

/-! ### Subtraction (41 R281, R289-R296) -/

theorem eq_ofInt_of_toNat {v : Word} {n : Int} (h : (v.toNat : Int) = n) : v = BitVec.ofInt 16 n := by
  rw [← h]
  simp

/-- SUB and SBB are the same subtraction; SBB's borrow in is CF. -/
theorem subtraction_op {op : AluOp} (h : op = .sub ∨ op = .sbb) (f : Flags) (w : Width) (a b : Word) (free : Bool) :
    op ≠ .cmp ∧ op.result w f.cf a b = subResult w (decide (op = .sbb) && f.cf) a b ∧
      op.flags f w a b free = f.sub w (decide (op = .sbb) && f.cf) a b := by
  rcases h with rfl | rfl <;> exact ⟨nofun, rfl, rfl⟩

/-- The difference modulo 2^n as the machine computes it. -/
theorem subResult_eq_ofInt (w : Width) (c : Bool) (a b : Word) (ha : w.Holds a) (hb : w.Holds b) :
    subResult w c a b = BitVec.ofInt 16 (((a.toNat : Int) - b.toNat - c.toNat) % 2 ^ w.bits) :=
  eq_ofInt_of_toNat (subResult_toNat w c a b ha hb)

/-- What CMP leaves: flags alone. -/
theorem aluWrite_cmp (s : State) (w : Width) (rm : Rm) (a b : Word) :
    s.aluWrite .cmp w rm a b = { s with flags := s.flags.sub w false a b } := rfl

/-- Settles O2: every form is one subtraction; CMP's leaves its flags alone. -/
theorem subtractionResult : Obligations.SubtractionResult := by
  unfold Obligations.SubtractionResult
  constructor
  · intro op x i s hop hi hready
    have ha := s.holds_rmValue x.width x.dest
    have hb := holds_source x s
    obtain ⟨hne, hresult, hflags⟩ :=
      subtraction_op hop s.flags x.width (s.rmValue x.width x.dest) (x.source s) (s.freeBit 0)
    obtain ⟨hframe, hwrites, hleft⟩ :=
      s.aluWrite_spec op x.width x.dest (s.rmValue x.width x.dest) (x.source s) hne
    have hspec := s.flags.sub_spec x.width (decide (op = .sbb) && s.flags.cf) _ _ ha hb
    rw [hresult, Width.trunc_of_holds _ _ (holds_subResult ..)] at hwrites
    rw [subResult_eq_ofInt _ _ _ _ ha hb] at hwrites hspec
    rw [hflags] at hleft
    simp only [carryIn]
    refine ⟨_, exec_form_next hi (by simpa [hne] using hready), hframe, hwrites, ?_⟩
    rw [hleft]
    exact hspec
  · intro x i s hi hready
    have ha := s.holds_rmValue x.width x.dest
    have hb := holds_source x s
    have hspec := s.flags.sub_spec x.width false _ _ ha hb
    rw [subResult_eq_ofInt _ _ _ _ ha hb, Bool.toNat_false, Nat.cast_zero, sub_zero, sub_zero, Nat.add_zero,
      Nat.add_zero] at hspec
    refine ⟨_, exec_form_next hi hready, ?_⟩
    rw [aluWrite_cmp]
    exact ⟨rfl, hspec⟩

/-! ### AND, OR, XOR (42 R330-R337) -/

theorem holds_or {w : Width} {a b : Word} (ha : w.Holds a) (hb : w.Holds b) : w.Holds (a ||| b) := by
  rw [Width.Holds, BitVec.toNat_or]
  exact Nat.or_lt_two_pow ha hb

theorem holds_xor {w : Width} {a b : Word} (ha : w.Holds a) (hb : w.Holds b) : w.Holds (a ^^^ b) := by
  rw [Width.Holds, BitVec.toNat_xor]
  exact Nat.xor_lt_two_pow ha hb

/-- A bitwise operation's result is of the operands' width, and its flags are LogicFlags of it. -/
theorem logic_op {op : AluOp} (h : op = .and ∨ op = .or ∨ op = .xor) (f : Flags) {w : Width} {a b : Word}
    (ha : w.Holds a) (hb : w.Holds b) (free : Bool) :
    op ≠ .cmp ∧ w.Holds (op.result w f.cf a b) ∧ op.flags f w a b free = f.logic w (op.result w f.cf a b) free ∧
      ∀ k, (op.result w f.cf a b).getLsbD k =
        if op = .and then a.getLsbD k && b.getLsbD k
        else if op = .or then a.getLsbD k || b.getLsbD k
        else a.getLsbD k ^^ b.getLsbD k := by
  rcases h with rfl | rfl | rfl
  · exact ⟨nofun, Logic.holds_and ha b, rfl, fun _ => BitVec.getLsbD_and⟩
  · exact ⟨nofun, holds_or ha hb, rfl, fun _ => BitVec.getLsbD_or⟩
  · exact ⟨nofun, holds_xor ha hb, rfl, fun _ => BitVec.getLsbD_xor⟩

/-- Settles O3: every form writes the bitwise result and LogicFlags of it. -/
theorem logicResult : Obligations.LogicResult := by
  unfold Obligations.LogicResult
  intro op x i s hop hi hready
  obtain ⟨hne, hholds, hflags, hbits⟩ :=
    logic_op hop s.flags (s.holds_rmValue x.width x.dest) (holds_source x s) (s.freeBit 0)
  obtain ⟨hframe, hwrites, hleft⟩ :=
    s.aluWrite_spec op x.width x.dest (s.rmValue x.width x.dest) (x.source s) hne
  obtain ⟨hstatus, hof, hcf, hshow⟩ := Logic.flags_logic s.flags hholds (s.freeBit 0)
  rw [Width.trunc_of_holds _ _ hholds] at hwrites
  rw [hflags] at hleft
  refine ⟨_, _, exec_form_next hi (by simpa [hne] using hready), hframe, hwrites, ?_⟩
  rw [hleft]
  exact ⟨hstatus, hbits, hof, hcf, hshow⟩

/-! ### INC and DEC (41 R286, R293) -/

theorem holds_one (w : Width) : w.Holds 1 := by
  cases w
  · exact (by norm_num : 1 < 2 ^ 8)
  · exact Width.holds_word 1

theorem toInt_one (w : Width) : w.toInt 1 = 1 := by cases w <;> rfl

theorem addResult_one_eq_ofInt (w : Width) (a : Word) :
    addResult w false a 1 = BitVec.ofInt 16 (((a.toNat : Int) + 1) % 2 ^ w.bits) := by
  refine eq_ofInt_of_toNat ?_
  rw [addResult, toNat_ofNat_mod]
  norm_cast

theorem subResult_one_eq_ofInt (w : Width) (a : Word) (ha : w.Holds a) :
    subResult w false a 1 = BitVec.ofInt 16 (((a.toNat : Int) + -1) % 2 ^ w.bits) := by
  rw [subResult_eq_ofInt w false a 1 ha (holds_one w), Bool.toNat_false, Nat.cast_zero, sub_zero]
  rfl

/-- The flags of INC, in plain arithmetic. -/
theorem flags_inc (f : Flags) (w : Width) (a : Word) (ha : w.Holds a) :
    f.StatusOnly (f.inc w a) ∧ (f.inc w a).ShowResult w (addResult w false a 1) ∧ (f.inc w a).cf = f.cf ∧
      (f.inc w a).af = decide (a.toNat % 16 = 15) ∧ (f.inc w a).of = !w.fits (w.toInt a + 1) := by
  obtain ⟨-, hshow, -, haf, hof⟩ := f.add_spec w false a 1 ha (holds_one w)
  refine ⟨rfl, hshow, rfl, haf.trans ?_, hof.trans ?_⟩
  · rw [decide_eq_decide, Bool.toNat_false, show (1 : Word).toNat = 1 from rfl]
    omega
  · rw [toInt_one, Bool.toNat_false, Nat.cast_zero, add_zero]

/-- The flags of DEC. -/
theorem flags_dec (f : Flags) (w : Width) (a : Word) (ha : w.Holds a) :
    f.StatusOnly (f.dec w a) ∧ (f.dec w a).ShowResult w (subResult w false a 1) ∧ (f.dec w a).cf = f.cf ∧
      (f.dec w a).af = decide (a.toNat % 16 = 0) ∧ (f.dec w a).of = !w.fits (w.toInt a + -1) := by
  obtain ⟨-, hshow, -, haf, hof⟩ := f.sub_spec w false a 1 ha (holds_one w)
  refine ⟨rfl, hshow, rfl, haf.trans ?_, hof.trans ?_⟩
  · rw [decide_eq_decide, Bool.toNat_false, show (1 : Word).toNat = 1 from rfl]
    omega
  · rw [toInt_one, Bool.toNat_false, Nat.cast_zero, sub_zero]
    rfl

/-- The forms of INC and DEC: the register forms are those of a word register operand. -/
theorem exec_incDec {i : Instr} {w : Width} {rm : Rm} {up : Bool}
    (h : (i = .incRm w rm ∧ up = true) ∨ (i = .decRm w rm ∧ up = false) ∨
      (∃ r, w = .word ∧ rm = .reg r ∧ ((i = .incReg r ∧ up = true) ∨ (i = .decReg r ∧ up = false)))) (s : State) :
    (up = true ∧ exec i s = modifyWith w rm (fun a => addResult w false a 1) (s.flags.inc w) s) ∨
      (up = false ∧ exec i s = modifyWith w rm (fun a => subResult w false a 1) (s.flags.dec w) s) := by
  rcases h with ⟨rfl, rfl⟩ | ⟨rfl, rfl⟩ | ⟨r, rfl, rfl, ⟨rfl, rfl⟩ | ⟨rfl, rfl⟩⟩
  · exact .inl ⟨rfl, rfl⟩
  · exact .inr ⟨rfl, rfl⟩
  · exact .inl ⟨rfl, rfl⟩
  · exact .inr ⟨rfl, rfl⟩

/-- Settles O5: a read-modify-write by the addition or subtraction of 1, CF put back. -/
theorem incrementKeepsCarry : Obligations.IncrementKeepsCarry := by
  unfold Obligations.IncrementKeepsCarry
  intro i w rm up s hform hpass
  have ha := s.holds_rmValue w rm
  rcases exec_incDec hform s with ⟨rfl, hexec⟩ | ⟨rfl, hexec⟩
  · obtain ⟨t, hnext, hframe, hwrites, hflags⟩ :=
      Arithmetic.modifyWith_result (fun a => addResult w false a 1) (s.flags.inc w) hpass (holds_ofNat_mod w _)
    have hspec := flags_inc s.flags w _ ha
    rw [addResult_one_eq_ofInt] at hwrites hspec
    refine ⟨t, hexec.trans hnext, hframe, hwrites, ?_⟩
    rw [hflags]
    exact hspec
  · obtain ⟨t, hnext, hframe, hwrites, hflags⟩ :=
      Arithmetic.modifyWith_result (fun a => subResult w false a 1) (s.flags.dec w) hpass (holds_ofNat_mod w _)
    have hspec := flags_dec s.flags w _ ha
    rw [subResult_one_eq_ofInt w _ ha] at hwrites hspec
    refine ⟨t, hexec.trans hnext, hframe, hwrites, ?_⟩
    rw [hflags]
    exact hspec

end Sys2Proof.Proofs.Other
end

section
/-! Multiplication, division, the decimal and ASCII adjusts and the sign extensions. -/

namespace Sys2Proof.Proofs.Other

open Sys2Proof Sys2Proof.Machine

set_option Elab.async false

/-! ### Registers as pairs of halves -/

theorem sameBut_set (g : Regs) (r : Reg) (v : Word) : g.SameBut (g.set r v) .word r :=
  fun _ h => Regs.get_set_other g h v

theorem reg16_setPair (s : State) (dx ax : Word) {q : Reg} (hax : q ≠ .ax) (hdx : q ≠ .dx) :
    (s.setPair dx ax).reg16 q = s.reg16 q := by
  show ((s.regs.set .dx dx).set .ax ax).get q = _
  rw [Regs.get_set_other _ hax, Regs.get_set_other _ hdx]
  rfl

@[simp] theorem setAlAh_al (s : State) (al ah : Byte) : (s.setAlAh al ah).al = al := low_append ah al

@[simp] theorem setAlAh_ah (s : State) (al ah : Byte) : (s.setAlAh al ah).ah = ah := high_append ah al

/-- The upper half of a value is not 0 where the value does not fit the lower half. -/
theorem high_ne_zero {n : Nat} (v : BitVec (n + n)) : v.extractLsb' n n ≠ 0 ↔ 2 ^ n ≤ v.toNat := by
  have hv : v.toNat / 2 ^ n < 2 ^ n := Nat.div_lt_of_lt_mul (by rw [← pow_add]; exact v.isLt)
  rw [← not_lt, not_iff_not, ← BitVec.toNat_inj, BitVec.extractLsb'_toNat, Nat.shiftRight_eq_div_pow,
    Nat.mod_eq_of_lt hv]
  simp [Nat.div_eq_zero_iff]

theorem pair_toNat (v : BitVec 32) : (v.extractLsb' 16 16).toNat * 2 ^ 16 + (v.extractLsb' 0 16).toNat = v.toNat := by
  have := v.isLt
  simp only [BitVec.extractLsb'_toNat, Nat.shiftRight_eq_div_pow]
  omega

theorem pair_toInt (v : BitVec 32) : (v.extractLsb' 16 16).toInt * 2 ^ 16 + (v.extractLsb' 0 16).toNat = v.toInt := by
  have := v.isLt
  simp only [BitVec.toInt_eq_toNat_cond, BitVec.extractLsb'_toNat, Nat.shiftRight_eq_div_pow]
  split_ifs <;> omega

theorem append_toInt (x y : Word) : (x ++ y).toInt = x.toInt * 2 ^ 16 + y.toNat := by
  rw [← pair_toInt, append_high, append_low]

/-- An integer that fits a width is the value of its two's complement bits. -/
theorem toInt_ofInt_of_bounds {n : Nat} {z : Int} (hn : 0 < n) (hlow : -2 ^ (n - 1) ≤ z) (hhigh : z < 2 ^ (n - 1)) :
    (BitVec.ofInt n z).toInt = z := by
  obtain ⟨m, rfl⟩ : ∃ m, n = m + 1 := ⟨n - 1, by omega⟩
  rw [BitVec.toInt_ofInt]
  refine Int.bmod_eq_of_le ?_ ?_ <;> rw [Nat.add_sub_cancel] at * <;> push_cast [pow_succ] <;> omega

theorem fits_iff (w : Width) (z : Int) : w.fits z = true ↔ -2 ^ (w.bits - 1) ≤ z ∧ z < 2 ^ (w.bits - 1) := by
  rw [Width.fits, Bool.and_eq_true, decide_eq_true_eq, decide_eq_true_eq]

theorem outside_byte (z : Int) : decide (z < -128 ∨ 127 < z) = !Width.fits .byte z := by
  rw [Bool.eq_iff_iff, decide_eq_true_eq, Bool.not_eq_true', ← Bool.not_eq_true, fits_iff]
  norm_num [Width.bits]
  omega

theorem outside_word (z : Int) : decide (z < -32768 ∨ 32767 < z) = !Width.fits .word z := by
  rw [Bool.eq_iff_iff, decide_eq_true_eq, Bool.not_eq_true', ← Bool.not_eq_true, fits_iff]
  norm_num [Width.bits]
  omega

theorem reg_byte_ax (s : State) : s.reg .byte .ax = zeroExtend s.al := rfl

theorem toNat_zeroExtend (b : Byte) : (zeroExtend b).toNat = b.toNat := by
  rw [zeroExtend, BitVec.toNat_setWidth]
  have := b.isLt
  omega

theorem low_zeroExtend (b : Byte) : (zeroExtend b).extractLsb' 0 8 = b := by
  apply BitVec.eq_of_toNat_eq
  rw [BitVec.extractLsb'_toNat, toNat_zeroExtend, Nat.shiftRight_zero]
  exact Nat.mod_eq_of_lt b.isLt

/-! ### Multiplication (41 R299-R301) -/

/-- A computation that begins with an operand that can be read. -/
theorem complete_readRm {s : State} {w : Width} {rm : Rm} (h : s.rmReadFault w rm = none) (f : Word → Exe State) :
    complete s (s.readRm w rm >>= f) = complete s (f (s.rmValue w rm)) := by
  rw [s.readRm_ok w rm h, exe_bind_ok]

theorem exec_mulRm_byte {s : State} {rm : Rm} (h : s.rmReadFault .byte rm = none) :
    exec (.mulRm .byte rm) s =
      .next (s.mulByte (BitVec.ofNat 16 (s.al.toNat * (s.rmValue .byte rm).toNat))
        (decide (2 ^ 8 ≤ s.al.toNat * (s.rmValue .byte rm).toNat))) := by
  rw [← toNat_zeroExtend s.al]
  exact complete_readRm h _

theorem exec_mulRm_word {s : State} {rm : Rm} (h : s.rmReadFault .word rm = none) :
    exec (.mulRm .word rm) s =
      .next (s.mulWord (BitVec.ofNat 32 (s.regs.ax.toNat * (s.rmValue .word rm).toNat))
        (decide (2 ^ 16 ≤ s.regs.ax.toNat * (s.rmValue .word rm).toNat))) :=
  complete_readRm h _

theorem exec_imulRm_byte {s : State} {rm : Rm} (h : s.rmReadFault .byte rm = none) :
    exec (.imulRm .byte rm) s =
      .next (s.mulByte (BitVec.ofInt 16 (s.al.toInt * Width.toInt .byte (s.rmValue .byte rm)))
        (!Width.fits .byte (s.al.toInt * Width.toInt .byte (s.rmValue .byte rm)))) := by
  rw [← outside_byte, ← low_zeroExtend s.al]
  exact complete_readRm h _

theorem exec_imulRm_word {s : State} {rm : Rm} (h : s.rmReadFault .word rm = none) :
    exec (.imulRm .word rm) s =
      .next (s.mulWord (BitVec.ofInt 32 (s.regs.ax.toInt * (s.rmValue .word rm).toInt))
        (!Width.fits .word (s.regs.ax.toInt * (s.rmValue .word rm).toInt))) := by
  rw [← outside_word]
  exact complete_readRm h _

theorem exec_imulToReg {s : State} {i : Instr} {r : Reg} {rm : Rm} {k : Word} (h : s.rmReadFault .word rm = none)
    (hi : i = .imulImm r rm k ∨ ∃ b, i = .imulImm8 r rm b ∧ k = signExtend b) :
    exec i s =
      .next ((s.mulFlags (!Width.fits .word ((s.rmValue .word rm).toInt * k.toInt))).setReg16 r
        (BitVec.ofInt 16 ((s.rmValue .word rm).toInt * k.toInt))) := by
  rw [← outside_word]
  obtain rfl | ⟨b, rfl, rfl⟩ := hi
  · exact complete_readRm h _
  · exact complete_readRm h _

/-- The unsigned product of a byte multiplication, whole in AX. -/
theorem mulByte_unsigned (s : State) {v : Word} (hv : Width.Holds .byte v) :
    let t := s.mulByte (BitVec.ofNat 16 (s.al.toNat * v.toNat)) (decide (2 ^ 8 ≤ s.al.toNat * v.toNat))
    t.regs.ax.toNat = s.al.toNat * v.toNat ∧ t.flags.cf = decide (t.ah ≠ 0) ∧ t.flags.of = decide (t.ah ≠ 0) := by
  intro t
  have hp : s.al.toNat * v.toNat < 2 ^ 16 := (Nat.mul_lt_mul'' s.al.isLt hv).trans_eq (by norm_num [Width.bits])
  have hax : t.regs.ax.toNat = s.al.toNat * v.toNat := (BitVec.toNat_ofNat _ _).trans (Nat.mod_eq_of_lt hp)
  have hhigh : decide (2 ^ 8 ≤ s.al.toNat * v.toNat) = decide (t.ah ≠ 0) := by
    rw [decide_eq_decide, ← hax]
    exact (high_ne_zero (n := 8) t.regs.ax).symm
  exact ⟨hax, hhigh, hhigh⟩

/-- The unsigned product of a word multiplication, its upper half in DX. -/
theorem mulWord_unsigned (s : State) (v : Word) :
    let t := s.mulWord (BitVec.ofNat 32 (s.regs.ax.toNat * v.toNat)) (decide (2 ^ 16 ≤ s.regs.ax.toNat * v.toNat))
    t.regs.dx.toNat * 2 ^ 16 + t.regs.ax.toNat = s.regs.ax.toNat * v.toNat ∧
      t.flags.cf = decide (t.regs.dx ≠ 0) ∧ t.flags.of = decide (t.regs.dx ≠ 0) := by
  intro t
  have hp : (BitVec.ofNat 32 (s.regs.ax.toNat * v.toNat)).toNat = s.regs.ax.toNat * v.toNat :=
    (BitVec.toNat_ofNat _ _).trans (Nat.mod_eq_of_lt ((Nat.mul_lt_mul'' s.regs.ax.isLt v.isLt).trans_eq (by norm_num)))
  have hhigh : decide (2 ^ 16 ≤ s.regs.ax.toNat * v.toNat) = decide (t.regs.dx ≠ 0) := by
    rw [decide_eq_decide, ← hp]
    exact (high_ne_zero (n := 16) _).symm
  exact ⟨(pair_toNat _).trans hp, hhigh, hhigh⟩

/-- The signed product of two operands of n bits fits 2n bits. -/
theorem toInt_ofInt_mul {n : Nat} (hn : 1 < n) (x y : BitVec n) :
    (BitVec.ofInt (n * 2) (x.toInt * y.toInt)).toInt = x.toInt * y.toInt := by
  have hlow : -2 ^ (n * 2 - 2) ≤ x.toInt * y.toInt := BitVec.le_toInt_mul_toInt
  have hhigh : x.toInt * y.toInt ≤ 2 ^ (n * 2 - 2) := BitVec.toInt_mul_toInt_le
  have hpow : (2 : Int) ^ (n * 2 - 2) < 2 ^ (n * 2 - 1) := pow_lt_pow_right₀ (by norm_num) (by omega)
  exact toInt_ofInt_of_bounds (by omega) (by omega) (by omega)

/-- Settles O7: the product fits the destination, and its upper half is significant where it does not fit one half. -/
theorem multiplyResult : Obligations.MultiplyResult := by
  unfold Obligations.MultiplyResult
  refine ⟨fun rm s h => ⟨?_, ?_⟩, fun rm s h => ⟨?_, ?_, fun i r k hi => ?_⟩⟩
  · exact ⟨_, exec_mulRm_byte h, rfl, sameBut_set _ _ _, rfl, mulByte_unsigned s (s.holds_rmValue _ _)⟩
  · have hax : (BitVec.ofInt 16 (s.al.toInt * Width.toInt .byte (s.rmValue .byte rm))).toInt = _ :=
      toInt_ofInt_mul (by norm_num) s.al ((s.rmValue .byte rm).extractLsb' 0 8)
    exact ⟨_, exec_imulRm_byte h, rfl, sameBut_set _ _ _, rfl, hax, congrArg (!Width.fits .byte ·) hax.symm,
      congrArg (!Width.fits .byte ·) hax.symm⟩
  · exact ⟨_, exec_mulRm_word h, rfl, fun _ => reg16_setPair _ _ _, rfl, mulWord_unsigned s _⟩
  · exact ⟨_, exec_imulRm_word h, rfl, fun _ => reg16_setPair _ _ _, rfl,
      (pair_toInt _).trans (toInt_ofInt_mul (by norm_num) s.regs.ax (s.rmValue .word rm)), rfl, rfl⟩
  · exact ⟨_, exec_imulToReg h hi, rfl, sameBut_set _ _ _, rfl, Regs.get_set_same _ _ _, rfl, rfl⟩

/-! ### Division (41 R303, R304, R322, R323) -/

theorem raise_de (s : State) : raise Exc.de.event s.inst.ipInst s.unlocked = s.trap 0 none := rfl

/-- A division whose divisor is 0, or whose quotient does not fit, is interrupt 0. -/
theorem complete_divide (s : State) (nonzero fits : Prop) [Decidable nonzero] [Decidable fits] (t : State) :
    complete s (ensure (decide nonzero) Exc.de >>= fun _ => ensure (decide fits) Exc.de >>= fun _ => .ok t) =
      if nonzero ∧ fits then .next t else s.trap 0 none := by
  by_cases hnonzero : nonzero
  · by_cases hfits : fits
    · simp [hnonzero, hfits]
    · simp [hnonzero, hfits, raise_de]
  · simp [hnonzero, raise_de]

theorem exec_divRm_byte {s : State} {rm : Rm} (h : s.rmReadFault .byte rm = none) :
    let d := (s.rmValue .byte rm).toNat
    let n := s.regs.ax.toNat
    exec (.divRm .byte rm) s =
      if d ≠ 0 ∧ n / d < 2 ^ 8 then .next (s.divFlags.setAlAh (BitVec.ofNat 8 (n / d)) (BitVec.ofNat 8 (n % d)))
      else s.trap 0 none := by
  intro d n
  exact (complete_readRm h _).trans (complete_divide s (d ≠ 0) (n / d < 2 ^ 8) _)

theorem exec_divRm_word {s : State} {rm : Rm} (h : s.rmReadFault .word rm = none) :
    let d := (s.rmValue .word rm).toNat
    let n := s.regs.dx.toNat * 2 ^ 16 + s.regs.ax.toNat
    exec (.divRm .word rm) s =
      if d ≠ 0 ∧ n / d < 2 ^ 16 then .next (s.divFlags.setPair (BitVec.ofNat 16 (n % d)) (BitVec.ofNat 16 (n / d)))
      else s.trap 0 none := by
  intro d n
  exact (complete_readRm h _).trans (complete_divide s (d ≠ 0) (n / d < 2 ^ 16) _)

theorem exec_idivRm_byte {s : State} {rm : Rm} (h : s.rmReadFault .byte rm = none) :
    let d := Width.toInt .byte (s.rmValue .byte rm)
    let n := s.regs.ax.toInt
    exec (.idivRm .byte rm) s =
      if d ≠ 0 ∧ Width.fits .byte (n.tdiv d) = true then
        .next (s.divFlags.setAlAh (BitVec.ofInt 8 (n.tdiv d)) (BitVec.ofInt 8 (n.tmod d)))
      else s.trap 0 none := by
  intro d n
  have hfits : (-128 ≤ n.tdiv d ∧ n.tdiv d ≤ 127) ↔ Width.fits .byte (n.tdiv d) = true := by
    norm_num [fits_iff, Width.bits]
    omega
  exact ((complete_readRm h _).trans (complete_divide s (d ≠ 0) (-128 ≤ n.tdiv d ∧ n.tdiv d ≤ 127) _)).trans
    (if_congr (and_congr_right' hfits) rfl rfl)

theorem exec_idivRm_word {s : State} {rm : Rm} (h : s.rmReadFault .word rm = none) :
    let d := (s.rmValue .word rm).toInt
    let n := s.regs.dx.toInt * 2 ^ 16 + s.regs.ax.toNat
    exec (.idivRm .word rm) s =
      if d ≠ 0 ∧ Width.fits .word (n.tdiv d) = true then
        .next (s.divFlags.setPair (BitVec.ofInt 16 (n.tmod d)) (BitVec.ofInt 16 (n.tdiv d)))
      else s.trap 0 none := by
  intro d n
  have hn : (s.regs.dx ++ s.regs.ax).toInt = n := append_toInt _ _
  have hfits : (-32768 ≤ n.tdiv d ∧ n.tdiv d ≤ 32767) ↔ Width.fits .word (n.tdiv d) = true := by
    norm_num [fits_iff, Width.bits]
    omega
  rw [← hn] at hfits ⊢
  exact ((complete_readRm h _).trans (complete_divide s (d ≠ 0) _ _)).trans
    (if_congr (and_congr_right' hfits) rfl rfl)

theorem toNat_ofNat_of_lt {n k : Nat} (h : k < 2 ^ n) : (BitVec.ofNat n k).toNat = k :=
  (BitVec.toNat_ofNat _ _).trans (Nat.mod_eq_of_lt h)

/-- The remainder fits wherever the divisor does. -/
theorem toInt_ofInt_tmod {n : Nat} (d : BitVec n) (z : Int) (hd : d.toInt ≠ 0) :
    (BitVec.ofInt n (z.tmod d.toInt)).toInt = z.tmod d.toInt := by
  have hn : 0 < n := by
    by_contra hn
    obtain rfl : n = 0 := by omega
    exact hd (by rw [Subsingleton.elim d 0]; rfl)
  have hlow := BitVec.le_toInt d
  have hhigh := BitVec.toInt_lt (x := d)
  have habs : (z.tmod d.toInt).natAbs < d.toInt.natAbs := by
    rw [Int.natAbs_tmod]
    exact Nat.mod_lt _ (Int.natAbs_pos.mpr hd)
  exact toInt_ofInt_of_bounds hn (by omega) (by omega)

theorem toInt_ofInt_of_fits {w : Width} {z : Int} (h : w.fits z = true) : (BitVec.ofInt w.bits z).toInt = z := by
  obtain ⟨hlow, hhigh⟩ := (fits_iff w z).mp h
  exact toInt_ofInt_of_bounds (by cases w <;> norm_num [Width.bits]) hlow hhigh

/-- Settles O8: quotient and remainder fit their halves; interrupt 0 where there is none or it does not fit. -/
theorem divideResult : Obligations.DivideResult := by
  unfold Obligations.DivideResult
  refine ⟨fun rm s h => ⟨?_, ?_, ?_, ?_⟩, fun rm s h => ⟨?_, ?_, ?_, ?_⟩⟩
  · intro hd hq
    have hr : _ < 2 ^ 8 := (Nat.mod_lt s.regs.ax.toNat (Nat.pos_of_ne_zero hd)).trans (s.holds_rmValue .byte rm)
    refine ⟨_, (exec_divRm_byte h).trans (if_pos ⟨hd, hq⟩), rfl, sameBut_set _ _ _, rfl, ?_, ?_⟩
    · rw [setAlAh_al, toNat_ofNat_of_lt hq]
    · rw [setAlAh_ah, toNat_ofNat_of_lt hr]
  · intro hbad
    exact (exec_divRm_byte h).trans (if_neg (by omega))
  · intro hd hq
    refine ⟨_, (exec_idivRm_byte h).trans (if_pos ⟨hd, hq⟩), rfl, sameBut_set _ _ _, rfl, ?_, ?_⟩
    · rw [setAlAh_al]
      exact toInt_ofInt_of_fits hq
    · rw [setAlAh_ah]
      exact toInt_ofInt_tmod _ _ hd
  · intro hbad
    exact (exec_idivRm_byte h).trans (if_neg fun ⟨hd, hq⟩ => hbad.elim hd fun hf => Bool.eq_false_iff.mp hf hq)
  · intro hd hq
    have hr := (Nat.mod_lt (s.regs.dx.toNat * 2 ^ 16 + s.regs.ax.toNat) (Nat.pos_of_ne_zero hd)).trans
      (s.rmValue .word rm).isLt
    exact ⟨_, (exec_divRm_word h).trans (if_pos ⟨hd, hq⟩), rfl, fun _ => reg16_setPair _ _ _, rfl,
      toNat_ofNat_of_lt hq, toNat_ofNat_of_lt hr⟩
  · intro hbad
    exact (exec_divRm_word h).trans (if_neg (by omega))
  · intro hd hq
    exact ⟨_, (exec_idivRm_word h).trans (if_pos ⟨hd, hq⟩), rfl, fun _ => reg16_setPair _ _ _, rfl,
      toInt_ofInt_of_fits hq, toInt_ofInt_tmod _ _ hd⟩
  · intro hbad
    exact (exec_idivRm_word h).trans (if_neg fun ⟨hd, hq⟩ => hbad.elim hd fun hf => Bool.eq_false_iff.mp hf hq)

/-! ### The adjusts (41 R287, R288, R297, R298, R302, R305) -/

theorem low_digit (v : Byte) : (v &&& 0x0F#8).toNat = v.toNat % 16 := by
  rw [BitVec.toNat_and]
  exact Nat.and_two_pow_sub_one_eq_mod v.toNat 4

theorem aaa_digits (al ah : Byte) (adj : Bool) :
    ((if adj then al + 6 else al) &&& 0x0F#8).toNat = (al.toNat + adj.toNat * 6) % 16 ∧
      (if adj then ah + 1 else ah).toNat = (ah.toNat + adj.toNat) % 256 := by
  have := ah.isLt
  rw [low_digit]
  cases adj <;> simp [BitVec.toNat_add]; omega

theorem aas_digits (al ah : Byte) (adj : Bool) :
    (((if adj then al - 6 else al) &&& 0x0F#8).toNat : Int) = ((al.toNat : Int) - adj.toNat * 6) % 16 ∧
      ((if adj then ah - 1 else ah).toNat : Int) = ((ah.toNat : Int) - adj.toNat) % 256 := by
  have := ah.isLt
  have := al.isLt
  rw [low_digit]
  cases adj <;> simp [BitVec.toNat_sub] <;> omega

theorem daa_digits (al : Byte) (low high : Bool) :
    (al + (if low then 0x06#8 else 0) + (if high then 0x60#8 else 0)).toNat =
      (al.toNat + low.toNat * 0x06 + high.toNat * 0x60) % 256 := by
  cases low <;> cases high <;> simp [BitVec.toNat_add]; omega

theorem das_digits (al : Byte) (low high : Bool) :
    ((al - (if low then 0x06#8 else 0) - (if high then 0x60#8 else 0)).toNat : Int) =
      ((al.toNat : Int) - low.toNat * 0x06 - high.toNat * 0x60) % 256 := by
  have := al.isLt
  cases low <;> cases high <;> simp [BitVec.toNat_sub] <;> omega

/-- DAS's borrow: where CF is set already the high digit is adjusted anyway. -/
theorem das_borrow (low cf big small : Bool) :
    ((big || cf) || low && (cf || small)) = ((big || cf) || low && small) := by
  cases cf <;> simp

theorem cwd_pair (v : Word) : (if v.msb then 0xFFFF#16 else 0 : Word).toInt * 2 ^ 16 + v.toNat = v.toInt := by
  rw [BitVec.toInt_eq_msb_cond v]
  cases v.msb
  · simp
  · norm_num [show (0xFFFF#16).toInt = -1 from rfl]
    ring

/-- The flags that follow a byte result which an adjust leaves in AL. -/
theorem showResult_al (f : Flags) (s : State) (al ah : Byte) :
    (f.setSZP .byte (zeroExtend al)).ShowResult .byte (zeroExtend (s.setAlAh al ah).al) := by
  rw [setAlAh_al]
  exact f.setSZP_show _ _ (Width.holds_zeroExtend al)

/-- Settles O9: each adjust writes AX through `setAlAh`, its digits in plain arithmetic by the lemmas above. -/
theorem accumulatorAdjustResult : Obligations.AccumulatorAdjustResult := by
  unfold Obligations.AccumulatorAdjustResult
  intro s low high only
  have hal := s.al.isLt
  have hah := s.ah.isLt
  obtain ⟨haaaLow, haaaHigh⟩ := aaa_digits s.al s.ah low
  obtain ⟨haasLow, haasHigh⟩ := aas_digits s.al s.ah low
  refine ⟨⟨_, rfl, ⟨rfl, sameBut_set _ _ _, rfl⟩, ?_, ?_, rfl, rfl⟩,
    ⟨_, rfl, ⟨rfl, sameBut_set _ _ _, rfl⟩, ?_, ?_, rfl, rfl⟩,
    ⟨_, rfl, ⟨rfl, sameBut_set _ _ _, rfl⟩, ?_, setAlAh_ah _ _ _, rfl, rfl, showResult_al _ _ _ _⟩,
    ⟨_, rfl, ⟨rfl, sameBut_set _ _ _, rfl⟩, ?_, setAlAh_ah _ _ _, rfl, das_borrow _ _ _ _, showResult_al _ _ _ _⟩,
    ⟨_, rfl, ⟨rfl, sameBut_set _ _ _, rfl⟩, ?_, ?_, showResult_al _ _ _ _⟩,
    ⟨_, rfl, ⟨rfl, sameBut_set _ _ _, rfl⟩, ?_, setAlAh_ah _ _ _, showResult_al _ _ _ _⟩,
    ⟨_, rfl, rfl, sameBut_set _ _ _, ?_⟩, ⟨_, rfl, rfl, sameBut_set _ _ _, cwd_pair s.regs.ax⟩⟩
  · rw [setAlAh_al]
    exact haaaLow
  · rw [setAlAh_ah]
    exact haaaHigh
  · rw [setAlAh_al]
    exact haasLow
  · rw [setAlAh_ah]
    exact haasHigh
  · rw [setAlAh_al]
    exact daa_digits s.al low high
  · rw [setAlAh_al]
    exact das_digits s.al low high
  · rw [setAlAh_ah, toNat_ofNat_of_lt (by omega)]
  · rw [setAlAh_al, toNat_ofNat_of_lt (by omega)]
  · rw [setAlAh_al]
    exact BitVec.toNat_ofNat _ _
  · exact BitVec.toInt_signExtend_of_le (by norm_num)

end Sys2Proof.Proofs.Other
end

section
/-! The shifts and rotates: one step, many steps, and what they come to. -/

namespace Sys2Proof.Proofs.Other

open Sys2Proof Sys2Proof.Machine

set_option Elab.async false

/-! ### One single-bit step in plain arithmetic (42 R341-R347) -/

theorem toNat_trunc (w : Width) (v : Word) : (w.trunc v).toNat = v.toNat % 2 ^ w.bits := by
  cases w
  · rw [trunc_byte, toNat_zeroExtend, BitVec.extractLsb'_toNat, Nat.shiftRight_zero]
    rfl
  · exact (Nat.mod_eq_of_lt v.isLt).symm

theorem toNat_up (w : Width) (x : Word) : (w.trunc (x <<< 1)).toNat = x.toNat * 2 % 2 ^ w.bits := by
  rw [toNat_trunc, BitVec.toNat_shiftLeft, Nat.shiftLeft_eq, pow_one]
  exact Nat.mod_mod_of_dvd _ (pow_dvd_pow 2 (by cases w <;> norm_num [Width.bits]))

/-- The bit a step brings in at the bottom. -/
theorem toNat_or_one {u : Word} (h : u.toNat % 2 = 0) (b : Bool) :
    (u ||| (if b then 1 else 0)).toNat = u.toNat + b.toNat := by
  cases b with
  | false => simp
  | true =>
    have hor := Nat.two_pow_add_eq_or_of_lt (show 1 < 2 ^ 1 by norm_num) (u.toNat / 2)
    rw [pow_one, Nat.mul_div_cancel' (Nat.dvd_of_mod_eq_zero h)] at hor
    rw [if_pos rfl, BitVec.toNat_or]
    exact hor.symm

theorem toNat_topBit (w : Width) : w.topBit.toNat = 2 ^ (w.bits - 1) := by cases w <;> rfl

/-- The bit a step brings in at the top. -/
theorem toNat_or_topBit {w : Width} {u : Word} (h : u.toNat < 2 ^ (w.bits - 1)) (b : Bool) :
    (u ||| (if b then w.topBit else 0)).toNat = u.toNat + b.toNat * 2 ^ (w.bits - 1) := by
  cases b with
  | false => simp
  | true =>
    have hor := Nat.two_pow_add_eq_or_of_lt h 1
    rw [mul_one] at hor
    rw [if_pos rfl, BitVec.toNat_or, toNat_topBit, Nat.lor_comm, ← hor, Bool.toNat_true, one_mul, add_comm]

theorem toNat_decide (p : Prop) [Decidable p] : (decide p).toNat = if p then 1 else 0 := by
  by_cases h : p <;> simp [h]

theorem toNat_msb {w : Width} {x : Word} (h : w.Holds x) : (w.msb x).toNat = x.toNat / 2 ^ (w.bits - 1) := by
  rw [w.msb_eq x h, toNat_decide]
  split_ifs with htop <;> cases w <;> simp only [Width.Holds, Width.bits] at h htop ⊢ <;> omega

theorem toNat_low (x : Word) : (x.getLsbD 0).toNat = x.toNat % 2 := by
  rw [BitVec.getLsbD, Nat.testBit_zero, toNat_decide]
  split_ifs <;> omega

theorem toNat_down {w : Width} {x : Word} (h : w.Holds x) :
    (x >>> 1).toNat = x.toNat / 2 ∧ (x >>> 1).toNat < 2 ^ (w.bits - 1) := by
  have hdown : (x >>> 1).toNat = x.toNat / 2 := by rw [BitVec.toNat_ushiftRight, Nat.shiftRight_one]
  refine ⟨hdown, ?_⟩
  rw [hdown]
  cases w <;> simp only [Width.Holds, Width.bits] at h ⊢ <;> omega

/-- A single-bit step is the arithmetic one. -/
theorem once_arith (op : ShiftOp) {w : Width} {p : Word × Bool} (h : w.Holds p.1) :
    ((op.once w p).1.toNat, (op.once w p).2.toNat) = op.arith w.bits (p.1.toNat, p.2.toNat) := by
  obtain ⟨hdown, hlt⟩ := toNat_down h
  have hup := toNat_up w p.1
  have heven : (w.trunc (p.1 <<< 1)).toNat % 2 = 0 := by
    rw [hup]
    cases w <;> simp only [Width.bits] <;> omega
  have htop := toNat_msb h
  have hlow := toNat_low p.1
  cases op with
  | rol => exact Prod.ext ((toNat_or_one heven _).trans (by rw [hup, htop]; rfl)) htop
  | ror => exact Prod.ext ((toNat_or_topBit hlt _).trans (by rw [hdown, hlow]; rfl)) hlow
  | rcl => exact Prod.ext ((toNat_or_one heven _).trans (by rw [hup]; rfl)) htop
  | rcr => exact Prod.ext ((toNat_or_topBit hlt _).trans (by rw [hdown]; rfl)) hlow
  | shl => exact Prod.ext hup htop
  | shr => exact Prod.ext hdown hlow
  | sar => exact Prod.ext ((toNat_or_topBit hlt _).trans (by rw [hdown, htop]; rfl)) hlow

/-- The operand keeps its width. -/
theorem holds_once (op : ShiftOp) {w : Width} {p : Word × Bool} (h : w.Holds p.1) : w.Holds (op.once w p).1 := by
  have hp := h
  have hc := Bool.toNat_le p.2
  have harith : (op.once w p).1.toNat = (op.arith w.bits (p.1.toNat, p.2.toNat)).1 :=
    congrArg Prod.fst (once_arith op h)
  rw [Width.Holds, harith]
  cases op <;> cases w <;> simp only [ShiftOp.arith, Width.Holds, Width.bits] at hp ⊢ <;> omega

/-! ### Many steps (42 R340, R348) -/

theorem holds_times (op : ShiftOp) {w : Width} : ∀ (k : Nat) {p : Word × Bool}, w.Holds p.1 →
    w.Holds (op.times w k p).1
  | 0, _, h => h
  | k + 1, _, h => holds_times op k (holds_once op h)

/-- Whatever a single step does to a view of operand and carry, k steps do k times. -/
theorem times_semiconj {α : Type} (op : ShiftOp) {w : Width} {view : Word × Bool → α} {g : α → α}
    (hstep : ∀ p, w.Holds p.1 → view (op.once w p) = g (view p)) :
    ∀ (k : Nat) {p : Word × Bool}, w.Holds p.1 → view (op.times w k p) = g^[k] (view p)
  | 0, _, _ => rfl
  | k + 1, p, h => by
    rw [ShiftOp.times, times_semiconj op hstep k (holds_once op h), hstep p h, Function.iterate_succ_apply]

/-- k single-bit steps are k arithmetic ones. -/
theorem times_arith (op : ShiftOp) {w : Width} (k : Nat) {x : Word} (c : Bool) (h : w.Holds x) :
    ((op.times w k (x, c)).1.toNat, (op.times w k (x, c)).2.toNat) = (op.arith w.bits)^[k] (x.toNat, c.toNat) :=
  times_semiconj op (view := fun p => (p.1.toNat, p.2.toNat)) (fun _ => once_arith op) k h

/-! ### The instructions -/

theorem exec_instrOne (op : ShiftOp) (w : Width) (rm : Rm) (s : State) :
    exec (op.instrOne w rm) s = shiftOne op w rm s := by
  cases op <;> rfl

theorem exec_instrCount (op : ShiftOp) {w : Width} {rm : Rm} {n : Byte} {i : Instr} {s : State}
    (h : i = op.instrImm w rm n ∨ (i = op.instrCl w rm ∧ n = s.cl)) : exec i s = shiftCount op w rm n s := by
  obtain rfl | ⟨rfl, rfl⟩ := h <;> cases op <;> rfl

theorem shiftOne_next (op : ShiftOp) {w : Width} {rm : Rm} {s : State} (h : s.rmWriteFault w rm = none) :
    shiftOne op w rm s = .next (s.shifted op w rm (op.once w (s.rmValue w rm, s.flags.cf))
      (op.overflow w (s.rmValue w rm) s.flags.cf (op.once w (s.rmValue w rm, s.flags.cf)).1
        (op.once w (s.rmValue w rm, s.flags.cf)).2 (s.freeBit 1))) := by
  rw [shiftOne, s.modifyRm_ok w rm h]
  rfl

theorem shiftCount_zero (op : ShiftOp) {w : Width} {rm : Rm} {n : Byte} {s : State} (h : s.rmWriteFault w rm = none)
    (hn : n.toNat % 32 = 0) : shiftCount op w rm n s = .next s := by
  rw [shiftCount, s.modifyRm_ok w rm h, exe_bind_ok]
  simp [hn]

theorem shiftCount_next (op : ShiftOp) {w : Width} {rm : Rm} {n : Byte} {s : State} (h : s.rmWriteFault w rm = none)
    (hn : n.toNat % 32 ≠ 0) :
    shiftCount op w rm n s =
      .next (s.shifted op w rm (op.times w (n.toNat % 32) (s.rmValue w rm, s.flags.cf)) (s.freeBit 1)) := by
  rw [shiftCount, s.modifyRm_ok w rm h, exe_bind_ok]
  simp [hn]

/-- The flags of a shift and of a rotate. -/
theorem flags_shift {op : ShiftOp} (h : op = .shl ∨ op = .shr ∨ op = .sar) (f : Flags) {w : Width} {y : Word}
    (hy : w.Holds y) (cf of af : Bool) : (op.flags f w y cf of af).ShowResult w y := by
  rcases h with rfl | rfl | rfl <;> exact Flags.setSZP_show _ _ _ hy

theorem flags_rotate {op : ShiftOp} (h : op = .rol ∨ op = .ror ∨ op = .rcl ∨ op = .rcr) (f : Flags) (w : Width)
    (y : Word) (cf of af : Bool) : op.flags f w y cf of af = { f with cf := cf, of := of } := by
  rcases h with rfl | rfl | rfl | rfl <;> rfl

theorem flags_common (op : ShiftOp) (f : Flags) (w : Width) (y : Word) (cf of af : Bool) :
    f.StatusOnly (op.flags f w y cf of af) ∧ (op.flags f w y cf of af).cf = cf ∧
      (op.flags f w y cf of af).of = of := by
  cases op <;> exact ⟨rfl, rfl, rfl⟩

/-- What at least one step leaves: the operand, the flags of the operation, nothing else. -/
theorem shifted_spec (s : State) (op : ShiftOp) {w : Width} (rm : Rm) {y : Word × Bool} (of : Bool)
    (hy : w.Holds y.1) :
    (s.beforeWrite rm).DataOnly (s.shifted op w rm y of) ∧
      (s.beforeWrite rm).Writes (s.shifted op w rm y of) w rm y.1 ∧
      (s.shifted op w rm y of).flags = op.flags s.flags w y.1 y.2 of (s.freeBit 0) := by
  have hwrites := State.putBack_flags_writes s (op.flags s.flags w y.1 y.2 of (s.freeBit 0)) 2 w rm y.1
  rw [Width.trunc_of_holds _ _ hy] at hwrites
  exact ⟨State.putBack_flags_dataOnly _ _ _ _ _ _, hwrites, by simp [State.shifted]⟩

/-- OF of the forms by one. -/
theorem overflow_spec (op : ShiftOp) {w : Width} {x y : Word} (hx : w.Holds x) (hy : w.Holds y) (cf cy free : Bool) :
    let top := fun v : Word => decide (2 ^ (w.bits - 1) ≤ v.toNat)
    let of := op.overflow w x cf y cy free
    (op = .rol ∨ op = .rcl ∨ op = .shl → of = (cy ^^ top y)) ∧ (op = .rcr → of = (cf ^^ top x)) ∧
      (op = .shr → of = top x) ∧ (op = .sar → of = false) := by
  intro top of
  have hxtop : w.msb x = top x := w.msb_eq x hx
  have hytop : w.msb y = top y := w.msb_eq y hy
  refine ⟨?_, ?_, ?_, ?_⟩
  · rw [← hytop]
    rintro (rfl | rfl | rfl)
    · rfl
    · rfl
    · exact Bool.xor_comm _ _
  · rintro rfl
    rw [← hxtop]
    rfl
  · rintro rfl
    exact hxtop
  · rintro rfl
    rfl

/-- Settles O10: one arithmetic step on operand and carry. -/
theorem shiftByOneResult : Obligations.ShiftByOneResult := by
  unfold Obligations.ShiftByOneResult
  intro op w rm s hpass x v top
  have hx : w.Holds x := s.holds_rmValue w rm
  have hy : w.Holds (op.once w (x, s.flags.cf)).1 := holds_once op hx
  obtain ⟨hframe, hwrites, hflags⟩ := shifted_spec s op rm
    (op.overflow w x s.flags.cf (op.once w (x, s.flags.cf)).1 (op.once w (x, s.flags.cf)).2 (s.freeBit 1)) hy
  obtain ⟨hstatus, hcf, hof⟩ := flags_common op s.flags w (op.once w (x, s.flags.cf)).1 (op.once w (x, s.flags.cf)).2
    (op.overflow w x s.flags.cf (op.once w (x, s.flags.cf)).1 (op.once w (x, s.flags.cf)).2 (s.freeBit 1))
    (s.freeBit 0)
  refine ⟨_, _, (exec_instrOne op w rm s).trans (shiftOne_next op hpass), hframe, hwrites, ?_⟩
  rw [hflags, hcf, hof]
  obtain ⟨hup, hrcr, hshr, hsar⟩ := overflow_spec op hx hy s.flags.cf (op.once w (x, s.flags.cf)).2 (s.freeBit 1)
  exact ⟨hstatus, once_arith op hx, hup, hrcr, hshr, hsar, fun h => flags_shift h s.flags hy _ _ _,
    fun h => flags_rotate h s.flags _ _ _ _ _⟩

/-- Settles O11: as many arithmetic steps as the count modulo 32, and none at all for 0. -/
theorem shiftByCountResult : Obligations.ShiftByCountResult := by
  unfold Obligations.ShiftByCountResult
  intro op w rm n i s hi hpass x v k
  have hx : w.Holds x := s.holds_rmValue w rm
  have hy : w.Holds (op.times w k (x, s.flags.cf)).1 := holds_times op k hx
  refine ⟨fun hk => (exec_instrCount op hi).trans (shiftCount_zero op hpass hk), fun hk => ?_⟩
  obtain ⟨hframe, hwrites, hflags⟩ := shifted_spec s op rm (s.freeBit 1) hy
  obtain ⟨hstatus, hcf, hof⟩ := flags_common op s.flags w (op.times w k (x, s.flags.cf)).1
    (op.times w k (x, s.flags.cf)).2 (s.freeBit 1) (s.freeBit 0)
  refine ⟨_, _, (exec_instrCount op hi).trans (shiftCount_next op hpass hk), hframe, hwrites, ?_⟩
  rw [hflags, hcf, hof]
  exact ⟨hstatus, times_arith op k s.flags.cf hx, fun h => flags_shift h s.flags hy _ _ _,
    fun h => flags_rotate h s.flags _ _ _ _ _⟩

/-! ### Rotations of n-bit numbers -/

/-- An n-bit number rotated up by j places. -/
def rotated (n x j : Nat) : Nat := x * 2 ^ j % 2 ^ n + x / 2 ^ (n - j)

/-- A rotation by j exchanges the upper j bits and the others. -/
theorem rotated_split {j m hi lo : Nat} (hlo : lo < 2 ^ m) :
    rotated (j + m) (hi * 2 ^ m + lo) j = lo * 2 ^ j + hi := by
  have hmod : (hi * 2 ^ m + lo) * 2 ^ j % 2 ^ (j + m) = lo * 2 ^ j := by
    rw [show (hi * 2 ^ m + lo) * 2 ^ j = lo * 2 ^ j + hi * 2 ^ (j + m) by ring, Nat.add_mul_mod_self_right,
      Nat.mod_eq_of_lt]
    rw [pow_add, mul_comm (2 ^ j)]
    exact Nat.mul_lt_mul_of_pos_right hlo (by positivity)
  have hdiv : (hi * 2 ^ m + lo) / 2 ^ m = hi := by
    rw [mul_comm, Nat.mul_add_div (by positivity), Nat.div_eq_of_lt hlo, add_zero]
  rw [rotated, hmod, Nat.add_sub_cancel_left, hdiv]

theorem rotated_zero {n x : Nat} (hx : x < 2 ^ n) : rotated n x 0 = x := by
  simpa using rotated_split (j := 0) (hi := 0) hx

theorem rotated_full (n x : Nat) : rotated n x n = x := by
  simpa using rotated_split (j := n) (m := 0) (hi := x) (lo := 0) (by norm_num)

/-- The bit that a rotation by one place moves, with what stands above and below it. -/
theorem exists_bit_at (m x : Nat) :
    ∃ hi bit lo, lo < 2 ^ m ∧ bit < 2 ∧ x = hi * 2 ^ (m + 1) + (bit * 2 ^ m + lo) := by
  refine ⟨x / 2 ^ m / 2, x / 2 ^ m % 2, x % 2 ^ m, Nat.mod_lt _ (by positivity), Nat.mod_lt _ (by norm_num), ?_⟩
  calc x = 2 ^ m * (x / 2 ^ m) + x % 2 ^ m := (Nat.div_add_mod x _).symm
    _ = 2 ^ m * (2 * (x / 2 ^ m / 2) + x / 2 ^ m % 2) + x % 2 ^ m := by
      rw [Nat.div_add_mod (x / 2 ^ m) 2]
    _ = _ := by ring

theorem bit_below {m bit lo : Nat} (hbit : bit < 2) (hlo : lo < 2 ^ m) : bit * 2 ^ m + lo < 2 ^ (m + 1) := by
  have := Nat.mul_le_mul_right (2 ^ m) (Nat.le_of_lt_succ hbit)
  rw [pow_succ]
  omega

/-- One place up after j places up. -/
theorem rotated_one_rotated {n x j : Nat} (hj : j < n) (hx : x < 2 ^ n) :
    rotated n (rotated n x j) 1 = rotated n x (j + 1) := by
  obtain ⟨m, rfl⟩ : ∃ m, n = j + 1 + m := ⟨n - (j + 1), by omega⟩
  obtain ⟨hi, bit, lo, hlo, hbit, rfl⟩ := exists_bit_at m x
  have hhi : hi < 2 ^ j := by
    by_contra h
    rw [not_lt] at h
    have := Nat.mul_le_mul_right (2 ^ (m + 1)) h
    rw [← pow_add, show j + (m + 1) = j + 1 + m by ring] at this
    omega
  have hshort : lo * 2 ^ j + hi < 2 ^ (j + m) := by
    have := Nat.mul_le_mul_right (2 ^ j) (Nat.succ_le_of_lt hlo)
    rw [Nat.succ_mul, ← pow_add, add_comm m j] at this
    omega
  calc rotated (j + 1 + m) (rotated (j + 1 + m) (hi * 2 ^ (m + 1) + (bit * 2 ^ m + lo)) j) 1
      = rotated (j + 1 + m) ((bit * 2 ^ m + lo) * 2 ^ j + hi) 1 := by
        rw [show j + 1 + m = j + (m + 1) by ring, rotated_split (bit_below hbit hlo)]
    _ = rotated (1 + (j + m)) (bit * 2 ^ (j + m) + (lo * 2 ^ j + hi)) 1 := by
        rw [show j + 1 + m = 1 + (j + m) by ring]
        congr 1
        ring
    _ = (lo * 2 ^ j + hi) * 2 ^ 1 + bit := rotated_split hshort
    _ = lo * 2 ^ (j + 1) + (hi * 2 + bit) := by ring
    _ = rotated (j + 1 + m) ((hi * 2 + bit) * 2 ^ m + lo) (j + 1) := (rotated_split hlo).symm
    _ = _ := by
        congr 1
        ring

/-- One place down after j + 1 places up. -/
theorem rotated_pred_rotated {n x j : Nat} (hj : j < n) :
    rotated n (rotated n x (j + 1)) (n - 1) = rotated n x j := by
  obtain ⟨m, rfl⟩ : ∃ m, n = j + 1 + m := ⟨n - (j + 1), by omega⟩
  obtain ⟨hi, bit, lo, hlo, hbit, rfl⟩ := exists_bit_at m x
  calc rotated (j + 1 + m) (rotated (j + 1 + m) (hi * 2 ^ (m + 1) + (bit * 2 ^ m + lo)) (j + 1)) (j + 1 + m - 1)
      = rotated (j + 1 + m) (rotated (j + 1 + m) ((hi * 2 + bit) * 2 ^ m + lo) (j + 1)) (j + m) := by
        rw [show j + 1 + m - 1 = j + m by omega]
        congr 2
        ring
    _ = rotated (j + m + 1) ((lo * 2 ^ j + hi) * 2 ^ 1 + bit) (j + m) := by
        rw [rotated_split hlo, show j + 1 + m = j + m + 1 by ring]
        congr 1
        ring
    _ = bit * 2 ^ (j + m) + (lo * 2 ^ j + hi) := rotated_split (by omega)
    _ = (bit * 2 ^ m + lo) * 2 ^ j + hi := by ring
    _ = _ := by rw [show j + 1 + m = j + (m + 1) by ring, rotated_split (bit_below hbit hlo)]

/-- Steps that go round n places. -/
theorem iterate_round {f g : Nat → Nat} {n : Nat} (hn : 0 < n) (hstep : ∀ j < n, f (g j) = g (j + 1))
    (hround : g n = g 0) : ∀ k, f^[k] (g 0) = g (k % n)
  | 0 => rfl
  | k + 1 => by
    rw [Function.iterate_succ_apply', iterate_round hn hstep hround k, hstep _ (Nat.mod_lt k hn), Nat.add_mod]
    have hk := Nat.mod_lt k hn
    rcases Nat.lt_or_ge (k % n + 1) n with h | h
    · rw [Nat.mod_eq_of_lt (show 1 < n by omega), Nat.mod_eq_of_lt h]
    · obtain rfl | h1 : n = 1 ∨ 1 < n := by omega
      · rw [Nat.mod_one, Nat.mod_one, hround]
      · rw [show k % n + 1 = n by omega, Nat.mod_eq_of_lt h1, show k % n + 1 = n by omega, Nat.mod_self, hround]

/-- k rotations up by one place. -/
theorem iterate_rotated_one {n x : Nat} (hn : 0 < n) (hx : x < 2 ^ n) (k : Nat) :
    (fun v => rotated n v 1)^[k] x = rotated n x (k % n) := by
  have h := iterate_round (f := fun v => rotated n v 1) (g := rotated n x) hn (fun j hj => rotated_one_rotated hj hx)
    ((rotated_full n x).trans (rotated_zero hx).symm) k
  rwa [rotated_zero hx] at h

/-- k rotations down by one place. -/
theorem iterate_rotated_pred {n x : Nat} (hn : 0 < n) (hx : x < 2 ^ n) (k : Nat) :
    (fun v => rotated n v (n - 1))^[k] x = rotated n x (n - k % n) := by
  have h := iterate_round (f := fun v => rotated n v (n - 1)) (g := fun j => rotated n x (n - j)) hn
    (fun j hj => by
      have := rotated_pred_rotated (n := n) (x := x) (j := n - (j + 1)) (by omega)
      rwa [show n - (j + 1) + 1 = n - j by omega] at this)
    (by simp only [Nat.sub_self, Nat.sub_zero]; rw [rotated_full, rotated_zero hx]) k
  rwa [Nat.sub_zero, rotated_full] at h

/-- A rotation down by j, as the spec writes it. -/
theorem rotated_down {n j : Nat} (hj : j ≤ n) (x : Nat) :
    rotated n x (n - j) = x / 2 ^ j + x * 2 ^ (n - j) % 2 ^ n := by
  rw [rotated, Nat.sub_sub_self hj, add_comm]

/-! ### What k steps come to -/

/-- The operand with the carry above it, as RCL and RCR rotate it. -/
def wide (w : Width) (p : Word × Bool) : Nat := p.2.toNat * 2 ^ w.bits + p.1.toNat

theorem wide_lt {w : Width} {p : Word × Bool} (h : w.Holds p.1) : wide w p < 2 ^ (w.bits + 1) := by
  have hc := Bool.toNat_le p.2
  rw [wide]
  cases w <;> simp only [Width.Holds, Width.bits] at h ⊢ <;> omega

/-- The operand and the carry after one step, in plain arithmetic. -/
theorem once_fst (op : ShiftOp) {w : Width} {p : Word × Bool} (h : w.Holds p.1) :
    (op.once w p).1.toNat = (op.arith w.bits (p.1.toNat, p.2.toNat)).1 := congrArg Prod.fst (once_arith op h)

theorem once_snd (op : ShiftOp) {w : Width} {p : Word × Bool} (h : w.Holds p.1) :
    (op.once w p).2.toNat = (op.arith w.bits (p.1.toNat, p.2.toNat)).2 := congrArg Prod.snd (once_arith op h)

theorem once_ror_rotated {w : Width} {p : Word × Bool} (h : w.Holds p.1) :
    (ShiftOp.once .ror w p).1.toNat = rotated w.bits p.1.toNat (w.bits - 1) := by
  rw [once_fst _ h, rotated]
  cases w <;> simp only [Width.Holds, ShiftOp.arith, Width.bits] at h ⊢ <;> omega

theorem once_rcl_rotated {w : Width} {p : Word × Bool} (h : w.Holds p.1) :
    wide w (ShiftOp.once .rcl w p) = rotated (w.bits + 1) (wide w p) 1 := by
  have hc := Bool.toNat_le p.2
  rw [wide, once_fst _ h, once_snd _ h, rotated, wide]
  cases w <;> simp only [Width.Holds, ShiftOp.arith, Width.bits] at h ⊢ <;> omega

theorem once_rcr_rotated {w : Width} {p : Word × Bool} (h : w.Holds p.1) :
    wide w (ShiftOp.once .rcr w p) = rotated (w.bits + 1) (wide w p) (w.bits + 1 - 1) := by
  have hc := Bool.toNat_le p.2
  rw [wide, once_fst _ h, once_snd _ h, rotated, wide]
  cases w <;> simp only [Width.Holds, ShiftOp.arith, Width.bits] at h ⊢ <;> omega

theorem once_sar_toInt {w : Width} {p : Word × Bool} (h : w.Holds p.1) :
    w.toInt (ShiftOp.once .sar w p).1 = w.toInt p.1 / 2 := by
  rw [w.toInt_eq _ (holds_once .sar h), w.toInt_eq _ h, once_fst _ h]
  cases w <;> simp only [Width.Holds, ShiftOp.arith, Width.bits] at h ⊢ <;> split_ifs <;> omega

theorem iterate_double {n x : Nat} (hx : x < 2 ^ n) : ∀ k, (fun v => v * 2 % 2 ^ n)^[k] x = x * 2 ^ k % 2 ^ n
  | 0 => by simp [Nat.mod_eq_of_lt hx]
  | k + 1 => by
    rw [Function.iterate_succ_apply', iterate_double hx k, Nat.mod_mul_mod, pow_succ, mul_assoc]

theorem iterate_half (x : Nat) : ∀ k, (fun v => v / 2)^[k] x = x / 2 ^ k
  | 0 => by simp
  | k + 1 => by rw [Function.iterate_succ_apply', iterate_half x k, Nat.div_div_eq_div_mul, pow_succ]

theorem iterate_half_int (x : Int) : ∀ k, (fun v => v / 2)^[k] x = x / 2 ^ k
  | 0 => by simp
  | k + 1 => by
    rw [Function.iterate_succ_apply', iterate_half_int x k, Int.ediv_ediv_of_nonneg (by positivity), pow_succ]

theorem bits_pos (w : Width) : 0 < w.bits := by cases w <;> norm_num [Width.bits]

/-- Settles O12: each single-bit step is a doubling, a halving or a rotation by one place, so k of them are known. -/
theorem shiftClosedForm : Obligations.ShiftClosedForm := by
  unfold Obligations.ShiftClosedForm
  intro w x c k hx n
  have hp : w.Holds (x, c).1 := hx
  have hwide := wide_lt hp
  refine ⟨?_, ?_, ?_, ?_, ?_, ?_, ?_⟩
  · rw [← iterate_double hx]
    exact times_semiconj .shl (view := fun p => p.1.toNat) (fun p h => once_fst .shl h) k hp
  · rw [← iterate_half]
    exact times_semiconj .shr (view := fun p => p.1.toNat) (fun p h => once_fst .shr h) k hp
  · rw [← iterate_half_int]
    exact times_semiconj .sar (view := fun p => w.toInt p.1) (fun p h => once_sar_toInt h) k hp
  · refine Eq.trans ?_ (iterate_rotated_one (bits_pos w) hx k)
    exact times_semiconj .rol (view := fun p => p.1.toNat) (g := fun v => rotated w.bits v 1)
      (fun p h => (once_fst .rol h).trans (by rw [rotated, pow_one]; rfl)) k hp
  · rw [← rotated_down (Nat.mod_lt k (bits_pos w)).le, ← iterate_rotated_pred (bits_pos w) hx]
    exact times_semiconj .ror (view := fun p => p.1.toNat) (fun p h => once_ror_rotated h) k hp
  · refine Eq.trans ?_ (iterate_rotated_one (Nat.succ_pos _) hwide k)
    exact times_semiconj .rcl (view := wide w) (fun p h => once_rcl_rotated h) k hp
  · refine Eq.trans ?_ (rotated_down (Nat.mod_lt k (Nat.succ_pos w.bits)).le (wide w (x, c)))
    refine Eq.trans ?_ (iterate_rotated_pred (Nat.succ_pos _) hwide k)
    exact times_semiconj .rcr (view := wide w) (fun p h => once_rcr_rotated h) k hp

end Sys2Proof.Proofs.Other
end

section
/-! How checks that fail end an instruction, and the stack: exchanges, pushes, pops, the flags word, prefixes. -/

namespace Sys2Proof.Proofs.Other

open Sys2Proof Sys2Proof.Machine

set_option Elab.async false

/-! ### How a check that fails ends an instruction -/

theorem complete_fault (s : State) {e : Exc} (h : e.vector ≠ 16) :
    complete s (.error (.exc e)) = s.trap e.vector e.code := by
  rw [complete_exc, Exc.event, beq_eq_false_iff_ne.mpr h]
  rfl

/-- An exception that leaves a state of its own is taken from that state. -/
theorem complete_faultAt (s t : State) {e : Exc} (h : e.vector ≠ 16) :
    complete s (.error (.excAt e t)) = t.trap e.vector e.code := by
  rw [← complete_fault t h]
  rfl

theorem complete_gp (s : State) (c : Word) : complete s (.error (.exc (Exc.gp c))) = s.trap 13 (some c) := rfl

theorem accessFault_vector {s : State} {r : SReg} {allowed : Bool} {off : Word} {n : Nat} {e : Exc}
    (h : s.accessFault r allowed off n = some e) : e.vector ≠ 16 := by
  rcases s.accessFault_cases r allowed off n e h with rfl | rfl <;> decide

theorem rmReadFault_vector {s : State} {w : Width} {rm : Rm} {e : Exc} (h : s.rmReadFault w rm = some e) :
    e.vector ≠ 16 := by
  cases rm with
  | reg r => cases h
  | mem m => exact accessFault_vector h

theorem rmWriteFault_vector {s : State} {w : Width} {rm : Rm} {e : Exc} (h : s.rmWriteFault w rm = some e) :
    e.vector ≠ 16 := by
  cases rm with
  | reg r => cases h
  | mem m => exact accessFault_vector h

/-- An access in real mode fails at the end of the segment alone. -/
theorem accessFault_real {s : State} (h : s.prot = false) (r : SReg) (allowed : Bool) (off : Word) (n : Nat) :
    s.accessFault r allowed off n = if off.toNat + n ≤ 2 ^ 16 then none else some (Exc.gp 0) := by
  rw [State.accessFault, h]
  rfl

theorem word_fault_wraps {s : State} (h : s.prot = false) (r : SReg) (allowed : Bool) :
    s.accessFault r allowed 0xFFFF#16 2 = some (Exc.gp 0) := accessFault_real h r allowed _ 2

/-- An operation behind a place where other masters may write, where none does, ends the instruction as it would
without that place. -/
theorem complete_keepBus_bind {α : Type} (s : State) (m : Exe α) (f : α → Exe State) :
    complete s (keepBus s m >>= f) = complete s (m >>= f) := by
  cases m with
  | ok a => rfl
  | error e => cases e <;> rfl

theorem complete_afterReads_bind {α : Type} {s : State} (h : s.Quiet) (n : Nat) (f : State → Exe α)
    (g : α → Exe State) : complete s (s.afterReads n f >>= g) = complete s (f s >>= g) := by
  rw [State.afterReads_quiet h, complete_keepBus_bind]

theorem complete_afterReads {s : State} (h : s.Quiet) (n : Nat) (f : State → Exe State) :
    complete s (s.afterReads n f) = complete s (f s) := by
  rw [State.afterReads_quiet h, complete_keepBus]

theorem complete_afterBus {s : State} (h : s.Quiet) (f : State → Exe State) :
    complete s (s.afterBus f) = complete s (f s) := complete_afterReads h 1 f

/-! ### The flags word (10 R26-R38) -/

/-- The sixteen bits of a flags word, bit 0 first. -/
def imageBits (f : Flags) (r : Word) : List Bool :=
  [f.cf, r.getLsbD 1, f.pf, r.getLsbD 3, f.af, r.getLsbD 5, f.zf, f.sf, f.tf, f.ifl, f.df, f.of, f.iopl.getLsbD 0,
    f.iopl.getLsbD 1, f.nt, r.getLsbD 15]

theorem getLsbD_image (f : Flags) (r : Word) (k : Nat) (h : k < 16) :
    (f.image r).getLsbD k = (imageBits f r).getD k false := by
  interval_cases k <;> simp only [Flags.image, imageBits, BitVec.getLsbD_append] <;> simp

/-- A flags word is read from its named bits alone. -/
theorem ofImage_eq {f : Flags} {r v : Word}
    (h : ∀ k ∈ [0, 2, 4, 6, 7, 8, 9, 10, 11, 12, 13, 14], v.getLsbD k = (imageBits f r).getD k false) :
    Flags.ofImage v = f := by
  simp only [List.forall_mem_cons, imageBits, List.getD_cons_succ, List.getD_cons_zero] at h
  obtain ⟨hcf, hpf, haf, hzf, hsf, htf, hifl, hdf, hof, hiopl₀, hiopl₁, hnt, -⟩ := h
  have hiopl : v.extractLsb' 12 2 = f.iopl := by
    ext i hi
    interval_cases i <;> simpa [BitVec.getLsbD_eq_getElem]
  rw [Flags.ofImage, hcf, hpf, haf, hzf, hsf, htf, hifl, hdf, hof, hnt, hiopl]

/-- Settles O16: bit by bit. -/
theorem flagsWordRoundTrip : Obligations.FlagsWordRoundTrip := by
  unfold Obligations.FlagsWordRoundTrip
  intro f r v x
  have hx : ∀ k, k < 16 → x.getLsbD k = (imageBits f r).getD k false := getLsbD_image f r
  refine ⟨hx 0 (by norm_num), hx 2 (by norm_num), hx 4 (by norm_num), hx 6 (by norm_num), hx 7 (by norm_num),
    hx 8 (by norm_num), hx 9 (by norm_num), hx 10 (by norm_num), hx 11 (by norm_num), ?_, hx 14 (by norm_num), ?_, ?_⟩
  · exact congrArg Flags.iopl (ofImage_eq fun k hk => hx k (by revert k; decide))
  · ext i hi
    have hi' := hx i hi
    interval_cases i <;> simp_all [imageBits, BitVec.getLsbD_eq_getElem]
  · refine ofImage_eq (r := r) fun k hk => ?_
    have hk16 : k < 16 := by revert k; decide
    rw [← hx k hk16, BitVec.getLsbD_or, BitVec.getLsbD_and, BitVec.getLsbD_and]
    fin_cases hk <;> simp

/-! ### Flag transfers -/

theorem ah_setHigh (s : State) (b : Byte) : (s.setReg16 .ax (setHigh s.regs.ax b)).ah = b := high_setHigh _ b

/-- LAHF leaves AL and the other registers. -/
theorem sameBut_setHigh (g : Regs) (b : Byte) : g.SameBut (g.set .ax (setHigh g.ax b)) .byte .sp := by
  refine ⟨fun q hq => ?_, rfl, rfl, rfl, rfl⟩
  cases q with
  | ax => exact low_setHigh _ _
  | sp => exact absurd rfl hq
  | _ => rfl

/-- Settles O15: each writes the flags it names; LAHF's byte is the low byte of the flags word. -/
theorem flagInstructionsResult : Obligations.FlagInstructionsResult := by
  unfold Obligations.FlagInstructionsResult
  intro s
  have hbit : ∀ k, k < 8 → s.flagByte.getLsbD k = (imageBits s.flags s.platform.flagReserved).getD k false :=
    fun k hk => by
      rw [State.flagByte, BitVec.getLsbD_extractLsb', Nat.zero_add, decide_eq_true hk, Bool.true_and]
      exact getLsbD_image _ _ k (by omega)
  refine ⟨rfl, rfl, rfl, rfl, rfl, rfl, ⟨_, rfl, rfl, sameBut_setHigh _ _, ?_⟩, fun hio => ?_⟩
  · rw [ah_setHigh]
    exact ⟨hbit 7 (by norm_num), hbit 6 (by norm_num), hbit 4 (by norm_num), hbit 2 (by norm_num),
      hbit 0 (by norm_num)⟩
  · have hcheck := s.ioCheck_ok hio
    constructor
    · show complete s (s.ioCheck >>= _) = _
      rw [hcheck]
      rfl
    · show complete s (s.ioCheck >>= _) = _
      rw [hcheck]
      rfl

/-! ### Prefixes -/

theorem stringPass_exhausted {compares : Bool} {iteration : Exe State} {s : State} (hrep : s.inst.rep ≠ none)
    (hcx : s.regs.cx = 0) : stringPass compares iteration s = .next s := by
  rw [stringPass]
  cases h : s.inst.rep with
  | none => exact absurd h hrep
  | some p => exact if_pos hcx

/-- Settles O27: a prefix writes its field of the instruction in progress; with CX = 0 no iteration begins. -/
theorem prefixResult : Obligations.PrefixResult := by
  unfold Obligations.PrefixResult
  intro s
  refine ⟨rfl, rfl, fun _ => rfl, fun hio => ?_, fun hrep hcx w i hi => ?_⟩
  · show complete s (s.ioCheck >>= _) = _
    rw [s.ioCheck_ok hio]
    rfl
  · rcases hi with rfl | rfl | rfl | rfl | rfl | rfl | rfl <;> exact stringPass_exhausted hrep hcx

/-! ### XCHG and NOP (40 R248, R249) -/

theorem reg_setReg_other (s : State) (w : Width) {p q : Reg} (h : p ≠ q) (v : Word) :
    (s.setReg w q v).reg w p = s.reg w p := by
  cases w with
  | byte => exact congrArg zeroExtend (Regs.getByte_setByte_other _ h _)
  | word => exact Regs.get_set_other _ h _

/-- Two registers exchanged. -/
theorem exchange_spec (s : State) (w : Width) (p q : Reg) :
    let t := (s.setReg w p (s.reg w q)).setReg w q (s.reg w p)
    t = { s with regs := t.regs } ∧ t.reg w p = s.reg w q ∧ t.reg w q = s.reg w p ∧
      (∀ k, k ≠ p → k ≠ q → t.reg w k = s.reg w k) ∧
      (w = .byte → t.regs.sp = s.regs.sp ∧ t.regs.bp = s.regs.bp ∧ t.regs.si = s.regs.si ∧ t.regs.di = s.regs.di) := by
  intro t
  have hq : t.reg w q = s.reg w p := (State.reg_setReg _ w q _).trans (w.trunc_of_holds _ (s.holds_reg w p))
  refine ⟨by cases w <;> rfl, ?_, hq, fun k hp hk => ?_, ?_⟩
  · by_cases h : p = q
    · rw [h] at hq ⊢
      exact hq
    · rw [reg_setReg_other _ w h, State.reg_setReg, w.trunc_of_holds _ (s.holds_reg w q)]
  · rw [reg_setReg_other _ w hk, reg_setReg_other _ w hp]
  · rintro rfl
    cases p <;> cases q <;> exact ⟨rfl, rfl, rfl, rfl⟩

theorem exec_xchgRmReg {s : State} {w : Width} {rm : Rm} (h : s.rmWriteFault w rm = none) (r : Reg) :
    exec (.xchgRmReg w rm r) s = .next ((s.setRm w rm (s.reg w r)).setReg w r (s.rmValue w rm)) := by
  show complete s (s.modifyRm w rm >>= _) = _
  rw [s.modifyRm_ok w rm h]
  rfl

/-- Settles O14: the operand written first, the register after it; between registers the order does not show. -/
theorem exchangeResult : Obligations.ExchangeResult := by
  unfold Obligations.ExchangeResult
  refine ⟨fun w m r e s hfault => ?_, fun w m r s hpass => ?_, fun i w p q s hi => ?_, fun _ => rfl⟩
  · show complete s (s.modifyRm w (.mem m) >>= _) = _
    rw [s.modifyRm_fault w _ e hfault]
    exact complete_fault s (rmWriteFault_vector hfault)
  · refine ⟨_, exec_xchgRmReg hpass r, ?_, by simp, fun hd => ?_, ?_, ?_, ?_⟩
    · rw [State.dataOnly_iff]
      simp
    · have hload := s.load_store hd (s.seg (s.eaSeg m)) (s.ea m) (s.reg w r)
      rw [w.trunc_of_holds _ (s.holds_reg w r)] at hload
      refine Eq.trans ?_ hload
      cases w <;> simp [State.load, State.setRm]
    · exact (State.reg_setReg _ w r _).trans (w.trunc_of_holds _ (s.holds_load w _ _))
    · have hsame := (s.setRm w (.mem m) (s.reg w r)).setReg_sameBut w r (s.rmValue w (.mem m))
      rwa [State.setRm, State.store_regs] at hsame
    · intro a ha
      rw [State.setReg_byteAt]
      exact s.store_kept w (s.seg (s.eaSeg m)) (s.ea m) (s.reg w r) a ha
  · rcases hi with rfl | ⟨rfl, rfl, rfl⟩
    · exact ⟨_, exec_xchgRmReg (rm := .reg p) rfl q, exchange_spec s w p q⟩
    · obtain ⟨honly, hp, hq, hother, -⟩ := exchange_spec s .word .ax p
      exact ⟨_, rfl, honly, hq, hp, fun k h₁ h₂ => hother k h₂ h₁, nofun⟩

/-! ### PUSH and PUSHF (40 R239-R242, R258) -/

/-- Every form pushes its value. -/
theorem exec_push {i : Instr} {v : Word} {s : State} (hquiet : s.Quiet)
    (hi : (∃ r, i = .pushReg r ∧ v = s.reg16 r) ∨
      (∃ rm, i = .pushRm rm ∧ s.rmReadFault .word rm = none ∧ v = s.rmValue .word rm) ∨
      (∃ sr, i = .pushSreg sr ∧ v = (s.seg sr).sel) ∨ i = .pushImm v ∨ (∃ b, i = .pushImm8 b ∧ v = signExtend b) ∨
      (i = .pushf ∧ v = s.flagImage)) :
    exec i s = complete s (s.pushOperand v) := by
  rcases hi with ⟨r, rfl, rfl⟩ | ⟨rm, rfl, hread, rfl⟩ | ⟨sr, rfl, rfl⟩ | rfl | ⟨b, rfl, rfl⟩ | ⟨rfl, rfl⟩
  · rfl
  · show complete s (s.readRm .word rm >>= fun v => s.afterBus fun s => s.pushOperand v) = _
    rw [complete_readRm hread, complete_afterBus hquiet]
  · rfl
  · rfl
  · rfl
  · rfl

/-- What a push leaves: the word below the old top of stack, SP, nothing else. -/
theorem pushed_spec (s : State) (v : Word) :
    let t := (s.putStack (s.regs.sp - 2) v).setSp (s.regs.sp - 2)
    s.DataOnly t ∧ t.flags = s.flags ∧ s.regs.SameBut t.regs .word .sp ∧ t.regs.sp = s.regs.sp - 2 ∧
      (s.LowDecoded → t.load .word s.ss (s.regs.sp - 2) = v) ∧ s.MemoryKept t (s.cells .word s.ss (s.regs.sp - 2)) := by
  intro t
  refine ⟨?_, by simp [t], ?_, rfl, fun hd => ?_, ?_⟩
  · rw [State.dataOnly_iff]
    simp [t]
  · show s.regs.SameBut ((s.putStack (s.regs.sp - 2) v).regs.set .sp _) .word .sp
    rw [State.putStack_regs]
    exact sameBut_set _ _ _
  · exact s.load_store (w := .word) (.inr hd) s.ss (s.regs.sp - 2) v
  · exact s.store_kept .word s.ss (s.regs.sp - 2) v

theorem pushOperand_wraps {s : State} (hreal : s.prot = false) (hsp : s.regs.sp = 1) (v : Word) :
    s.pushOperand v =
      .error (.excAt (Exc.gp 0) ((s.tick 1).setSp (if s.freeBit 0 then 1 else 0xFFFF#16))) := by
  rw [State.pushOperand, hreal, hsp]
  rfl

/-- Elsewhere it is the push of the stack primitives. -/
theorem pushOperand_push {s : State} (h : s.prot = true ∨ s.writeFault .ss (s.regs.sp - 2) 2 = none) (v : Word) :
    s.pushOperand v = s.push v := by
  refine if_neg fun hwrap => ?_
  rw [Bool.and_eq_true, Bool.not_eq_true', beq_iff_eq] at hwrap
  obtain ⟨hreal, hsp⟩ := hwrap
  rcases h with hprot | hroom
  · rw [hprot] at hreal
    cases hreal
  · rw [State.writeFault, hsp, word_fault_wraps hreal] at hroom
    cases hroom

/-- Settles O17: one stack primitive, but for the wrap of a real-mode push. -/
theorem pushResult : Obligations.PushResult := by
  unfold Obligations.PushResult
  intro i v s hi hquiet
  have hexec := exec_push hquiet hi
  refine ⟨fun hroom => ?_, fun hprot e hfault => ?_, fun hreal hsp => ?_⟩
  · rw [pushOperand_push (.inr hroom), s.push_ok v hroom, complete_ok] at hexec
    exact ⟨_, hexec, pushed_spec s v⟩
  · rw [hexec, pushOperand_push (.inl hprot), s.push_fault v e hfault, complete_fault s (accessFault_vector hfault)]
  · rw [pushOperand_wraps hreal hsp] at hexec
    refine ⟨if s.freeBit 0 then 1 else 0xFFFF#16, s.draws + 1, ?_, hexec⟩
    split_ifs
    · exact .inl rfl
    · exact .inr rfl

/-! ### POP and POPF (40 R245, R246, R276) -/

theorem top_fault {s : State} (hprot : s.prot = true) {e : Exc} (h : s.readFault .ss s.regs.sp 2 = some e) :
    s.top = .error (.exc e) := by
  rw [State.top, State.popCheck, hprot, h]
  rfl

/-- A pop of a word at offset FFFFH in real mode. -/
theorem popCheck_wraps {s : State} (hreal : s.prot = false) :
    s.popCheck 0xFFFF#16 = .error (.shutdown s) ∨ s.popCheck 0xFFFF#16 = .error (.exc (Exc.gp 0)) := by
  rw [State.popCheck, hreal]
  cases Config.oddSpWrapShutdown
  · exact .inr rfl
  · exact .inl rfl

/-- An instruction that begins with such a pop: shutdown or interrupt 13, from the state before. -/
theorem complete_popCheck_wraps {s : State} (hreal : s.prot = false) (f : Unit → Exe State) :
    complete s (s.popCheck 0xFFFF#16 >>= f) = s.down ∨
      complete s (s.popCheck 0xFFFF#16 >>= f) = s.trap 13 (some 0) := by
  rcases popCheck_wraps hreal with h | h <;> rw [h]
  · exact .inl rfl
  · exact .inr rfl

theorem complete_top_wraps {s : State} (hreal : s.prot = false) (hsp : s.regs.sp = 0xFFFF#16)
    (f : Word → Exe State) :
    complete s (s.top >>= f) = s.down ∨ complete s (s.top >>= f) = s.trap 13 (some 0) := by
  rw [State.top, hsp, bind_assoc]
  exact complete_popCheck_wraps hreal _

theorem complete_top_fault {s : State} (hprot : s.prot = true) {e : Exc} (h : s.readFault .ss s.regs.sp 2 = some e)
    (f : Word → Exe State) : complete s (s.top >>= f) = s.trap e.vector e.code := by
  rw [top_fault hprot h]
  exact complete_fault s (accessFault_vector h)

theorem complete_top {s : State} (h : s.readFault .ss s.regs.sp 2 = none) (f : Word → Exe State) :
    complete s (s.top >>= f) = complete s (f (s.load .word s.ss s.regs.sp)) := by
  rw [s.top_ok h, exe_bind_ok]

theorem popDestCheck_ok {s : State} {rm : Rm} (h : s.rmWriteFault .word rm = none) : s.popDestCheck rm = .ok () := by
  rw [State.popDestCheck, h]

theorem exec_popRm {s : State} {rm : Rm} (h : s.rmWriteFault .word rm = none) :
    exec (.popRm rm) s = complete s (s.top >>= fun v => .ok ((s.dropStack 2).putBack .word rm v)) := by
  show complete s (s.popDestCheck rm >>= fun _ => s.top >>= fun v => .ok ((s.dropStack 2).putBack .word rm v)) = _
  rw [popDestCheck_ok h, exe_bind_ok]

/-- Every form begins with the word at the top of the stack. -/
theorem exec_pop {i : Instr} {s : State}
    (hi : (∃ r, i = .popReg r ∨ i = .popRm (.reg r)) ∨ i = .popf ∨ i = .popEs ∨ i = .popSs ∨ i = .popDs ∨
      ∃ m, i = .popRm (.mem m) ∧ s.rmWriteFault .word (.mem m) = none) :
    ∃ f, exec i s = complete s (s.top >>= f) := by
  rcases hi with ⟨r, rfl | rfl⟩ | rfl | rfl | rfl | rfl | ⟨m, rfl, hdest⟩
  · exact ⟨_, rfl⟩
  · exact ⟨_, exec_popRm rfl⟩
  · exact ⟨_, rfl⟩
  · exact ⟨_, rfl⟩
  · refine ⟨fun v => s.loadSReg .ss v >>= fun t => .ok (t.dropStack 2).inhibitAll, ?_⟩
    show complete s (s.popSReg .ss >>= fun t => .ok t.inhibitAll) = _
    rw [State.popSReg, bind_assoc]
    congr 2
    funext v
    rw [bind_assoc]
    rfl
  · exact ⟨_, rfl⟩
  · exact ⟨_, exec_popRm hdest⟩

/-- The flags POPF and IRET load, as the spec lists them. -/
theorem flags_pop (f : Flags) (prot : Bool) (cpl : Nat) (v : Word) :
    f.pop prot cpl v =
      { cf := v.getLsbD 0, pf := v.getLsbD 2, af := v.getLsbD 4, zf := v.getLsbD 6, sf := v.getLsbD 7,
        tf := v.getLsbD 8, df := v.getLsbD 10, of := v.getLsbD 11
        ifl := if prot = true ∧ f.iopl.toNat < cpl then f.ifl else v.getLsbD 9
        iopl := if prot = true ∧ cpl = 0 then v.extractLsb' 12 2 else f.iopl
        nt := if prot = true then v.getLsbD 14 else f.nt } := by
  cases prot with
  | false => rfl
  | true =>
    rcases Nat.lt_or_ge f.iopl.toNat cpl with h | h
    · simp [Flags.pop, Flags.ofImage, h, Nat.not_le.mpr h]
    · simp [Flags.pop, Flags.ofImage, h, Nat.not_lt.mpr h]

/-- A popped register: SP goes up first, so that POP SP leaves the word. -/
theorem popped_spec (s : State) (r : Reg) (v : Word) :
    let t := (s.dropStack 2).setReg16 r v
    t = { s with regs := t.regs } ∧ t.reg16 r = v ∧ (r ≠ .sp → t.regs.sp = s.regs.sp + 2) ∧
      ∀ q, q ≠ r → q ≠ .sp → t.reg16 q = s.reg16 q := by
  refine ⟨rfl, Regs.get_set_same _ _ _, fun hr => ?_, fun q hr hsp => ?_⟩
  · exact Regs.get_set_other (q := .sp) (s.dropStack 2).regs hr.symm v
  · exact (Regs.get_set_other _ hr v).trans (Regs.get_set_other _ hsp _)

/-! Other masters' writes do not depend on the general registers. -/

theorem applyCells_setReg16 (r : Reg) (v : Word) (cs : List Host.Cell) : ∀ s : State,
    (s.setReg16 r v).applyCells cs = (s.applyCells cs).setReg16 r v := by
  induction cs with
  | nil => exact fun _ => rfl
  | cons c cs ih => exact fun s => ih (s.putByte c.1 c.2)

theorem serveExtension_setReg16 (s : State) (r : Reg) (v x : Word) :
    (s.setReg16 r v).serveExtension x = (s.serveExtension x).setReg16 r v := by
  have hfits : ∀ t, (s.setReg16 r v).transferFits t = s.transferFits t := fun _ => rfl
  have hmove : ∀ t, (s.setReg16 r v).moveOperand t x = (s.moveOperand t x).setReg16 r v := fun t => by
    unfold State.moveOperand
    split <;> rfl
  unfold State.serveExtension
  rw [State.setReg16_npx]
  cases s.npx with
  | none => rfl
  | some t =>
    simp only [hfits, hmove]
    split <;> rfl

theorem grant_setReg16 (s : State) (r : Reg) (v : Word) (w : BusSlot) :
    (s.setReg16 r v).grant w = (s.grant w).setReg16 r v := by
  unfold State.grant
  rw [applyCells_setReg16]
  cases w.pereq with
  | none => rfl
  | some x =>
    simp only [serveExtension_setReg16, State.setReg16_npxPresent]
    split <;> rfl

theorem yieldBus_setReg16 (s : State) (r : Reg) (v : Word) :
    (s.setReg16 r v).yieldBus = s.yieldBus.setReg16 r v := by
  have hlock : (s.setReg16 r v).lockHeld = s.lockHeld := rfl
  unfold State.yieldBus
  rw [hlock, State.setReg16_bus]
  split
  · rfl
  · cases s.bus with
    | nil => rfl
    | cons w ws => exact grant_setReg16 { s with bus := ws } r v w

/-- A memory operand's address does not depend on SP. -/
theorem ea_setSp (s : State) (v : Word) (m : Mem) : (s.setSp v).ea m = s.ea m := by
  have hbase : ∀ b, (s.setSp v).baseSum b = s.baseSum b := fun b => by cases b <;> rfl
  cases m <;> simp [State.ea, hbase]

/-- A popped memory operand, written where the processor stands after other masters' writes. -/
theorem popped_mem_spec (s : State) (m : Mem) (v : Word) :
    let t := (s.dropStack 2).putBack .word (.mem m) v
    s.yieldBus.DataOnly t ∧ t.flags = s.flags ∧ s.regs.SameBut t.regs .word .sp ∧ t.regs.sp = s.regs.sp + 2 ∧
      (s.LowDecoded → t.load .word (s.seg (s.eaSeg m)) (s.ea m) = v) ∧
      s.yieldBus.MemoryKept t (s.cells .word (s.seg (s.eaSeg m)) (s.ea m)) := by
  have hea : (s.yieldBus.setSp (s.regs.sp + 2)).ea m = s.ea m :=
    (ea_setSp _ _ m).trans (State.ea_congr s.yieldBus_regs m)
  have hseg : (s.yieldBus.setSp (s.regs.sp + 2)).eaSeg m = s.eaSeg m := State.eaSeg_congr s.yieldBus_inst m
  have ht : (s.dropStack 2).putBack .word (.mem m) v =
      (s.yieldBus.setSp (s.regs.sp + 2)).store .word (s.seg (s.eaSeg m)) (s.ea m) v := by
    show ((s.setReg16 .sp (s.regs.sp + 2)).yieldBus).setRm .word (.mem m) v = _
    rw [yieldBus_setReg16, State.setRm]
    show (s.yieldBus.setSp (s.regs.sp + 2)).store .word _ ((s.yieldBus.setSp (s.regs.sp + 2)).ea m) v = _
    rw [hea]
    show (s.yieldBus.setSp (s.regs.sp + 2)).store .word
      ((s.yieldBus.setSp (s.regs.sp + 2)).seg ((s.yieldBus.setSp (s.regs.sp + 2)).eaSeg m)) (s.ea m) v = _
    rw [hseg, State.setSp_seg, State.yieldBus_seg]
  rw [ht]
  refine ⟨?_, by simp, ?_, by simp [Regs.set], fun hd => ?_, ?_⟩
  · rw [State.dataOnly_iff]
    simp
  · rw [State.store_regs, State.setSp_regs, State.yieldBus_regs]
    exact sameBut_set _ _ _
  · have hlow : (s.yieldBus.setSp (s.regs.sp + 2)).LowDecoded := by
      rw [State.LowDecoded, State.setSp_platform, State.yieldBus_platform]
      exact hd
    exact State.load_store (w := .word) _ (.inr hlow) _ _ v
  · have hkept := (s.yieldBus.setSp (s.regs.sp + 2)).store_kept .word (s.seg (s.eaSeg m)) (s.ea m) v
    have hcells : (s.yieldBus.setSp (s.regs.sp + 2)).cells .word (s.seg (s.eaSeg m)) (s.ea m) =
        s.cells .word (s.seg (s.eaSeg m)) (s.ea m) := by simp [State.cells]
    rw [hcells] at hkept
    exact fun a ha => hkept a (by simpa using ha)

/-- The destination's check of POP, in real mode with either value of SP. -/
theorem complete_popDest_fault {s : State} {m : Mem} {e : Exc} (h : s.rmWriteFault .word (.mem m) = some e) :
    (s.prot = true → exec (.popRm (.mem m)) s = s.trap e.vector e.code) ∧
      (s.prot = false → ∃ (sp : Word) (k : Nat), (sp = s.regs.sp ∨ sp = s.regs.sp + 2) ∧
        exec (.popRm (.mem m)) s = ({ s with regs := s.regs.set .sp sp, draws := k } : State).trap e.vector e.code) := by
  have hvector := rmWriteFault_vector h
  have hexec : exec (.popRm (.mem m)) s = complete s (s.popDestCheck (.mem m) >>= fun _ => s.top >>= fun v =>
    .ok ((s.dropStack 2).putBack .word (.mem m) v)) := rfl
  constructor
  · intro hprot
    have hcheck : s.popDestCheck (.mem m) = .error (.exc e) := by
      rw [State.popDestCheck, h]
      exact if_pos hprot
    rw [hexec, hcheck]
    exact complete_fault s hvector
  · intro hreal
    have hcheck : s.popDestCheck (.mem m) =
        .error (.excAt e ((s.setSp (if s.freeBit 0 then s.regs.sp + 2 else s.regs.sp)).tick 1)) := by
      rw [State.popDestCheck, h]
      exact if_neg (by simp [hreal])
    rw [hcheck] at hexec
    refine ⟨if s.freeBit 0 then s.regs.sp + 2 else s.regs.sp, s.draws + 1, ?_,
      hexec.trans (complete_faultAt s _ hvector)⟩
    split_ifs
    · exact .inr rfl
    · exact .inl rfl

/-- Settles O19: every form begins with the word at the top of the stack; what it does with it is `popped_spec`,
`popped_mem_spec` and `flags_pop`. -/
theorem popResult : Obligations.PopResult := by
  unfold Obligations.PopResult
  refine ⟨fun i s hi => ?_, fun m e s hfault => complete_popDest_fault hfault, fun s hread => ⟨?_, ?_, ?_⟩⟩
  · obtain ⟨f, hexec⟩ := exec_pop hi
    rw [hexec]
    exact ⟨fun hprot e hfault => complete_top_fault hprot hfault f, fun hreal hsp => complete_top_wraps hreal hsp f⟩
  · rintro i r (rfl | rfl)
    · exact ⟨_, complete_top hread _, popped_spec s r _⟩
    · exact ⟨_, (exec_popRm (rm := .reg r) rfl).trans (complete_top hread _), popped_spec s r _⟩
  · intro m hdest
    exact ⟨_, (exec_popRm hdest).trans (complete_top hread _), popped_mem_spec s m _⟩
  · refine (complete_top hread _).trans ?_
    rw [flags_pop]
    rfl

end Sys2Proof.Proofs.Other
end

section
/-! Ports, string instructions, LOOP and the near transfers. -/

namespace Sys2Proof.Proofs.Other

open Sys2Proof Sys2Proof.Machine Sys2Proof.Proofs.ControlTransfer

set_option Elab.async false

/-! ### Ports (20 R110; 40 R251, R252) -/

theorem getLsbD_zero_iff (v : Word) : v.getLsbD 0 = true ↔ ¬ v.toNat % 2 = 0 := by
  rw [BitVec.getLsbD, Nat.testBit_zero, decide_eq_true_eq]
  omega

/-- The port writes of one OUT, as the spec lists them. -/
theorem portWrites_word (port v : Word) (out : List Output) :
    portWrites .word port v ++ out =
      if port.toNat % 2 = 0 then .word port.toNat v :: out
      else .byte (port.toNat + 1) (v.extractLsb' 8 8) :: .byte port.toNat (v.extractLsb' 0 8) :: out := by
  by_cases h : port.toNat % 2 = 0
  · rw [if_pos h, portWrites, if_neg fun hodd => (getLsbD_zero_iff port).mp hodd h]
    rfl
  · rw [if_neg h, portWrites, if_pos ((getLsbD_zero_iff port).mpr h)]
    rfl

theorem portIn_ok {s : State} {w : Width} {port : Word} (h : w = .byte ∨ port ≠ 0xFFFF#16) :
    s.portIn w port = .ok (s.portValue w, s.tick 1) := by
  rw [State.portIn, portRefused_false w port h]
  rfl

theorem portOut_ok {s : State} {w : Width} {port : Word} (h : w = .byte ∨ port ≠ 0xFFFF#16) (v : Word) :
    s.portOut w port v = .ok { s with out := portWrites w port v ++ s.out } := by
  rw [State.portOut, portRefused_false w port h]
  rfl

theorem holds_portValue (s : State) (w : Width) : w.Holds (s.portValue w) := w.holds_trunc _

theorem portValue_given {s : State} {v : Word} (h : s.pins.portData = some v) (w : Width) :
    s.portValue w = w.trunc v := by
  rw [State.portValue, h]

theorem inPort_next {s : State} {w : Width} {port : Word} (hio : s.prot = true → s.cpl ≤ s.flags.iopl.toNat)
    (hport : w = .byte ∨ port ≠ 0xFFFF#16) :
    inPort w port s = .next ((s.tick 1).setReg w .ax (s.portValue w)) := by
  rw [inPort, s.ioCheck_ok hio, exe_bind_ok, portIn_ok hport]
  rfl

theorem outPort_next {s : State} {w : Width} {port : Word} (hio : s.prot = true → s.cpl ≤ s.flags.iopl.toNat)
    (hport : w = .byte ∨ port ≠ 0xFFFF#16) :
    outPort w port s = .next { s with out := portWrites w port (s.reg w .ax) ++ s.out } := by
  rw [outPort, s.ioCheck_ok hio, exe_bind_ok, portOut_ok hport]
  rfl

/-- Settles O23: one port operation once the privilege test has passed. -/
theorem portTransferResult : Obligations.PortTransferResult := by
  unfold Obligations.PortTransferResult
  intro w port s hio hport
  constructor
  · intro i hi
    have hexec : exec i s = inPort w port s := by rcases hi with ⟨p, rfl, rfl⟩ | ⟨rfl, rfl⟩ <;> rfl
    refine ⟨_, hexec.trans (inPort_next hio hport), by cases w <;> rfl, by simp,
      (s.tick 1).setReg_sameBut w .ax _, fun v hv => ?_⟩
    rw [State.reg_setReg, w.trunc_of_holds _ (holds_portValue s w), portValue_given hv]
  · intro i hi
    have hexec : exec i s = outPort w port s := by rcases hi with ⟨p, rfl, rfl⟩ | ⟨rfl, rfl⟩ <;> rfl
    rw [hexec, outPort_next hio hport]
    cases w with
    | byte =>
      show Host.Outcome.next { s with out := .byte port.toNat ((zeroExtend s.al).extractLsb' 0 8) :: s.out } = _
      rw [low_zeroExtend]
    | word =>
      rw [portWrites_word]
      rfl

/-! ### One element of a string instruction (43 R360-R368) -/

theorem advance_regs_si (s : State) (w : Width) :
    (s.advance w .si).regs = { s.regs with si := s.advanced w s.regs.si } := rfl

theorem advance_regs_di (s : State) (w : Width) :
    (s.advance w .di).regs = { s.regs with di := s.advanced w s.regs.di } := rfl

theorem readSource_ok {s : State} {w : Width} (h : s.readFault (s.overridden .ds) s.regs.si w.bytes = none) :
    s.readSource w = .ok (s.load w (s.seg (s.overridden .ds)) s.regs.si) := s.readMem_ok w _ _ h

theorem yieldBus_writeFault (s : State) (r : SReg) (off : Word) (n : Nat) :
    s.yieldBus.writeFault r off n = s.writeFault r off n := State.writeFault_congr (by simp) (by simp) r off n

theorem yieldBus_readFault (s : State) (r : SReg) (off : Word) (n : Nat) :
    s.yieldBus.readFault r off n = s.readFault r off n := State.readFault_congr (by simp) (by simp) r off n

theorem afterBus_eq {α : Type} (s : State) (f : State → Exe α) : s.afterBus f = keepBus s.yieldBus (f s.yieldBus) :=
  rfl

/-- An element stored at ES:DI: what is in memory afterwards, and what is not touched. `g` names the state in which the
segment and the offset are read, before other masters' writes. -/
theorem stored_element (s : State) (w : Width) (seg : Segment) (off v : Word) (hv : w.Holds v) :
    s.DataOnly (s.store w seg off v) ∧ (s.store w seg off v).flags = s.flags ∧
      (w = .byte ∨ s.LowDecoded → (s.store w seg off v).load w seg off = v) ∧
      s.MemoryKept (s.store w seg off v) (s.cells w seg off) := by
  refine ⟨?_, s.store_flags w seg off v, fun hd => ?_, s.store_kept w seg off v⟩
  · rw [State.dataOnly_iff]
    simp
  · rw [s.load_store hd, w.trunc_of_holds v hv]

theorem load_setReg16 (s : State) (r : Reg) (v : Word) (w : Width) (g : Segment) (off : Word) :
    (s.setReg16 r v).load w g off = s.load w g off := by cases w <;> rfl

theorem load_advance (s : State) (w : Width) (r : Reg) (w' : Width) (g : Segment) (off : Word) :
    (s.advance w r).load w' g off = s.load w' g off := load_setReg16 s r _ w' g off

theorem byteAt_advance (s : State) (w : Width) (r : Reg) (a : Nat) : (s.advance w r).byteAt a = s.byteAt a := rfl

theorem dataOnly_advance {s t : State} (h : s.DataOnly t) (w : Width) (r : Reg) : s.DataOnly (t.advance w r) := by
  rw [State.dataOnly_iff] at h ⊢
  exact h

theorem yieldBus_cells (s : State) (w : Width) (g : Segment) (off : Word) :
    s.yieldBus.cells w g off = s.cells w g off := by cases w <;> simp [State.cells]

/-- MOVS: the source element is stored, then SI and DI advance. -/
theorem exec_movs {s : State} {w : Width} (hrep : s.inst.rep ≠ none → s.regs.cx ≠ 0)
    (hsrc : s.readFault (s.overridden .ds) s.regs.si w.bytes = none)
    (hdst : s.writeFault .es s.regs.di w.bytes = none) :
    exec (.movs w) s = .next (s.afterIteration
      (((s.yieldBus.store w s.es s.regs.di (s.load w (s.seg (s.overridden .ds)) s.regs.si)).advance w .si).advance w
        .di) false) := by
  refine stringPass_next false _ s _ ?_ hrep (by simp [State.advance])
  rw [readSource_ok hsrc, exe_bind_ok, afterBus_eq, State.writeMem_ok _ _ _ _ _ (by
    rw [yieldBus_writeFault, State.yieldBus_regs]
    exact hdst)]
  simp only [keepBus_ok, exe_bind_ok, State.yieldBus_regs, State.yieldBus_seg]
  rfl

theorem exec_stos {s : State} {w : Width} (hrep : s.inst.rep ≠ none → s.regs.cx ≠ 0)
    (hdst : s.writeFault .es s.regs.di w.bytes = none) :
    exec (.stos w) s = .next (s.afterIteration ((s.store w s.es s.regs.di (s.reg w .ax)).advance w .di) false) := by
  refine stringPass_next false _ s _ ?_ hrep (by simp [State.advance])
  rw [s.writeMem_ok w _ _ _ hdst]
  rfl

theorem exec_lods {s : State} {w : Width} (hrep : s.inst.rep ≠ none → s.regs.cx ≠ 0)
    (hsrc : s.readFault (s.overridden .ds) s.regs.si w.bytes = none) :
    exec (.lods w) s = .next (s.afterIteration
      ((s.setReg w .ax (s.load w (s.seg (s.overridden .ds)) s.regs.si)).advance w .si) false) := by
  refine stringPass_next false _ s _ ?_ hrep (by simp [State.advance])
  rw [readSource_ok hsrc]
  rfl

/-- LODS: AL or AX takes the element and SI advances. -/
theorem loaded_element (s : State) (w : Width) {v : Word} (hv : w.Holds v) :
    let u := (s.setReg w .ax v).advance w .si
    u = { s with regs := u.regs } ∧ u.reg w .ax = v ∧ u.regs.si = s.advanced w s.regs.si ∧
      (∀ q, q ≠ .ax → q ≠ .si → u.reg16 q = s.reg16 q) ∧ (w = .byte → u.ah = s.ah) := by
  intro u
  have hax : u.reg w .ax = (s.setReg w .ax v).reg w .ax := by cases w <;> rfl
  refine ⟨by cases w <;> rfl, ?_, by cases w <;> rfl, fun q hq hsi => ?_, ?_⟩
  · rw [hax, State.reg_setReg, w.trunc_of_holds v hv]
  · refine (Regs.get_set_other _ hsi _).trans ?_
    cases w with
    | word => exact Regs.get_set_other _ hq _
    | byte =>
      cases q with
      | ax => exact absurd rfl hq
      | _ => rfl
  · rintro rfl
    exact high_setLow _ _

/-- Settles O24: each iteration is one element moved and its indices advanced. -/
theorem stringMoveResult : Obligations.StringMoveResult := by
  unfold Obligations.StringMoveResult
  intro w s hrep src srcOk dstOk
  refine ⟨fun hsrc hdst => ?_, fun hdst => ?_, fun hsrc => ?_⟩
  · obtain ⟨honly, hflags, hload, hkept⟩ := stored_element s.yieldBus w s.es s.regs.di src (s.holds_load w _ _)
    refine ⟨_, exec_movs hrep hsrc hdst, dataOnly_advance (dataOnly_advance honly w .si) w .di,
      hflags.trans s.yieldBus_flags, ?_, fun hd => ?_, ?_⟩
    · rw [advance_regs_di, advance_regs_si]
      simp [State.advanced, State.advance]
    · rw [load_advance, load_advance]
      refine hload (hd.imp_right fun hlow => ?_)
      rw [State.LowDecoded, State.yieldBus_platform]
      exact hlow
    · rw [yieldBus_cells] at hkept
      exact hkept
  · obtain ⟨honly, hflags, hload, hkept⟩ := stored_element s w s.es s.regs.di (s.reg w .ax) (s.holds_reg w .ax)
    refine ⟨_, exec_stos hrep hdst, dataOnly_advance honly w .di, hflags, ?_, fun hd => ?_, hkept⟩
    · rw [advance_regs_di]
      simp [State.advanced]
    · rw [load_advance]
      exact hload hd
  · exact ⟨_, exec_lods hrep hsrc, loaded_element s w (s.holds_load w _ _)⟩

/-! ### CMPS and SCAS -/

theorem exec_cmps {s : State} {w : Width} (hrep : s.inst.rep ≠ none → s.regs.cx ≠ 0)
    (hsrc : s.readFault (s.overridden .ds) s.regs.si w.bytes = none)
    (hdst : s.readFault .es s.regs.di w.bytes = none) :
    exec (.cmps w) s = .next (s.afterIteration
      (((s.yieldBus.setFlags (s.flags.sub w false (s.load w (s.seg (s.overridden .ds)) s.regs.si)
        (s.yieldBus.load w s.es s.regs.di))).advance w .si).advance w .di) true) := by
  refine stringPass_next true _ s _ ?_ hrep (by simp [State.advance])
  rw [readSource_ok hsrc, exe_bind_ok, afterBus_eq, State.readMem_ok _ _ _ _ (by
    rw [yieldBus_readFault, State.yieldBus_regs]
    exact hdst)]
  simp only [exe_bind_ok, keepBus_ok, State.yieldBus_regs, State.yieldBus_seg, State.yieldBus_flags]
  rfl

theorem exec_scas {s : State} {w : Width} (hrep : s.inst.rep ≠ none → s.regs.cx ≠ 0)
    (hdst : s.readFault .es s.regs.di w.bytes = none) :
    exec (.scas w) s = .next (s.afterIteration
      ((s.setFlags (s.flags.sub w false (s.reg w .ax) (s.load w s.es s.regs.di))).advance w .di) true) := by
  refine stringPass_next true _ s _ ?_ hrep rfl
  rw [s.readMem_ok w _ _ hdst]
  rfl

/-- The flags of a comparison, in plain arithmetic. -/
theorem compared_spec (f : Flags) {w : Width} {a b : Word} (ha : w.Holds a) (hb : w.Holds b) :
    f.StatusOnly (f.sub w false a b) ∧
      (f.sub w false a b).ShowResult w (BitVec.ofInt 16 (((a.toNat : Int) - b.toNat) % 2 ^ w.bits)) ∧
      (f.sub w false a b).cf = decide (a.toNat < b.toNat) ∧
      (f.sub w false a b).af = decide (a.toNat % 16 < b.toNat % 16) ∧
      (f.sub w false a b).of = !w.fits (w.toInt a - w.toInt b) := by
  have hspec := f.sub_spec w false a b ha hb
  rwa [subResult_eq_ofInt _ _ _ _ ha hb, Bool.toNat_false, Nat.cast_zero, sub_zero, sub_zero, Nat.add_zero,
    Nat.add_zero] at hspec

/-- Settles O25: each iteration is one comparison, whose flags `afterIteration` tests. -/
theorem stringCompareResult : Obligations.StringCompareResult := by
  unfold Obligations.StringCompareResult
  intro w s hrep hdst compared
  refine ⟨fun hsrc => ⟨_, exec_cmps hrep hsrc hdst, rfl, ?_, ?_⟩, ⟨_, exec_scas hrep hdst, rfl, rfl, ?_⟩⟩
  · rw [advance_regs_di, advance_regs_si]
    simp [State.advanced, State.advance, State.setFlags, Flags.sub, Flags.setSZP]
  · exact compared_spec s.flags (s.holds_load w _ _) (s.yieldBus.holds_load w _ _)
  · exact compared_spec s.flags (s.holds_reg w .ax) (s.holds_load w _ _)

/-! ### INS and OUTS -/

theorem exec_ins {s : State} {w : Width} (hrep : s.inst.rep ≠ none → s.regs.cx ≠ 0)
    (hio : s.prot = true → s.cpl ≤ s.flags.iopl.toNat) (hport : w = .byte ∨ s.regs.dx ≠ 0xFFFF#16)
    (hdst : s.writeFault .es s.regs.di w.bytes = none) :
    exec (.ins w) s = .next (s.afterIteration
      (((s.tick 1).store w s.es s.regs.di (s.portValue w)).advance w .di) false) := by
  refine stringPass_next false _ s _ ?_ hrep (by simp [State.advance])
  rw [s.ioCheck_ok hio, exe_bind_ok, hdst, check_none, exe_bind_ok, portIn_ok hport]
  rfl

theorem exec_outs {s : State} {w : Width} (hrep : s.inst.rep ≠ none → s.regs.cx ≠ 0)
    (hio : s.prot = true → s.cpl ≤ s.flags.iopl.toNat) (hport : w = .byte ∨ s.regs.dx ≠ 0xFFFF#16)
    (hsrc : s.readFault (s.overridden .ds) s.regs.si w.bytes = none) :
    exec (.outs w) s = .next (s.afterIteration
      (({ s with out := portWrites w s.regs.dx (s.load w (s.seg (s.overridden .ds)) s.regs.si) ++ s.out } :
        State).advance w .si) false) := by
  refine stringPass_next false _ s _ ?_ hrep rfl
  rw [s.ioCheck_ok hio, exe_bind_ok, readSource_ok hsrc, exe_bind_ok, portOut_ok hport]
  rfl

/-- Settles O26: each iteration is one port operation and one memory access. -/
theorem stringPortResult : Obligations.StringPortResult := by
  unfold Obligations.StringPortResult
  intro w s hrep hio hport
  refine ⟨fun hdst => ?_, fun hsrc => ⟨_, exec_outs hrep hio hport hsrc, rfl, rfl, ?_⟩⟩
  · obtain ⟨honly, hflags, hload, hkept⟩ :=
      stored_element (s.tick 1) w s.es s.regs.di (s.portValue w) (holds_portValue s w)
    refine ⟨_, exec_ins hrep hio hport hdst, ?_, hflags, ?_, fun v hv hd => ?_, hkept⟩
    · refine dataOnly_advance ?_ w .di
      rw [State.dataOnly_iff] at honly ⊢
      exact honly
    · rw [advance_regs_di]
      simp [State.advanced]
    · rw [load_advance, ← portValue_given hv]
      exact hload hd
  · cases w with
    | byte => rfl
    | word => exact portWrites_word _ _ _

/-! ### LOOP, LOOPE and LOOPNE (44 R395-R397) -/

/-- The three forms with the condition they test on ZF. -/
theorem exec_loop {i : Instr} {c : Prop} {cb : Byte} {s : State}
    (hi : (i = .loop cb ∧ c = True) ∨ (i = .loope cb ∧ c = (s.flags.zf = true)) ∨
      (i = .loopne cb ∧ c = (s.flags.zf = false))) :
    ∃ b : Bool, exec i s = loopIf b cb s ∧ (b = true ↔ c) := by
  rcases hi with ⟨rfl, rfl⟩ | ⟨rfl, rfl⟩ | ⟨rfl, rfl⟩
  · exact ⟨true, rfl, by simp⟩
  · exact ⟨_, rfl, .rfl⟩
  · exact ⟨_, rfl, not_eq_true_iff .rfl⟩

theorem sub_one_eq_zero (v : Word) : v - 1 = 0 ↔ v = 1 := by
  rw [sub_eq_zero]

/-- A loop whose jump is taken checks the target before CX counts down. -/
theorem loopIf_taken {b : Bool} {s : State} (hcx : s.regs.cx ≠ 1) (hb : b = true) (cb : Byte) :
    loopIf b cb s = complete s (do
      check (s.nearFault (BitVec.ofInt 16 (s.ip.toNat + cb.toInt)))
      .ok ((s.setReg16 .cx (s.regs.cx - 1)).jumpTo (BitVec.ofInt 16 (s.ip.toNat + cb.toInt)))) := by
  rw [← relative_target]
  refine if_pos ?_
  rw [hb, Bool.and_true, bne_iff_ne]
  exact fun h => hcx ((sub_one_eq_zero _).mp h)

theorem loopIf_not_taken {b : Bool} {s : State} (h : s.regs.cx = 1 ∨ b = false) (cb : Byte) :
    loopIf b cb s = .next (s.setReg16 .cx (s.regs.cx - 1)) := by
  refine if_neg ?_
  rw [Bool.and_eq_true, bne_iff_ne]
  rintro ⟨hcx, hb⟩
  rcases h with h | h
  · exact hcx ((sub_one_eq_zero _).mpr h)
  · rw [h] at hb
    cases hb

/-- Settles O29: the count and the condition decide whether there is a jump, the limit how it ends. -/
theorem loopResult : Obligations.LoopResult := by
  unfold Obligations.LoopResult
  intro i c cb s hi target t
  obtain ⟨b, hexec, hb⟩ := exec_loop hi
  rw [hexec]
  refine ⟨fun hcx hc hin => ?_, fun h => ?_, fun hcx hc hbeyond => ?_⟩
  · rw [loopIf_taken hcx (hb.mpr hc), s.nearFault_none _ hin]
    rfl
  · refine loopIf_not_taken (h.imp_right fun hc => ?_) cb
    rw [← Bool.not_eq_true]
    exact fun h => hc (hb.mp h)
  · rw [loopIf_taken hcx (hb.mpr hc), s.nearFault_some _ hbeyond]
    rfl

/-! ### Near JMP, CALL and RET (44 R398-R402) -/

/-- Every form is a near jump or a near call to its target. -/
theorem exec_near {i : Instr} {calls : Bool} {target : Word} {s : State} (hquiet : s.Quiet)
    (hi : (∃ cb, i = .jmpShort cb ∧ calls = false ∧ target = BitVec.ofInt 16 (s.ip.toNat + cb.toInt)) ∨
      (∃ cw, i = .jmpNear cw ∧ calls = false ∧ target = s.ip + cw) ∨
      (∃ rm, i = .jmpRm rm ∧ calls = false ∧ s.rmReadFault .word rm = none ∧ target = s.rmValue .word rm) ∨
      (∃ cw, i = .callNear cw ∧ calls = true ∧ target = s.ip + cw) ∨
      (∃ rm, i = .callRm rm ∧ calls = true ∧ s.rmReadFault .word rm = none ∧ target = s.rmValue .word rm)) :
    exec i s = complete s (if calls then s.callNearTo target else s.jumpNear target) := by
  rcases hi with ⟨cb, rfl, rfl, rfl⟩ | ⟨cw, rfl, rfl, rfl⟩ | ⟨rm, rfl, rfl, hread, rfl⟩ | ⟨cw, rfl, rfl, rfl⟩ |
    ⟨rm, rfl, rfl, hread, rfl⟩
  · rw [← relative_target]
    rfl
  · rfl
  · exact complete_readRm hread _
  · rfl
  · exact (complete_readRm hread _).trans (complete_afterBus hquiet _)

/-- A near call: target and room are checked before anything changes. -/
theorem complete_callNearTo {s : State} {target : Word} (hin : s.InCode target) :
    complete s (s.callNearTo target) = complete s (s.push s.ip >>= fun t => .ok (t.jumpTo target)) := by
  rw [State.callNearTo, s.nearFault_none target hin]
  rfl

/-- Every near return takes the word at the top of the stack and releases its immediate's bytes. -/
theorem exec_retNear {i : Instr} {n : Word} (hi : (i = .retNear ∧ n = 0) ∨ i = .retNearImm n) (s : State) :
    exec i s = complete s (s.top >>= fun t => check (s.nearFault t) >>= fun _ =>
      .ok ((s.dropStack (2 + n)).jumpTo t)) := by
  rcases hi with ⟨rfl, rfl⟩ | rfl <;> rfl

/-- Settles O30: the checks of target and stack decide how a near transfer ends. -/
theorem nearTransferResult : Obligations.NearTransferResult := by
  unfold Obligations.NearTransferResult
  refine ⟨fun i calls target s hquiet hi => ?_, fun i n s hi => ?_⟩
  · have hexec := exec_near hquiet hi
    refine ⟨fun hin hcalls => ?_, fun hin hcalls hroom => ?_, fun hin hcalls e hfault => ?_, fun hbeyond => ?_⟩
    · rw [hexec, hcalls]
      exact complete_jumpNear_inCode hin
    · rw [hcalls, if_pos rfl, complete_callNearTo hin, s.push_ok _ hroom] at hexec
      obtain ⟨-, -, -, -, hload, hkept⟩ := pushed_spec s s.ip
      exact ⟨_, hexec, rfl, hload, hkept⟩
    · rw [hexec, hcalls, if_pos rfl, complete_callNearTo hin, s.push_fault _ e hfault]
      exact complete_fault s (accessFault_vector hfault)
    · rw [hexec]
      cases calls with
      | false => exact complete_jumpNear_beyond hbeyond
      | true =>
        rw [if_pos rfl, State.callNearTo, s.nearFault_some target hbeyond]
        rfl
  · rw [exec_retNear hi]
    refine ⟨fun hread => ⟨fun hin => ?_, fun hbeyond => ?_⟩, fun hprot e hfault => complete_top_fault hprot hfault _,
      fun hreal hsp => complete_top_wraps hreal hsp _⟩
    · rw [complete_top hread, s.nearFault_none _ hin, BitVec.add_assoc]
      rfl
    · rw [complete_top hread, s.nearFault_some _ hbeyond]
      rfl

end Sys2Proof.Proofs.Other
end

section
/-! Descriptors: what a selector names, the tests it is put to, and the loads of DS, ES and SS. -/

namespace Sys2Proof.Proofs.Other

open Sys2Proof Sys2Proof.Machine

set_option Elab.async false

/-! ### What a selector names (20 R91-R95) -/

theorem selNull_true {sel : Word} (h : sel.toNat < 4) : selNull sel = true := (selNull_iff sel).mpr h

theorem selNull_false {sel : Word} (h : 4 ≤ sel.toNat) : selNull sel = false := by
  rw [Bool.eq_false_iff, ne_eq, selNull_iff]
  exact Nat.not_lt.mpr h

theorem errorCode_eq (sel : Word) (ext : Bool) : selCode sel ext = errorCode sel ext := rfl

theorem errorCode_null (ext : Bool) : extCode ext = errorCode 0 ext := by cases ext <;> rfl

theorem testSel_unnamed {s : State} {sel : Word} (h : sel.toNat < 4 ∨ s.fetchDesc sel = none) (test : Desc → Bool) :
    s.testSel sel test = .error .bad := by
  rw [State.testSel]
  by_cases hnull : selNull sel = true
  · rw [if_pos hnull]
  · rw [if_neg hnull, h.resolve_left fun hlt => hnull (selNull_true hlt)]

theorem testSel_wrong {s : State} {sel : Word} {d : Desc} (h : s.Named sel d) {test : Desc → Bool}
    (htest : ¬ test d = true) : s.testSel sel test = .error .bad := by
  rw [s.testSel_named sel d test h, if_neg htest]

theorem testSel_absent {s : State} {sel : Word} {d : Desc} (h : s.Named sel d) {test : Desc → Bool}
    (htest : test d = true) (hp : d.ar.getLsbD 7 = false) : s.testSel sel test = .error .absent := by
  rw [s.testSel_named sel d test h, if_pos htest, hp]
  rfl

theorem testSel_found {s : State} {sel : Word} {d : Desc} (h : s.Named sel d) {test : Desc → Bool}
    (htest : test d = true) (hp : d.ar.getLsbD 7 = true) : s.testSel sel test = .ok d := by
  rw [s.testSel_named sel d test h, if_pos htest, hp]
  rfl

/-! ### The tests -/

theorem rightsReadable_iff (ar : Byte) : rightsReadable ar = true ↔ (ar.getLsbD 3 = true → ar.getLsbD 1 = true) := by
  rw [rightsReadable, rightsCode]
  cases ar.getLsbD 3 <;> simp

theorem rightsWritable_iff (ar : Byte) : rightsWritable ar = true ↔ ar.getLsbD 3 = false ∧ ar.getLsbD 1 = true := by
  rw [rightsWritable, rightsCode, Bool.and_eq_true, Bool.not_eq_true']

theorem rightsConforming_iff (ar : Byte) :
    rightsConforming ar = true ↔ ar.getLsbD 3 = true ∧ ar.getLsbD 2 = true := by
  rw [rightsConforming, rightsCode, Bool.and_eq_true]

theorem dataTest_iff (level : Nat) (sel : Word) (d : Desc) :
    dataTest level sel d = true ↔ d.DataFits level sel := by
  rw [dataTest, Bool.and_eq_true, Bool.and_eq_true, Bool.or_eq_true, Bool.and_eq_true, decide_eq_true_eq,
    decide_eq_true_eq, rightsReadable_iff, rightsConforming_iff, Desc.DataFits, and_assoc,
    and_comm (a := selRpl sel ≤ _)]
  rfl

theorem stackTest_iff (level : Nat) (sel : Word) (d : Desc) :
    stackTest level sel d = true ↔ d.StackFits level sel := by
  rw [stackTest, Bool.and_eq_true, Bool.and_eq_true, Bool.and_eq_true, decide_eq_true_eq, decide_eq_true_eq,
    rightsWritable_iff, Desc.StackFits, and_assoc, and_assoc, and_assoc]
  rfl

theorem codeTest_iff (level : Nat) (d : Desc) : codeTest level d = true ↔ d.CodeFits level := by
  rw [codeTest, Desc.CodeFits, Bool.and_eq_true, Bool.and_eq_true, and_assoc]
  refine and_congr_right fun _ => and_congr_right fun hcode => ?_
  have hconf : rightsConforming d.ar = d.ar.getLsbD 2 := by
    rw [rightsConforming, show rightsCode d.ar = true from hcode, Bool.true_and]
  rw [hconf]
  split_ifs <;> exact decide_eq_true_iff

theorem type_eq_iff (ar : Byte) (n : Nat) (hn : n < 16) :
    rightsType ar = n ↔ ar.extractLsb' 0 4 = BitVec.ofNat 4 n := by
  rw [rightsType, ← BitVec.toNat_inj, BitVec.toNat_ofNat, Nat.mod_eq_of_lt (by omega : n < 2 ^ 4)]

theorem ldtTest_iff (sel : Word) (d : Desc) : ldtTest sel d = true ↔ d.LdtFits sel := by
  rw [ldtTest, Bool.and_eq_true, Bool.and_eq_true, Bool.not_eq_true', Bool.not_eq_true', decide_eq_true_eq,
    type_eq_iff d.ar 2 (by norm_num), and_assoc]
  rfl

theorem tssTest_iff (busy : Bool) (sel : Word) (d : Desc) :
    tssTest busy sel d = true ↔
      sel.getLsbD 2 = false ∧ d.ar.getLsbD 4 = false ∧ d.ar.extractLsb' 0 4 = if busy then 3#4 else 1#4 := by
  rw [tssTest, Bool.and_eq_true, Bool.and_eq_true, Bool.not_eq_true', Bool.not_eq_true', decide_eq_true_eq,
    type_eq_iff d.ar _ (by cases busy <;> norm_num), and_assoc]
  cases busy <;> rfl

/-! ### The accessed bit (20 R96) -/

/-- A descriptor's access byte is the sixth of its bytes. -/
theorem fetchDesc_ar {s : State} {sel : Word} {d : Desc} (h : s.fetchDesc sel = some d) :
    s.byteAt (d.addr + 5) = d.ar := by
  rw [State.fetchDesc, Option.map_eq_some_iff] at h
  obtain ⟨a, -, rfl⟩ := h
  rfl

theorem staleAfter_eq (s : State) (p : Nat) (old : Byte) :
    s.staleAfter p old = { s.fetch with stale := (s.staleAfter p old).stale } := by
  rw [State.staleAfter]
  split <;> rfl

theorem putByte_eq (s : State) (a : Nat) (v : Byte) :
    s.putByte a v = { s with
      mem := (s.putByte a v).mem, writes := (s.putByte a v).writes
      fetch := { s.fetch with stale := (s.putByte a v).fetch.stale } } := by
  exact congrArg (fun f : FetchState => { s with
    mem := (s.putByte a v).mem, writes := (s.putByte a v).writes, fetch := f })
    (staleAfter_eq s (s.physAddr a) (s.byteAt a))

/-- Loading a segment register sets the accessed bit of the descriptor and changes no other byte. -/
theorem loadSeg_byteAt {s : State} {d : Desc} (h : s.byteAt (d.addr + 5) = d.ar) (r : SReg) (sel : Word) :
    (s.loadSeg r d sel).byteAt (d.addr + 5) = d.ar ||| 1#8 := by
  rw [State.loadSeg, State.markAccessed, State.byteAt_putByte, if_pos rfl, State.setSeg_byteAt, h]
  rfl

theorem loadSeg_kept (s : State) (r : SReg) (d : Desc) (sel : Word) :
    s.MemoryKept (s.loadSeg r d sel) [s.physAddr (d.addr + 5)] := by
  have h := (s.setSeg r (d.toSegment sel)).putByte_kept (d.addr + 5)
    ((s.setSeg r (d.toSegment sel)).byteAt (d.addr + 5) ||| 1)
  rw [State.setSeg_physAddr] at h
  exact fun a ha => (h a (by rwa [State.setSeg_physAddr])).trans (s.setSeg_byteAt r _ a)

/-! ### Segment loads (20 R104-R106; 40 R234, R247, R254, R255) -/

/-- What a load does once the segment register holds its new value. -/
def finishLoad (x : SegLoad) (r : SReg) (s u : State) : State :=
  { u with regs := x.regs s, inhibit := if r = .ss then .all else u.inhibit }

theorem finishLoad_setSeg (x : SegLoad) (r : SReg) (g : Segment) (s : State) :
    finishLoad x r s (s.setSeg r g) = x.result r g s := by
  cases r <;> rfl

/-- Every form loads the segment register with its selector, and then does its own part, whatever was loaded. -/
theorem exec_segLoad {x : SegLoad} {r : SReg} {i : Instr} {s : State} (hi : x.instr r = some i) (hready : x.ready s)
    (hquiet : s.Quiet) :
    ∃ f : State → State, (∀ u, u.regs = s.regs → f u = finishLoad x r s u) ∧
      exec i s = complete s (s.loadSReg r (x.selector s) >>= fun u => .ok (f u)) := by
  cases x with
  | mov rm =>
    have hread : s.readRm .word rm = .ok (s.rmValue .word rm) := s.readRm_ok .word rm hready
    have hmov : ∀ q, s.movSReg q rm = s.loadSReg q (s.rmValue .word rm) := fun q => by
      rw [State.movSReg, hread, exe_bind_ok]
    cases r with
    | cs => cases hi
    | ss =>
      cases hi
      refine ⟨State.inhibitAll, fun u hu => by simp [finishLoad, SegLoad.regs, ← hu, State.inhibitAll], ?_⟩
      show complete s (s.movSReg .ss rm >>= fun t => .ok t.inhibitAll) = _
      rw [hmov]
      rfl
    | es | ds =>
      cases hi
      refine ⟨id, fun u hu => by simp [finishLoad, SegLoad.regs, ← hu], ?_⟩
      show complete s (s.movSReg _ rm) = _
      rw [hmov, show (fun u : State => (Except.ok (id u) : Exe State)) = pure from rfl, bind_pure]
      rfl
  | pop =>
    have htop : s.top = .ok (s.load .word s.ss s.regs.sp) := s.top_ok hready
    have hpop : ∀ q, s.popSReg q = s.loadSReg q (s.load .word s.ss s.regs.sp) >>= fun t => .ok (t.dropStack 2) :=
      fun q => by rw [State.popSReg, htop, exe_bind_ok]
    have hdrop : ∀ u : State, u.regs = s.regs → u.dropStack 2 = { u with regs := s.regs.set .sp (s.regs.sp + 2) } :=
      fun u hu => by rw [← hu]; rfl
    cases r with
    | cs => cases hi
    | ss =>
      cases hi
      refine ⟨fun u => (u.dropStack 2).inhibitAll, fun u hu => congrArg State.inhibitAll (hdrop u hu), ?_⟩
      show complete s (s.popSReg .ss >>= fun t => .ok t.inhibitAll) = _
      rw [hpop, bind_assoc]
      rfl
    | es | ds =>
      cases hi
      refine ⟨fun u => u.dropStack 2, fun u hu => hdrop u hu, ?_⟩
      show complete s (s.popSReg _) = _
      rw [hpop]
      rfl
  | far q m =>
    have hload : ∀ p, complete s (s.loadPointer p q m) =
        complete s (s.loadSReg p (s.load .word (s.seg (s.eaSeg m)) (s.ea m + 2)) >>= fun t =>
          .ok (t.setReg16 q (s.load .word (s.seg (s.eaSeg m)) (s.ea m)))) := fun p => by
      rw [State.loadPointer, s.readPair_ok m _ hready.1 hready.2, complete_afterReads hquiet,
        State.yields_quiet hquiet]
    have hset : ∀ (u : State) (v : Word), u.regs = s.regs → u.setReg16 q v = { u with regs := s.regs.set q v } :=
      fun u v hu => by rw [← hu]; rfl
    cases r with
    | cs | ss => cases hi
    | es | ds =>
      cases hi
      exact ⟨_, fun u hu => by rw [hset u _ hu]; rfl, hload _⟩

theorem ofReal_base (v : Word) : (Segment.ofReal v).base.toNat = 16 * v.toNat := by
  show (0#4 ++ v ++ 0#4 : BitVec 24).toNat = _
  rw [BitVec.toNat_append, BitVec.toNat_append]
  show (0 <<< 16 ||| v.toNat) <<< 4 ||| 0 = _
  rw [Nat.or_zero, Nat.zero_shiftLeft, Nat.zero_or, Nat.shiftLeft_eq, mul_comm]

/-- A load that succeeds ends the instruction. -/
theorem exec_segLoad_ok {x : SegLoad} {r : SReg} {i : Instr} {s u : State} (hi : x.instr r = some i)
    (hready : x.ready s) (hquiet : s.Quiet) (hload : s.loadSReg r (x.selector s) = .ok u) (hu : u.regs = s.regs) :
    exec i s = .next (finishLoad x r s u) := by
  obtain ⟨f, hf, hexec⟩ := exec_segLoad hi hready hquiet
  rw [hexec, hload, ← hf u hu]
  rfl

/-- Settles O20: in real mode a load cannot fail. -/
theorem segmentLoadReal : Obligations.SegmentLoadReal := by
  unfold Obligations.SegmentLoadReal
  intro x r i s hi hready hreal hquiet
  have hload : s.loadSReg r (x.selector s) = .ok (s.setSeg r (Segment.ofReal (x.selector s))) := by
    rw [State.loadSReg, hreal]
    rfl
  have hexec := exec_segLoad_ok hi hready hquiet hload (s.setSeg_regs r _)
  rw [finishLoad_setSeg] at hexec
  exact ⟨_, hexec, rfl, ofReal_base _, rfl, rfl⟩

/-- The load of DS, ES or SS in protected mode. -/
def loadProt (s : State) (r : SReg) (sel : Word) : Exe State :=
  if r = .ss then s.loadSS sel else s.loadDataSeg r sel

theorem loadSReg_prot {s : State} (hprot : s.prot = true) (hquiet : s.Quiet) (r : SReg) (sel : Word) :
    s.loadSReg r sel = keepBus s (loadProt s r sel) := by
  rw [State.loadSReg, if_pos hprot, State.afterBus_quiet hquiet]
  cases r <;> rfl

/-- What the descriptor must be, by the register. -/
def loadFits (s : State) (r : SReg) (sel : Word) (d : Desc) : Prop :=
  if r = .ss then d.StackFits s.cpl sel else d.DataFits s.cpl sel

/-- A load in protected mode, by what its selector names. -/
theorem loadProt_null_data {s : State} {r : SReg} {sel : Word} (hr : r ≠ .ss) (hsel : sel.toNat < 4) :
    loadProt s r sel = .ok (s.setSeg r { s.seg r with sel := sel, valid := false, real := false }) := by
  rw [loadProt, if_neg hr, State.loadDataSeg, if_pos (selNull_true hsel)]

theorem loadProt_null_stack {s : State} {sel : Word} (hsel : sel.toNat < 4) :
    loadProt s .ss sel = .error (.exc (Exc.gp 0)) := by
  rw [loadProt, if_pos rfl, State.loadSS, if_pos (selNull_true hsel)]

theorem loadProt_named {s : State} {r : SReg} {sel : Word} (hsel : 4 ≤ sel.toNat) :
    loadProt s r sel =
      (orExc (s.testSel sel (if r = .ss then stackTest s.cpl sel else dataTest s.cpl sel)) (Exc.gp (sel &&& 0xFFFC#16))
        (if r = .ss then Exc.ss (sel &&& 0xFFFC#16) else Exc.np (sel &&& 0xFFFC#16)) >>= fun d =>
        .ok (s.loadSeg r d sel)) := by
  have hnull : ¬ selNull sel = true := by simp [selNull_false hsel]
  by_cases hr : r = .ss
  · subst hr
    rw [loadProt, if_pos rfl, if_pos rfl, if_pos rfl, State.loadSS, if_neg hnull, selCode_false]
  · rw [loadProt, if_neg hr, if_neg hr, if_neg hr, State.loadDataSeg, if_neg hnull, selCode_false]

theorem loadTest_iff (s : State) (r : SReg) (sel : Word) (d : Desc) :
    (if r = .ss then stackTest s.cpl sel else dataTest s.cpl sel) d = true ↔ loadFits s r sel d := by
  rw [loadFits]
  split_ifs
  · exact stackTest_iff _ _ _
  · exact dataTest_iff _ _ _

theorem loadProt_unnamed {s : State} {r : SReg} {sel : Word} (hsel : 4 ≤ sel.toNat) (hnone : s.fetchDesc sel = none) :
    loadProt s r sel = .error (.exc (Exc.gp (sel &&& 0xFFFC#16))) := by
  rw [loadProt_named hsel, testSel_unnamed (.inr hnone)]
  rfl

theorem loadProt_wrong {s : State} {r : SReg} {sel : Word} {d : Desc} (h : s.Named sel d)
    (hfits : ¬ loadFits s r sel d) : loadProt s r sel = .error (.exc (Exc.gp (sel &&& 0xFFFC#16))) := by
  rw [loadProt_named h.1, testSel_wrong h fun htest => hfits ((loadTest_iff s r sel d).mp htest)]
  rfl

theorem loadProt_absent {s : State} {r : SReg} {sel : Word} {d : Desc} (h : s.Named sel d)
    (hfits : loadFits s r sel d) (hp : d.ar.getLsbD 7 = false) :
    loadProt s r sel =
      .error (.exc (if r = .ss then Exc.ss (sel &&& 0xFFFC#16) else Exc.np (sel &&& 0xFFFC#16))) := by
  rw [loadProt_named h.1, testSel_absent h ((loadTest_iff s r sel d).mpr hfits) hp]
  rfl

theorem loadProt_found {s : State} {r : SReg} {sel : Word} {d : Desc} (h : s.Named sel d)
    (hfits : loadFits s r sel d) (hp : d.ar.getLsbD 7 = true) :
    loadProt s r sel = .ok (s.loadSeg r d sel) := by
  rw [loadProt_named h.1, testSel_found h ((loadTest_iff s r sel d).mpr hfits) hp]
  rfl

/-- What a load of a descriptor leaves. -/
theorem finishLoad_loadSeg (x : SegLoad) (r : SReg) (s : State) (d : Desc) (sel : Word) :
    finishLoad x r s (s.loadSeg r d sel) =
      { x.result r (d.cached sel) s with
        mem := (s.loadSeg r d sel).mem, writes := (s.loadSeg r d sel).writes
        fetch := { s.fetch with stale := (s.loadSeg r d sel).fetch.stale } } := by
  rw [State.loadSeg, State.markAccessed, putByte_eq, finishLoad]
  cases r <;> rfl

/-- Settles O21: the descriptor passes its test, and its accessed bit is set where it stands. -/
theorem segmentLoadProtected : Obligations.SegmentLoadProtected := by
  unfold Obligations.SegmentLoadProtected
  intro x r i d s hi hready hprot hquiet sel hsel hdesc hpresent hsegment hrights
  have hfits : loadFits s r sel d := by
    rw [loadFits]
    split_ifs at hrights ⊢ with hr
    · obtain ⟨hdata, hwrite, hdpl, hrpl⟩ := hrights
      exact ⟨hrpl, hsegment, hdata, hwrite, hdpl⟩
    · exact ⟨hsegment, hrights⟩
  have hload : s.loadSReg r sel = .ok (s.loadSeg r d sel) := by
    rw [loadSReg_prot hprot hquiet, loadProt_found ⟨hsel, hdesc⟩ hfits hpresent]
    rfl
  exact ⟨_, _, exec_segLoad_ok hi hready hquiet hload (by simp), finishLoad_loadSeg x r s d sel, rfl,
    loadSeg_byteAt (fetchDesc_ar hdesc) r sel, loadSeg_kept s r d sel⟩

/-- A load that fails ends the instruction with the exception of its listing, from the state before. -/
theorem exec_segLoad_fault {x : SegLoad} {r : SReg} {i : Instr} {s : State} {e : Exc} (hi : x.instr r = some i)
    (hready : x.ready s) (hprot : s.prot = true) (hquiet : s.Quiet)
    (hload : loadProt s r (x.selector s) = .error (.exc e)) (he : e.vector ≠ 16) :
    exec i s = s.trap e.vector e.code := by
  obtain ⟨f, -, hexec⟩ := exec_segLoad hi hready hquiet
  rw [hexec, loadSReg_prot hprot hquiet, complete_keepBus_bind, hload, exe_bind_error, complete_fault s he]

/-- Settles O22: the exceptions of the load, in the listing's order. -/
theorem segmentLoadTraps : Obligations.SegmentLoadTraps := by
  unfold Obligations.SegmentLoadTraps
  intro x r i s hi hready hprot hquiet sel trap
  have fault : ∀ {v : Byte} {c : Word}, v ≠ 16 →
      loadProt s r sel = .error (.exc { vector := v, code := some c }) → exec i s = trap v c :=
    fun hv hload => exec_segLoad_fault hi hready hprot hquiet hload hv
  refine ⟨fun hnull hr => ?_, fun hnull hr => ?_, fun hsel hnone => ?_, fun hsel d hdesc => ?_⟩
  · have hload : s.loadSReg r sel = .ok (s.setSeg r { s.seg r with sel := sel, valid := false, real := false }) := by
      rw [loadSReg_prot hprot hquiet, loadProt_null_data hr hnull]
      rfl
    rw [exec_segLoad_ok hi hready hquiet hload (s.setSeg_regs r _), finishLoad_setSeg]
  · subst hr
    exact fault (by decide) (loadProt_null_stack hnull)
  · exact fault (by decide) (loadProt_unnamed hsel hnone)
  · have hnamed : s.Named sel d := ⟨hsel, hdesc⟩
    have wrong : ¬ loadFits s r sel d → exec i s = trap 13 (sel &&& 0xFFFC#16) := fun h =>
      fault (by decide) (loadProt_wrong hnamed h)
    have absent := fun (h : loadFits s r sel d) hp => loadProt_absent hnamed h hp
    refine ⟨fun hsystem => wrong ?_, fun hr hsegment hbad => wrong ?_,
      fun hr hsegment hdata hwrite hdpl hrpl hp => ?_, fun hr hsegment hcode hread => wrong ?_,
      fun hr hsegment hconf hlevel => wrong ?_, fun hr hsegment hread hlevel hp => ?_⟩
    · rw [loadFits]
      split_ifs
      · exact fun h => Bool.eq_false_iff.mp hsystem h.2.1
      · exact fun h => Bool.eq_false_iff.mp hsystem h.1
    · rw [loadFits, if_pos hr]
      rintro ⟨hrpl, -, hdata, hwrite, hdpl⟩
      rcases hbad with h | h | h | h
      · exact Bool.eq_false_iff.mp hdata h
      · exact Bool.eq_false_iff.mp h hwrite
      · exact h hdpl
      · exact h hrpl
    · subst hr
      exact fault (by decide) (absent ⟨hrpl, hsegment, hdata, hwrite, hdpl⟩ hp)
    · rw [loadFits, if_neg hr]
      rintro ⟨-, hreadable, -⟩
      exact Bool.eq_false_iff.mp hread (hreadable hcode)
    · rw [loadFits, if_neg hr]
      rintro ⟨-, -, ⟨hcode, hconforming⟩ | ⟨hcpl, hrpl⟩⟩
      · exact hconf.elim (Bool.eq_false_iff.mp · hcode) (Bool.eq_false_iff.mp · hconforming)
      · omega
    · have hload := absent (by rw [loadFits, if_neg hr]; exact ⟨hsegment, hread, hlevel⟩) hp
      rw [if_neg hr] at hload
      exact fault (by decide) hload

end Sys2Proof.Proofs.Other
end

section
/-! Processor and protection control: HLT, WAIT and ESC, the status word, the table registers, LDTR and TR, the selector
tests, what traps for want of privilege, and the operands that fail their checks. -/

namespace Sys2Proof.Proofs.Other

open Sys2Proof Sys2Proof.Machine

set_option Elab.async false

/-! ### HLT, WAIT and ESC (47 R490-R493) -/

/-- A privileged instruction whose test passes. -/
theorem complete_supervisor {s : State} (h : s.prot = true → s.cpl = 0) (f : Unit → Exe State) :
    complete s (s.supervisorCheck >>= f) = complete s (f ()) := by
  rw [s.supervisorCheck_ok h, exe_bind_ok]

/-- What WAIT does once it is not trapped. -/
theorem exec_wait {s : State} (h : s.msw.getLsbD 1 = false ∨ s.msw.getLsbD 3 = false) :
    exec .wait s = complete s
      (if s.busy then .ok (s.goOn .stall) else ensure (!s.extError) Exc.mf >>= fun _ => .ok s) := by
  have hnm : (!(s.mp && s.taskSwitched)) = true := by
    rw [State.mp, State.taskSwitched]
    rcases h with h | h <;> simp only [h, Bool.false_and, Bool.and_false, Bool.not_false]
  show complete s (ensure (!(s.mp && s.taskSwitched)) Exc.nm >>= _) = _
  rw [hnm, ensure_true, exe_bind_ok]

theorem exec_wait_nm {s : State} (hmp : s.msw.getLsbD 1 = true) (hts : s.msw.getLsbD 3 = true) :
    exec .wait s = s.trap 7 none := by
  show complete s (ensure (!(s.mp && s.taskSwitched)) Exc.nm >>= _) = _
  rw [State.mp, State.taskSwitched, hmp, hts]
  rfl

theorem exec_esc_nm {s : State} (h : s.msw.getLsbD 2 = true ∨ s.msw.getLsbD 3 = true) (ttt lll : BitVec 3) (rm : Rm) :
    exec (.esc ttt lll rm) s = s.trap 7 none := by
  have hnm : (!(s.em || s.taskSwitched)) = false := by
    rw [State.em, State.taskSwitched]
    rcases h with h | h <;> simp only [h, Bool.true_or, Bool.or_true, Bool.not_true]
  show complete s (ensure (!(s.em || s.taskSwitched)) Exc.nm >>= _) = _
  rw [hnm]
  rfl

/-- What ESC does once it is not trapped and an extension is there. -/
theorem exec_esc {s : State} (hem : s.msw.getLsbD 2 = false) (hts : s.msw.getLsbD 3 = false)
    (hnpx : s.npxPresent = true) (ttt lll : BitVec 3) (rm : Rm) :
    exec (.esc ttt lll rm) s = complete s (check (s.escFault ttt lll rm) >>= fun _ =>
      ensure (!(s.extError && Config.escTestsError ttt lll rm)) Exc.mf >>= fun _ =>
        if s.busy && Config.escTestsBusy ttt lll rm then .ok (s.goOn .stall) else .ok (s.handEsc ttt lll rm)) := by
  show complete s (ensure (!(s.em || s.taskSwitched)) Exc.nm >>= _) = _
  rw [State.em, State.taskSwitched, hem, hts, Bool.or_false, Bool.not_false, ensure_true, exe_bind_ok, hnpx]
  rfl

theorem escFault_of_both {s : State} {rm : Rm} {e : Option Exc} (hread : s.rmReadFault .word rm = e)
    (hwrite : s.rmWriteFault .word rm = e) (ttt lll : BitVec 3) : s.escFault ttt lll rm = e := by
  rw [State.escFault]
  split_ifs
  · exact hwrite
  · exact hread

/-- Settles O45: the tests of each listing in order. -/
theorem haltWaitEscapeResult : Obligations.HaltWaitEscapeResult := by
  unfold Obligations.HaltWaitEscapeResult
  intro s
  refine ⟨fun hcpl => complete_supervisor hcpl _, exec_wait_nm, fun hnm => ⟨fun hidle => ?_, fun hnpx hbusy => ?_,
    fun hnpx hbusy herror => ?_⟩, fun ttt lll rm => ⟨fun hnm => exec_esc_nm hnm ttt lll rm,
    fun hem hts hnpx hbusy herror hread hwrite => ?_⟩⟩
  · have hb : s.busy = false := by rcases hidle with h | h <;> simp [State.busy, h]
    have he : s.extError = false := by rcases hidle with h | h <;> simp [State.extError, h]
    rw [exec_wait hnm, hb, he]
    rfl
  · have hb : s.busy = true := by rw [State.busy, hnpx, hbusy]; rfl
    rw [exec_wait hnm, hb]
    rfl
  · have hb : s.busy = false := by rw [State.busy, hbusy, Bool.and_false]
    have he : s.extError = true := by rw [State.extError, hnpx, herror]; rfl
    rw [exec_wait hnm, hb, he]
    rfl
  · have hb : s.busy = false := by rw [State.busy, hbusy, Bool.and_false]
    have he : s.extError = false := by rw [State.extError, herror, Bool.and_false]
    have hexec : exec (.esc ttt lll rm) s = .next (s.handEsc ttt lll rm) := by
      rw [exec_esc hem hts hnpx, escFault_of_both hread hwrite, hb, he]
      rfl
    cases rm with
    | reg r => exact ⟨none, none, hexec, fun _ _ => ⟨rfl, rfl⟩, nofun⟩
    | mem m =>
      refine ⟨_, _, hexec, nofun, fun m' hm => ?_⟩
      cases hm
      exact ⟨rfl, _, rfl⟩

/-! ### The machine status word (47 R497, 48 R529) -/

/-- A bit beyond the width is 0, so that only the sixteen bits of a word need a look. -/
theorem getLsbD_mswLoaded (msw v : Word) (k : Nat) :
    (mswLoaded msw v).getLsbD k =
      if k = 0 then msw.getLsbD 0 || v.getLsbD 0 else if k < 4 then v.getLsbD k else msw.getLsbD k := by
  by_cases hk : k < 16
  · interval_cases k <;> simp [mswLoaded]
  · rw [if_neg (by omega), if_neg (by omega), BitVec.getLsbD_of_ge _ _ (by omega), BitVec.getLsbD_of_ge _ _ (by omega)]

theorem getLsbD_clearTs (msw : Word) (k : Nat) :
    ((msw &&& 0xFFF7#16) ||| 0).getLsbD k = (msw.getLsbD k && decide (k ≠ 3)) := by
  by_cases hk : k < 16
  · interval_cases k <;> simp
  · rw [BitVec.getLsbD_of_ge _ _ (by omega), BitVec.getLsbD_of_ge _ _ (by omega), Bool.false_and]

/-- Settles O46: bit by bit. -/
theorem statusWordResult : Obligations.StatusWordResult := by
  unfold Obligations.StatusWordResult
  intro rm s hcpl
  refine ⟨fun hread => ?_, ⟨_, complete_supervisor hcpl _, rfl, getLsbD_clearTs s.msw⟩⟩
  refine ⟨_, (complete_supervisor hcpl _).trans (complete_readRm hread _), ?_, fun hpe => ?_, fun k => ?_⟩
  · split_ifs <;> rfl
  · rw [State.pe, hpe]
    rfl
  · refine Eq.trans ?_ (getLsbD_mswLoaded s.msw (s.rmValue .word rm) k)
    split_ifs <;> rfl

/-! ### The table registers (48 R512-R515) -/

theorem readTriple_ok {s : State} {m : Mem} (hquiet : s.Quiet) (h₀ : s.readFault (s.eaSeg m) (s.ea m) 2 = none)
    (h₂ : s.readPart (s.eaSeg m) (s.ea m) 2 = none) (h₄ : s.readPart (s.eaSeg m) (s.ea m) 4 = none) :
    s.readTriple m = .ok (s.load .word (s.seg (s.eaSeg m)) (s.ea m), s.load .word (s.seg (s.eaSeg m)) (s.ea m + 2),
      s.load .word (s.seg (s.eaSeg m)) (s.ea m + 4)) := by
  simp only [State.readTriple]
  rw [h₀, h₂, h₄, State.yields_quiet hquiet, State.yields_quiet hquiet]
  rfl

theorem store_quiet {s : State} (h : s.Quiet) (w : Width) (g : Segment) (off v : Word) : (s.store w g off v).Quiet :=
  (s.store_bus w g off v).trans h

/-- Three words stored one after the other. -/
def storeTriple (s : State) (g : Segment) (off x y z : Word) : State :=
  ((s.store .word g off x).store .word g (off + 2) y).store .word g (off + 4) z

theorem writeTriple_ok {s : State} {m : Mem} (hquiet : s.Quiet) (h₀ : s.writeFault (s.eaSeg m) (s.ea m) 2 = none)
    (h₂ : s.writePart (s.eaSeg m) (s.ea m) 2 = none) (h₄ : s.writePart (s.eaSeg m) (s.ea m) 4 = none)
    (x y z : Word) : s.writeTriple m x y z = .ok (storeTriple s (s.seg (s.eaSeg m)) (s.ea m) x y z) := by
  simp only [State.writeTriple]
  rw [h₀, h₂, h₄, State.yieldBus_quiet (store_quiet hquiet _ _ _ _),
    State.yieldBus_quiet (store_quiet (store_quiet hquiet _ _ _ _) _ _ _ _)]
  rfl

theorem store_cells (s : State) (w w' : Width) (g g' : Segment) (off off' v : Word) :
    (s.store w g off v).cells w' g' off' = s.cells w' g' off' := by cases w' <;> simp [State.cells]

/-- A store to one word of a segment leaves a word beside it. -/
theorem load_store_apart {s : State} (hd : s.LowDecoded) (g : Segment) {a b : Word}
    (hab : ∀ j < 2, ∀ k < 2, (a.toNat + j) % 2 ^ 16 ≠ (b.toNat + k) % 2 ^ 16) (v : Word) :
    (s.store .word g a v).load .word g b = s.load .word g b := by
  refine State.load_kept (s.store_kept .word g a v) (by simp) .word g b fun c hc hc' => ?_
  simp only [State.cells, List.mem_cons, List.not_mem_nil, or_false] at hc hc'
  rcases hc with rfl | rfl <;> rcases hc' with h | h
  · exact hab 0 (by norm_num) 0 (by norm_num) (s.physAddr_inj hd g (j := 0) (k := 0) h.symm)
  · exact hab 1 (by norm_num) 0 (by norm_num) (s.physAddr_inj hd g (j := 1) (k := 0) h.symm)
  · exact hab 0 (by norm_num) 1 (by norm_num) (s.physAddr_inj hd g (j := 0) (k := 1) h.symm)
  · exact hab 1 (by norm_num) 1 (by norm_num) (s.physAddr_inj hd g (j := 1) (k := 1) h.symm)

theorem storeTriple_loads {s : State} (hd : s.LowDecoded) (g : Segment) (off x y z : Word) :
    (storeTriple s g off x y z).load .word g off = x ∧ (storeTriple s g off x y z).load .word g (off + 2) = y ∧
      (storeTriple s g off x y z).load .word g (off + 4) = z := by
  have hd₁ : (s.store .word g off x).LowDecoded := by simpa [State.LowDecoded] using hd
  have hd₂ : ((s.store .word g off x).store .word g (off + 2) y).LowDecoded := by simpa [State.LowDecoded] using hd
  have h₂ : (off + 2).toNat = (off.toNat + 2) % 2 ^ 16 := BitVec.toNat_add ..
  have h₄ : (off + 4).toNat = (off.toNat + 4) % 2 ^ 16 := BitVec.toNat_add ..
  rw [storeTriple]
  refine ⟨?_, ?_, State.load_store _ (.inr hd₂) g _ z⟩
  · rw [load_store_apart hd₂ g (by intros; omega), load_store_apart hd₁ g (by intros; omega)]
    exact s.load_store (.inr hd) g off x
  · rw [load_store_apart hd₂ g (by intros; omega)]
    exact State.load_store _ (.inr hd₁) g _ y

theorem storeTriple_kept (s : State) (g : Segment) (off x y z : Word) :
    s.MemoryKept (storeTriple s g off x y z) (s.cells .word g off ++ s.cells .word g (off + 2) ++
      s.cells .word g (off + 4)) := by
  have h₁ := s.store_kept .word g off x
  have h₂ := (s.store .word g off x).store_kept .word g (off + 2) y
  have h₃ := ((s.store .word g off x).store .word g (off + 2) y).store_kept .word g (off + 4) z
  rw [store_cells] at h₂
  rw [store_cells, store_cells] at h₃
  exact (h₁.trans h₂).trans h₃

/-- The three words a table register is stored as give it back, whatever the sixth byte holds. -/
theorem tableOfWords_split (x : TableReg) (b : Byte) :
    tableOfWords x.limit (x.base.extractLsb' 0 16) (b ++ x.base.extractLsb' 16 8) = x := by
  have hlow : (b ++ x.base.extractLsb' 16 8).extractLsb' 0 8 = x.base.extractLsb' 16 8 := by
    rw [BitVec.extractLsb'_append_eq_right]
  have hbase : (x.base.extractLsb' 16 8 ++ x.base.extractLsb' 0 16 : Base24) = x.base := by
    ext i hi
    rw [BitVec.getElem_append]
    split
    · simp [BitVec.getLsbD_eq_getElem hi]
    · simp only [BitVec.getElem_extractLsb']
      rw [show 16 + (i - 16) = i by omega, BitVec.getLsbD_eq_getElem hi]
  rw [tableOfWords, hlow, hbase]

theorem exec_storeTable {i : Instr} {m : Mem} {x : TableReg} {s : State}
    (hi : (i = .sgdt m ∧ x = s.gdtr) ∨ (i = .sidt m ∧ x = s.idtr)) : exec i s = complete s (s.storeTable m x) := by
  rcases hi with ⟨rfl, rfl⟩ | ⟨rfl, rfl⟩ <;> rfl

theorem storeTable_ok {s : State} {m : Mem} (hquiet : s.Quiet) (h₀ : s.writeFault (s.eaSeg m) (s.ea m) 2 = none)
    (h₂ : s.writePart (s.eaSeg m) (s.ea m) 2 = none) (h₄ : s.writePart (s.eaSeg m) (s.ea m) 4 = none)
    (x : TableReg) : s.storeTable m x = .ok (storeTriple (s.tick 1) (s.seg (s.eaSeg m)) (s.ea m) x.limit
      (x.base.extractLsb' 0 16) (s.freeByte 0 ++ x.base.extractLsb' 16 8)) :=
  writeTriple_ok (s := s.tick 1) hquiet h₀ h₂ h₄ _ _ _

/-- Settles O47: three words read, or written one beside the other. -/
theorem descriptorTableRegisters : Obligations.DescriptorTableRegisters := by
  unfold Obligations.DescriptorTableRegisters
  intro m s g a value
  refine ⟨fun hquiet hcpl h₀ h₂ h₄ => ?_, fun hquiet h₀ h₂ h₄ i x hi => ?_⟩
  · have hread : s.readTable m = .ok (value s) := by
      rw [State.readTable, s.supervisorCheck_ok hcpl, exe_bind_ok, readTriple_ok hquiet h₀ h₂ h₄]
      rfl
    constructor
    · show complete s (s.readTable m >>= _) = _
      rw [hread, exe_bind_ok, State.yields_quiet hquiet]
      rfl
    · show complete s (s.readTable m >>= _) = _
      rw [hread, exe_bind_ok, State.yields_quiet hquiet]
      rfl
  · have hexec := exec_storeTable hi
    rw [storeTable_ok hquiet h₀ h₂ h₄ x] at hexec
    refine ⟨_, hexec, ?_, by simp [storeTriple], by simp [storeTriple], fun hd => ?_, ?_⟩
    · rw [State.dataOnly_iff]
      simp [storeTriple]
    · obtain ⟨hlimit, hbase, hlast⟩ := storeTriple_loads (s := s.tick 1) hd g a x.limit (x.base.extractLsb' 0 16)
        (s.freeByte 0 ++ x.base.extractLsb' 16 8)
      show tableOfWords _ _ _ = x
      rw [hlimit, hbase, hlast, tableOfWords_split]
    · exact storeTriple_kept (s.tick 1) g a _ _ _

/-! ### LDTR and TR (48 R516, R518) -/

/-- A selector read by an instruction of level 0 of protected mode. -/
theorem complete_ring0_read {s : State} {rm : Rm} (hprot : s.prot = true) (hcpl : s.cpl = 0)
    (hread : s.rmReadFault .word rm = none) (f : Word → Exe State) :
    complete s (s.protCheck >>= fun _ => s.supervisorCheck >>= fun _ => s.readRm .word rm >>= f) =
      complete s (f (s.rmValue .word rm)) := by
  rw [State.protCheck, hprot, ensure_true, exe_bind_ok, complete_supervisor fun _ => hcpl, complete_readRm hread]

/-- What LLDT loads. -/
def loadedLdtr (s : State) (sel : Word) (d : Desc) : State :=
  { s with ldtr := { sel := sel, base := d.base, limit := d.word0, valid := true } }

/-- What LTR loads and stores. -/
def loadedTr (s : State) (sel : Word) (d : Desc) : State :=
  { s.putByte (d.addr + 5) (d.ar ||| 0x02#8) with tr := { sel := sel, base := d.base, limit := d.word0 } }

theorem exec_lldt_null {s : State} {rm : Rm} (hprot : s.prot = true) (hcpl : s.cpl = 0)
    (hread : s.rmReadFault .word rm = none) (hsel : (s.rmValue .word rm).toNat < 4) :
    exec (.lldt rm) s = .next { s with ldtr := { s.ldtr with sel := s.rmValue .word rm, valid := false } } := by
  refine (complete_ring0_read hprot hcpl hread _).trans ?_
  rw [if_pos (selNull_true hsel)]
  rfl

/-- The selector is put to a test: the exceptions of both instructions. -/
def loadSystem (s : State) (sel : Word) (test : Desc → Bool) (f : Desc → Exe State) : Answer :=
  complete s (orExc (s.testSel sel test) (Exc.gp (sel &&& 0xFFFC#16)) (Exc.np (sel &&& 0xFFFC#16)) >>= f)

theorem exec_lldt {s : State} {rm : Rm} (hprot : s.prot = true) (hcpl : s.cpl = 0) (hquiet : s.Quiet)
    (hread : s.rmReadFault .word rm = none) (hsel : 4 ≤ (s.rmValue .word rm).toNat) :
    exec (.lldt rm) s = loadSystem s (s.rmValue .word rm) (ldtTest (s.rmValue .word rm))
      fun d => .ok (loadedLdtr s (s.rmValue .word rm) d) := by
  refine (complete_ring0_read hprot hcpl hread _).trans ?_
  rw [if_neg (Bool.eq_false_iff.mp (selNull_false hsel)), complete_afterBus hquiet, selCode_false]
  rfl

theorem exec_ltr {s : State} {rm : Rm} (hprot : s.prot = true) (hcpl : s.cpl = 0) (hquiet : s.Quiet)
    (hread : s.rmReadFault .word rm = none) :
    exec (.ltr rm) s = loadSystem s (s.rmValue .word rm) (tssTest false (s.rmValue .word rm))
      fun d => .ok (loadedTr s (s.rmValue .word rm) d) := by
  refine (complete_ring0_read hprot hcpl hread _).trans ?_
  rw [complete_afterBus hquiet, selCode_false]
  rfl

theorem loadSystem_unnamed {s : State} {sel : Word} (h : sel.toNat < 4 ∨ s.fetchDesc sel = none) (test : Desc → Bool)
    (f : Desc → Exe State) : loadSystem s sel test f = s.trap 13 (some (sel &&& 0xFFFC#16)) := by
  rw [loadSystem, testSel_unnamed h]
  rfl

theorem loadSystem_wrong {s : State} {sel : Word} {d : Desc} (h : s.Named sel d) {test : Desc → Bool}
    (htest : ¬ test d = true) (f : Desc → Exe State) :
    loadSystem s sel test f = s.trap 13 (some (sel &&& 0xFFFC#16)) := by
  rw [loadSystem, testSel_wrong h htest]
  rfl

theorem loadSystem_absent {s : State} {sel : Word} {d : Desc} (h : s.Named sel d) {test : Desc → Bool}
    (htest : test d = true) (hp : d.ar.getLsbD 7 = false) (f : Desc → Exe State) :
    loadSystem s sel test f = s.trap 11 (some (sel &&& 0xFFFC#16)) := by
  rw [loadSystem, testSel_absent h htest hp]
  rfl

theorem loadSystem_found {s : State} {sel : Word} {d : Desc} (h : s.Named sel d) {test : Desc → Bool}
    (htest : test d = true) (hp : d.ar.getLsbD 7 = true) (f : Desc → Exe State) :
    loadSystem s sel test f = complete s (f d) := by
  rw [loadSystem, testSel_found h htest hp]
  rfl

theorem tssTest_available_iff (sel : Word) (d : Desc) :
    tssTest false sel d = true ↔
      sel.getLsbD 2 = false ∧ d.ar.getLsbD 4 = false ∧ d.ar.extractLsb' 0 4 = 1#4 := tssTest_iff false sel d

/-- Settles O48: the test of the descriptor decides. -/
theorem ldtrTrResult : Obligations.LdtrTrResult := by
  unfold Obligations.LdtrTrResult
  intro rm s hprot hcpl hquiet hread sel bad
  have hltr := exec_ltr hprot hcpl hquiet hread
  have hlldt := fun hsel : 4 ≤ sel.toNat => exec_lldt hprot hcpl hquiet hread hsel
  refine ⟨fun hnull => ⟨exec_lldt_null hprot hcpl hread hnull, hltr.trans (loadSystem_unnamed (.inl hnull) _ _)⟩,
    fun hsel hbad => ?_, fun d hnamed hgdt => ?_⟩
  · cases hdesc : s.fetchDesc sel with
    | none =>
      exact ⟨(hlldt hsel).trans (loadSystem_unnamed (.inr hdesc) _ _), hltr.trans (loadSystem_unnamed (.inr hdesc) _ _)⟩
    | some d =>
      have hldt : sel.getLsbD 2 = true := hbad.resolve_right (by rw [hdesc]; nofun)
      exact ⟨(hlldt hsel).trans (loadSystem_wrong ⟨hsel, hdesc⟩
          (fun h => Bool.eq_false_iff.mp ((ldtTest_iff sel d).mp h).1 hldt) _),
        hltr.trans (loadSystem_wrong ⟨hsel, hdesc⟩
          (fun h => Bool.eq_false_iff.mp ((tssTest_available_iff sel d).mp h).1 hldt) _)⟩
  · have hlldt := hlldt hnamed.1
    refine ⟨fun ⟨hp, hs, htype⟩ => hlldt.trans (loadSystem_found hnamed
        ((ldtTest_iff sel d).mpr ⟨hgdt, hs, htype⟩) hp _),
      fun ⟨hp, hs, htype⟩ => ⟨_, hltr.trans (loadSystem_found hnamed
        ((tssTest_available_iff sel d).mpr ⟨hgdt, hs, htype⟩) hp _), ?_, ?_, s.putByte_kept _ _⟩,
      fun hbad => hlldt.trans (loadSystem_wrong hnamed (fun h => ?_) _),
      fun hbad => hltr.trans (loadSystem_wrong hnamed (fun h => ?_) _),
      fun hs hp => ⟨fun htype => hlldt.trans (loadSystem_absent hnamed
          ((ldtTest_iff sel d).mpr ⟨hgdt, hs, htype⟩) hp _),
        fun htype => hltr.trans (loadSystem_absent hnamed
          ((tssTest_available_iff sel d).mpr ⟨hgdt, hs, htype⟩) hp _)⟩⟩
    · exact congrArg (fun u : State => { u with tr := { sel := sel, base := d.base, limit := d.word0 } })
        (putByte_eq s (d.addr + 5) (d.ar ||| 0x02#8))
    · exact (State.byteAt_putByte s _ _ _).trans (if_pos rfl)
    · obtain ⟨-, hs, htype⟩ := (ldtTest_iff sel d).mp h
      exact hbad.elim (Bool.eq_false_iff.mp hs ·) (· htype)
    · obtain ⟨-, hs, htype⟩ := (tssTest_available_iff sel d).mp h
      exact hbad.elim (Bool.eq_false_iff.mp hs ·) (· htype)

/-! ### Selector tests (48 R520-R525) -/

theorem rightsType_eq (ar : Byte) : rightsType ar = ar.toNat % 16 := by
  rw [rightsType, BitVec.extractLsb'_toNat, Nat.shiftRight_zero]

theorem visible_iff (s : State) (sel : Word) (ar : Byte) :
    s.visible sel ar = true ↔
      (ar.getLsbD 4 = true ∧ ar.getLsbD 3 = true ∧ ar.getLsbD 2 = true) ∨
        (s.cpl ≤ rightsDpl ar ∧ sel.toNat % 4 ≤ rightsDpl ar) := by
  rw [State.visible, Bool.or_eq_true, Bool.and_eq_true, Bool.and_eq_true, rightsConforming_iff, decide_eq_true_iff,
    decide_eq_true_iff]
  rfl

theorem seenDesc_eq_some {s : State} {sel : Word} {d : Desc} : s.seenDesc sel = some d ↔ s.Named sel d := by
  rw [State.seenDesc, State.Named]
  by_cases hsel : sel.toNat < 4
  · rw [if_pos (selNull_true hsel)]
    exact ⟨nofun, fun h => absurd hsel (Nat.not_lt.mpr h.1)⟩
  · rw [if_neg (Bool.eq_false_iff.mp (selNull_false (Nat.le_of_not_lt hsel)))]
    exact (and_iff_right (Nat.le_of_not_lt hsel)).symm

theorem selectorTest_eq_some {s : State} {sel : Word} {type : Byte → Bool} {d : Desc} :
    s.selectorTest sel type = some d ↔ s.Named sel d ∧ type d.ar = true ∧ s.visible sel d.ar = true := by
  rw [← seenDesc_eq_some, State.selectorTest]
  cases s.seenDesc sel with
  | none => exact ⟨nofun, nofun⟩
  | some d' =>
    show (if type d'.ar && s.visible sel d'.ar then some d' else none) = some d ↔ _
    rw [Option.some_inj]
    constructor
    · intro h
      split_ifs at h with htest
      cases h
      exact ⟨rfl, by rwa [Bool.and_eq_true] at htest⟩
    · rintro ⟨rfl, htest⟩
      rw [if_pos (by rwa [Bool.and_eq_true])]

/-- The accessed bit is all a test may change in memory. -/
theorem accessedFree_cases (s : State) (sel : Word) :
    s.accessedFree sel = s ∨
      ∃ d b, s.fetchDesc sel = some d ∧ s.accessedFree sel = (s.putByte (d.addr + 5) b).tick 1 := by
  cases hseen : s.seenDesc sel with
  | none => exact .inl (by rw [State.accessedFree, hseen])
  | some d =>
    have hfree : s.accessedFree sel = if rightsSegment d.ar then
        (s.putByte (d.addr + 5) (if s.freeBit 0 then d.ar ||| 1 else d.ar &&& 0xFE#8)).tick 1 else s := by
      rw [State.accessedFree, hseen]
    by_cases hseg : rightsSegment d.ar = true
    · exact .inr ⟨d, _, (seenDesc_eq_some.mp hseen).2, hfree.trans (if_pos hseg)⟩
    · exact .inl (hfree.trans (if_neg hseg))

theorem accessedFree_spec (s : State) (sel : Word) :
    s.DataOnly (s.accessedFree sel) ∧ (s.accessedFree sel).flags = s.flags ∧ (s.accessedFree sel).regs = s.regs ∧
      (∀ d, s.fetchDesc sel = some d → s.MemoryKept (s.accessedFree sel) [s.physAddr (d.addr + 5)]) ∧
      (s.fetchDesc sel = none → (s.accessedFree sel).mem = s.mem) := by
  rcases accessedFree_cases s sel with h | ⟨d, b, hdesc, h⟩ <;> rw [h]
  · exact ⟨rfl, rfl, rfl, fun d _ => State.MemoryKept.refl s _, fun _ => rfl⟩
  · refine ⟨?_, rfl, rfl, fun d' hd' => ?_, fun hnone => by rw [hdesc] at hnone; cases hnone⟩
    · rw [State.dataOnly_iff]
      simp
    · rw [hdesc, Option.some_inj] at hd'
      subst hd'
      exact s.putByte_kept _ _

/-- The registers after a selector test: the value LAR or LSL loads, if the test succeeded. -/
def testedRegs (g : Regs) (r : Reg) (value : Option (Desc → Word)) (found : Option Desc) : Regs :=
  match found, value with
  | some d, some f => g.set r (f d)
  | _, _ => g

/-- What a selector test leaves, by the descriptor it accepts and what it loads. -/
def afterTest (s : State) (sel : Word) (r : Reg) (value : Option (Desc → Word)) (found : Option Desc) : State :=
  { (s.accessedFree sel).setZf found.isSome with regs := testedRegs (s.accessedFree sel).regs r value found }

/-- A selector read in protected mode. -/
theorem complete_prot_read {s : State} {rm : Rm} (hprot : s.prot = true)
    (hread : s.rmReadFault .word rm = none) (f : Word → Exe State) :
    complete s (s.protCheck >>= fun _ => s.readRm .word rm >>= f) = complete s (f (s.rmValue .word rm)) := by
  rw [State.protCheck, hprot, ensure_true, exe_bind_ok, complete_readRm hread]

theorem exec_verify {s : State} {rm : Rm} (hprot : s.prot = true) (hquiet : s.Quiet)
    (hread : s.rmReadFault .word rm = none) (test : Byte → Bool) (r : Reg) :
    verify test rm s =
      .next (afterTest s (s.rmValue .word rm) r none (s.selectorTest (s.rmValue .word rm) test)) := by
  refine (complete_prot_read hprot hread _).trans ?_
  rw [complete_afterBus hquiet, complete_ok]
  cases s.selectorTest (s.rmValue .word rm) test <;> rfl

theorem larType_iff (ar : Byte) :
    larType ar = true ↔ ar.getLsbD 4 = true ∨ (1 ≤ ar.toNat % 16 ∧ ar.toNat % 16 ≤ 7) := by
  rw [larType, Bool.or_eq_true, Bool.and_eq_true, decide_eq_true_iff, decide_eq_true_iff, rightsType_eq]
  rfl

theorem lslType_iff (ar : Byte) :
    lslType ar = true ↔ ar.getLsbD 4 = true ∨ (1 ≤ ar.toNat % 16 ∧ ar.toNat % 16 ≤ 3) := by
  rw [lslType, Bool.or_eq_true, Bool.and_eq_true, decide_eq_true_iff, decide_eq_true_iff, rightsType_eq]
  rfl

theorem verrType_iff (ar : Byte) :
    verrType ar = true ↔ ar.getLsbD 4 = true ∧ (ar.getLsbD 3 = true → ar.getLsbD 1 = true) := by
  rw [verrType, Bool.and_eq_true, rightsReadable_iff]
  rfl

theorem verwType_iff (ar : Byte) :
    verwType ar = true ↔ ar.getLsbD 4 = true ∧ ar.getLsbD 3 = false ∧ ar.getLsbD 1 = true := by
  rw [verwType, Bool.and_eq_true, rightsWritable_iff]
  rfl

/-- The four tests are one, with the types each accepts and the value it loads. -/
theorem exec_selectorTest {i : Instr} {r : Reg} {rm : Rm} {s : State} {type : Byte → Prop}
    {value : Option (Desc → Word)} (hprot : s.prot = true) (hquiet : s.Quiet)
    (hread : s.rmReadFault .word rm = none)
    (hi : (i = .lar r rm ∧ value = some (fun d => d.ar ++ 0#8) ∧
        type = fun ar => ar.getLsbD 4 = true ∨ (1 ≤ ar.toNat % 16 ∧ ar.toNat % 16 ≤ 7)) ∨
      (i = .lsl r rm ∧ value = some (fun d => d.word0) ∧
        type = fun ar => ar.getLsbD 4 = true ∨ (1 ≤ ar.toNat % 16 ∧ ar.toNat % 16 ≤ 3)) ∨
      (i = .verr rm ∧ value = none ∧
        type = fun ar => ar.getLsbD 4 = true ∧ (ar.getLsbD 3 = true → ar.getLsbD 1 = true)) ∨
      (i = .verw rm ∧ value = none ∧
        type = fun ar => ar.getLsbD 4 = true ∧ ar.getLsbD 3 = false ∧ ar.getLsbD 1 = true)) :
    ∃ test : Byte → Bool, (∀ ar, test ar = true ↔ type ar) ∧
      exec i s = .next (afterTest s (s.rmValue .word rm) r value (s.selectorTest (s.rmValue .word rm) test)) := by
  rcases hi with ⟨rfl, rfl, rfl⟩ | ⟨rfl, rfl, rfl⟩ | ⟨rfl, rfl, rfl⟩ | ⟨rfl, rfl, rfl⟩
  · refine ⟨larType, larType_iff, (complete_prot_read hprot hread _).trans ?_⟩
    rw [complete_afterBus hquiet]
    cases s.selectorTest (s.rmValue .word rm) larType <;> rfl
  · refine ⟨lslType, lslType_iff, (complete_prot_read hprot hread _).trans ?_⟩
    rw [complete_afterBus hquiet]
    cases s.selectorTest (s.rmValue .word rm) lslType <;> rfl
  · exact ⟨verrType, verrType_iff, exec_verify hprot hquiet hread verrType r⟩
  · exact ⟨verwType, verwType_iff, exec_verify hprot hquiet hread verwType r⟩

theorem afterTest_dataOnly (s : State) (sel : Word) (r : Reg) (value : Option (Desc → Word)) (found : Option Desc) :
    s.DataOnly (afterTest s sel r value found) := by
  have honly := (accessedFree_spec s sel).1
  rw [State.dataOnly_iff] at honly ⊢
  exact honly

/-- A test succeeds where the descriptor is seen and of an accepted type. -/
theorem selectorTest_isSome_iff {s : State} {sel : Word} {test : Byte → Bool} {type : Byte → Prop}
    (htype : ∀ ar, test ar = true ↔ type ar) :
    (s.selectorTest sel test).isSome = true ↔
      ∃ d, s.Named sel d ∧ type d.ar ∧
        ((d.ar.getLsbD 4 = true ∧ d.ar.getLsbD 3 = true ∧ d.ar.getLsbD 2 = true) ∨
          (s.cpl ≤ rightsDpl d.ar ∧ sel.toNat % 4 ≤ rightsDpl d.ar)) := by
  simp only [Option.isSome_iff_exists, selectorTest_eq_some, htype, visible_iff]

/-- ARPL on an operand that may be written. -/
theorem exec_arpl {s : State} {rm : Rm} (hprot : s.prot = true) (hwrite : s.rmWriteFault .word rm = none) (r : Reg) :
    exec (.arpl rm r) s =
      .next (if (s.rmValue .word rm).toNat % 4 < (s.reg16 r).toNat % 4 then
        (s.setZf true).putBack .word rm (withLevel (s.rmValue .word rm) ((s.reg16 r).toNat % 4))
      else s.setZf false) := by
  show complete s (s.protCheck >>= fun _ => s.modifyRm .word rm >>= _) = _
  rw [State.protCheck, hprot, ensure_true, exe_bind_ok, s.modifyRm_ok .word rm hwrite, exe_bind_ok, ← selWithRpl_eq]
  by_cases h : (s.rmValue .word rm).toNat % 4 < (s.reg16 r).toNat % 4
  · rw [if_pos h]
    exact congrArg (complete s) (if_pos h)
  · rw [if_neg h]
    exact congrArg (complete s) (if_neg h)

/-- Settles O49: the four tests by the descriptor found, ARPL by the two privilege levels. -/
theorem selectorTestResult : Obligations.SelectorTestResult := by
  unfold Obligations.SelectorTestResult
  constructor
  · intro r rm s hprot hquiet hread sel seen i type value hi
    obtain ⟨test, htype, hexec⟩ := exec_selectorTest hprot hquiet hread hi
    obtain ⟨-, hflags, hregs, hkept, hmem⟩ := accessedFree_spec s sel
    refine ⟨_, hexec, afterTest_dataOnly .., ?_, selectorTest_isSome_iff htype, fun hzf => ?_, fun hzf d hdesc => ?_,
      hkept, hmem⟩
    · exact congrArg (fun f : Flags => { f with zf := (s.selectorTest sel test).isSome }) hflags
    · have hnone : s.selectorTest sel test = none := Option.isSome_eq_false_iff.mp hzf |> Option.isNone_iff_eq_none.mp
      show testedRegs (s.accessedFree sel).regs r value (s.selectorTest sel test) = _
      rw [hnone]
      exact hregs
    · obtain ⟨d', hfound⟩ := Option.isSome_iff_exists.mp hzf
      have hd : d' = d := Option.some_inj.mp ((selectorTest_eq_some.mp hfound).1.2.symm.trans hdesc)
      subst hd
      show testedRegs (s.accessedFree sel).regs r value (s.selectorTest sel test) = _
      rw [hfound, hregs]
      cases value <;> rfl
  · intro rm r s hprot hwrite d rpl v
    have hexec := exec_arpl hprot hwrite r
    refine ⟨fun hlt => ?_, fun hle => hexec.trans (congrArg Host.Outcome.next (if_neg (Nat.not_lt.mpr hle)))⟩
    rw [if_pos hlt] at hexec
    have hv : withLevel d rpl = BitVec.ofNat 16 (d.toNat / 4 * 4 + rpl) := by
      rw [withLevel, Nat.mod_mod]
    obtain ⟨honly, hwrites, hflags⟩ :=
      s.modify_spec .word rm (withLevel d rpl) { s.flags with zf := true } (Width.holds_word _)
    exact ⟨_, hexec, honly, hflags, hv ▸ hwrites⟩

/-! ### Privilege (60 R581, 20 R111, 30 R197) -/

theorem complete_supervisor_trap {s : State} (hprot : s.prot = true) (hcpl : s.cpl ≠ 0) (f : Unit → Exe State) :
    complete s (s.supervisorCheck >>= f) = s.trap 13 (some 0) := by
  rw [s.supervisorCheck_trap hprot hcpl]
  rfl

theorem complete_io_trap {s : State} (hprot : s.prot = true) (hio : s.flags.iopl.toNat < s.cpl)
    (f : Unit → Exe State) : complete s (s.ioCheck >>= f) = s.trap 13 (some 0) := by
  rw [s.ioCheck_trap hprot hio]
  rfl

theorem complete_real_ud {s : State} (hreal : s.prot = false) (f : Unit → Exe State) :
    complete s (s.protCheck >>= f) = s.trap 6 none := by
  rw [State.protCheck, hreal]
  rfl

/-- A pass of a string instruction whose iteration fails before it has changed anything. -/
theorem stringPass_fault {compares : Bool} {iteration : Exe State} {s : State} {e : Exc}
    (hrep : s.inst.rep ≠ none → s.regs.cx ≠ 0) (he : e.vector ≠ 16)
    (h : iteration = .error (.exc e) ∨ iteration = .error (.after e s)) :
    stringPass compares iteration s = s.trap e.vector e.code := by
  have hfault : ∀ f : State → Exe State, complete s (iteration >>= f) = s.trap e.vector e.code := fun f => by
    rcases h with rfl | rfl <;> exact complete_fault s he
  rw [stringPass]
  cases hr : s.inst.rep with
  | none =>
    have h := hfault pure
    rwa [bind_pure] at h
  | some p => exact (if_neg (hrep (by rw [hr]; nofun))).trans (hfault _)

theorem ioCheck_fault {s : State} (hprot : s.prot = true) (hio : s.flags.iopl.toNat < s.cpl)
    (f : Unit → Exe State) : (s.ioCheck >>= f) = .error (.exc (Exc.gp 0)) := by
  rw [s.ioCheck_trap hprot hio]
  rfl

/-- Settles O50: each of these instructions begins with the test. -/
theorem privilegeTraps : Obligations.PrivilegeTraps := by
  unfold Obligations.PrivilegeTraps
  intro s
  refine ⟨fun hprot hcpl i hi => ?_, fun hprot hio i hi => ?_, fun hprot hio hrep w => ?_, fun hreal i hi => ?_⟩
  · have hchecks : ∀ f, complete s (s.protCheck >>= fun _ => s.supervisorCheck >>= f) = s.trap 13 (some 0) := by
      intro f
      rw [State.protCheck, hprot, ensure_true, exe_bind_ok, complete_supervisor_trap hprot hcpl]
    have htable : ∀ m (f : TableReg → Exe State), complete s (s.readTable m >>= f) = s.trap 13 (some 0) := fun m f => by
      rw [State.readTable, s.supervisorCheck_trap hprot hcpl]
      rfl
    rcases hi with rfl | rfl | ⟨rm, rfl | rfl | rfl⟩ | ⟨m, rfl | rfl⟩
    · exact complete_supervisor_trap hprot hcpl _
    · exact complete_supervisor_trap hprot hcpl _
    · exact complete_supervisor_trap hprot hcpl _
    · exact hchecks _
    · exact hchecks _
    · exact htable m _
    · exact htable m _
  · rcases hi with rfl | rfl | rfl | ⟨w, p, rfl | rfl | rfl | rfl⟩ <;> exact complete_io_trap hprot hio _
  · have hfault : ∀ c (f : Unit → Exe State), stringPass c (s.ioCheck >>= f) s = s.trap 13 (some 0) := fun c f =>
      stringPass_fault (e := Exc.gp 0) (fun h => hrep.resolve_left h) (by decide) (.inl (ioCheck_fault hprot hio f))
    exact ⟨hfault _ _, hfault _ _⟩
  · obtain ⟨rm, r, rfl | rfl | rfl | rfl | rfl | rfl | rfl | rfl | rfl⟩ := hi <;> exact complete_real_ud hreal _

/-! ### Operands that fail their checks (20 R84, R92, R97-R101) -/

theorem complete_readRm_fault {s : State} {w : Width} {rm : Rm} {e : Exc} (h : s.rmReadFault w rm = some e)
    (f : Word → Exe State) : complete s (s.readRm w rm >>= f) = s.trap e.vector e.code := by
  rw [s.readRm_fault w rm e h]
  exact complete_fault s (rmReadFault_vector h)

theorem complete_modifyRm_fault {s : State} {w : Width} {rm : Rm} {e : Exc} (h : s.rmWriteFault w rm = some e)
    (f : Word → Exe State) : complete s (s.modifyRm w rm >>= f) = s.trap e.vector e.code := by
  rw [s.modifyRm_fault w rm e h]
  exact complete_fault s (rmWriteFault_vector h)

/-- The destination operand of an operation that stores its result or not. -/
theorem aluToRm_fault {op : AluOp} {w : Width} {rm : Rm} {s : State} {e : Exc}
    (h : (if decide (op ≠ .cmp) = true then s.rmWriteFault w rm else s.rmReadFault w rm) = some e) (b : Word) :
    aluToRm op w rm b s = s.trap e.vector e.code := by
  rw [aluToRm, State.aluRead]
  by_cases hop : op = .cmp
  · rw [if_neg (by simpa using hop)] at h
    rw [if_pos hop]
    exact complete_readRm_fault h _
  · rw [if_pos (by simpa using hop)] at h
    rw [if_neg hop]
    exact complete_modifyRm_fault h _

theorem runForm_fault {op : AluOp} {x : AluForm} {s : State} {e : Exc} (h : x.fault (decide (op ≠ .cmp)) s = some e) :
    runForm op x s = s.trap e.vector e.code := by
  cases x with
  | rmReg d w rm r =>
    cases d with
    | toRm => exact aluToRm_fault h _
    | toReg => exact complete_readRm_fault h _
  | accImm x => cases h
  | rmImm rm x => exact aluToRm_fault h _
  | rmImm8 rm v => exact aluToRm_fault h _

theorem exec_operandFault {s : State} {i : Instr} {e : Exc} (h : s.OperandFault i e) :
    exec i s = s.trap e.vector e.code := by
  rcases h with ⟨op, x, hform, hfault⟩ | ⟨w, rm, hi, hfault⟩ | ⟨w, rm, hi, hfault⟩ | ⟨r, rm, hi, hfault⟩
  · rw [exec_form hform, runForm_fault hfault]
  · rcases hi with rfl | rfl | ⟨op, hop⟩
    · exact complete_modifyRm_fault hfault _
    · exact complete_modifyRm_fault hfault _
    · rcases hop with rfl | rfl | ⟨n, rfl⟩
      · rw [exec_instrOne]
        exact complete_modifyRm_fault hfault _
      · rw [exec_instrCount op (.inr ⟨rfl, rfl⟩)]
        exact complete_modifyRm_fault hfault _
      · rw [exec_instrCount op (.inl rfl)]
        exact complete_modifyRm_fault hfault _
  · rcases hi with rfl | rfl | rfl | rfl <;> exact complete_readRm_fault hfault _
  · rcases hi with ⟨k, rfl⟩ | ⟨b, rfl⟩ <;> exact complete_readRm_fault hfault _

theorem movSReg_fault {s : State} {rm : Rm} {e : Exc} (h : s.rmReadFault .word rm = some e) (r : SReg) :
    s.movSReg r rm = .error (.exc e) := by
  rw [State.movSReg, s.readRm_fault .word rm e h]
  rfl

theorem exec_wordFault {s : State} {i : Instr} {e : Exc} (h : s.WordFault i e) :
    exec i s = s.trap e.vector e.code := by
  rcases h with ⟨rm, hfault, hi⟩ | ⟨rm, hfault, hi⟩
  · have hread := fun f => complete_readRm_fault hfault f
    have hmov : ∀ r (f : State → Exe State), complete s (s.movSReg r rm >>= f) = s.trap e.vector e.code := fun r f => by
      rw [movSReg_fault hfault]
      exact complete_fault s (rmReadFault_vector hfault)
    have hmov' : ∀ r, complete s (s.movSReg r rm) = s.trap e.vector e.code := fun r => by
      rw [movSReg_fault hfault]
      exact complete_fault s (rmReadFault_vector hfault)
    rcases hi with (rfl | rfl | rfl | rfl | rfl | rfl) | ⟨rfl, hcpl⟩ | ⟨hi, hprot, hcpl⟩ | ⟨hi, hprot⟩
    · exact hread _
    · exact hread _
    · exact hread _
    · exact hmov' .es
    · exact hmov .ss _
    · exact hmov' .ds
    · exact (complete_supervisor hcpl _).trans (hread _)
    · have hchecks : ∀ f, complete s (s.protCheck >>= fun _ => s.supervisorCheck >>= fun _ => s.readRm .word rm >>= f) =
          s.trap e.vector e.code := fun f => by
        rw [State.protCheck, hprot, ensure_true, exe_bind_ok, complete_supervisor fun _ => hcpl, hread]
      rcases hi with rfl | rfl <;> exact hchecks _
    · have hchecks : ∀ f, complete s (s.protCheck >>= fun _ => s.readRm .word rm >>= f) = s.trap e.vector e.code :=
        fun f => by rw [State.protCheck, hprot, ensure_true, exe_bind_ok, hread]
      rcases hi with rfl | rfl | ⟨r, rfl | rfl⟩ <;> exact hchecks _
  · rcases hi with ⟨r, rfl, hprot⟩ | ⟨ttt, lll, rfl, hread, hem, hts, hnpx⟩
    · show complete s (s.protCheck >>= fun _ => s.modifyRm .word rm >>= _) = _
      rw [State.protCheck, hprot, ensure_true, exe_bind_ok]
      exact complete_modifyRm_fault hfault _
    · rw [exec_esc hem hts hnpx, escFault_of_both hread hfault]
      exact complete_fault s (rmWriteFault_vector hfault)

/-- Two or three checks in a row: the first that fails decides. -/
theorem checks_two {α : Type} {x y : Option Exc} {e : Exc} (h : [x, y].findSome? id = some e) (m : Exe α) :
    (check x >>= fun _ => check y >>= fun _ => m) = .error (.exc e) := by
  cases x with
  | some e' =>
    cases h
    rfl
  | none =>
    cases y with
    | some e' =>
      cases h
      rfl
    | none => cases h

theorem checks_three {α : Type} {x y z : Option Exc} {e : Exc} (h : [x, y, z].findSome? id = some e) (m : Exe α) :
    (check x >>= fun _ => check y >>= fun _ => check z >>= fun _ => m) = .error (.exc e) := by
  cases x with
  | some e' =>
    cases h
    rfl
  | none => exact checks_two (x := y) (y := z) h m

theorem partFault_vector {s : State} {r : SReg} {allowed : Bool} {off : Word} {k : Nat} {e : Exc}
    (h : s.partFault r allowed off k = some e) : e.vector ≠ 16 := by
  rw [State.partFault] at h
  split_ifs at h <;> exact accessFault_vector h

theorem findSome_vector {l : List (Option Exc)} (hl : ∀ x ∈ l, ∀ e, x = some e → e.vector ≠ 16) {e : Exc}
    (h : l.findSome? id = some e) : e.vector ≠ 16 := by
  obtain ⟨x, hx, he⟩ := List.exists_of_findSome?_eq_some h
  exact hl x hx e he

theorem exec_wideFault {s : State} {i : Instr} {e : Exc} (h : s.WideFault i e) :
    exec i s = s.trap e.vector e.code := by
  obtain ⟨m, ⟨hi, hfault⟩ | ⟨hi, hcpl, hfault⟩ | ⟨hi, hfault⟩⟩ := h
  · have he : e.vector ≠ 16 := findSome_vector (by
      simp only [List.forall_mem_cons, List.not_mem_nil, false_implies, implies_true, and_true]
      exact ⟨fun _ h => accessFault_vector h, fun _ h => partFault_vector h⟩) hfault
    have hpair : ∀ f : Word → Word → State → Exe State, complete s (s.readPair m f) = s.trap e.vector e.code :=
      fun f => by
        rw [show s.readPair m f = .error (.exc e) from checks_two hfault _]
        exact complete_fault s he
    rcases hi with ⟨q, rfl | rfl | rfl⟩ | rfl | rfl <;> exact hpair _
  · have he : e.vector ≠ 16 := findSome_vector (by
      simp only [List.forall_mem_cons, List.not_mem_nil, false_implies, implies_true, and_true]
      exact ⟨fun _ h => accessFault_vector h, fun _ h => partFault_vector h, fun _ h => partFault_vector h⟩) hfault
    have htable : ∀ f : TableReg → Exe State, complete s (s.readTable m >>= f) = s.trap e.vector e.code := fun f => by
      rw [State.readTable, s.supervisorCheck_ok hcpl, exe_bind_ok,
        show s.readTriple m = .error (.exc e) from checks_three hfault _]
      exact complete_fault s he
    rcases hi with rfl | rfl <;> exact htable _
  · have he : e.vector ≠ 16 := findSome_vector (by
      simp only [List.forall_mem_cons, List.not_mem_nil, false_implies, implies_true, and_true]
      exact ⟨fun _ h => accessFault_vector h, fun _ h => partFault_vector h, fun _ h => partFault_vector h⟩) hfault
    have htable : ∀ x : TableReg, complete s (s.storeTable m x) = s.trap e.vector e.code := fun x => by
      rw [show s.storeTable m x = .error (.exc e) from checks_three hfault _]
      exact complete_fault s he
    rcases hi with rfl | rfl <;> exact htable _

/-- The element of a string instruction that is checked first, and the one checked behind other masters' writes. -/
theorem readSource_fault {s : State} {w : Width} {e : Exc}
    (h : s.readFault (s.overridden .ds) s.regs.si w.bytes = some e) : s.readSource w = .error (.exc e) :=
  s.readMem_fault w _ _ e h

theorem findSome_pair {x y : Option Exc} {e : Exc} (h : [x, y].findSome? id = some e) :
    x = some e ∨ (x = none ∧ y = some e) := by
  cases x with
  | some e' => exact .inl h
  | none =>
    cases y with
    | some e' => exact .inr ⟨rfl, h⟩
    | none => cases h

theorem exec_stringFault {s : State} {i : Instr} {e : Exc} (h : s.StringFault i e) (hquiet : s.Quiet) :
    exec i s = s.trap e.vector e.code := by
  obtain ⟨hrep, w, hi⟩ := h
  have hpass : ∀ {c : Bool} {m : Exe State} {r : SReg} {allowed : Bool} {off : Word} {n : Nat},
      s.accessFault r allowed off n = some e → m = .error (.exc e) ∨ m = .error (.after e s) →
      stringPass c m s = s.trap e.vector e.code := fun hf hm => stringPass_fault hrep (accessFault_vector hf) hm
  rcases hi with ⟨rfl, hf⟩ | ⟨rfl, hf⟩ | ⟨rfl, hf⟩ | ⟨rfl, hf⟩ | ⟨rfl, hf⟩ | ⟨rfl, hio, hf⟩ | ⟨rfl, hio, hf⟩
  · rcases findSome_pair hf with hsrc | ⟨hsrc, hdst⟩
    · exact hpass hsrc (.inl (by rw [readSource_fault hsrc]; rfl))
    · exact hpass hdst (.inr (by
        rw [readSource_ok hsrc, exe_bind_ok, State.afterBus_quiet hquiet, s.writeMem_fault w _ _ _ e hdst]; rfl))
  · rcases findSome_pair hf with hsrc | ⟨hsrc, hdst⟩
    · exact hpass hsrc (.inl (by rw [readSource_fault hsrc]; rfl))
    · exact hpass hdst (.inr (by
        rw [readSource_ok hsrc, exe_bind_ok, State.afterBus_quiet hquiet, s.readMem_fault w _ _ e hdst]; rfl))
  · exact hpass hf (.inl (by rw [s.readMem_fault w _ _ e hf]; rfl))
  · exact hpass hf (.inl (by rw [readSource_fault hf]; rfl))
  · exact hpass hf (.inl (by rw [s.writeMem_fault w _ _ _ e hf]; rfl))
  · exact hpass hf (.inl (by rw [s.ioCheck_ok hio, exe_bind_ok, hf]; rfl))
  · exact hpass hf (.inl (by rw [s.ioCheck_ok hio, exe_bind_ok, readSource_fault hf]; rfl))

/-- The end of a segment is all that an operand in real mode can run over. -/
theorem accessFault_real_width {s : State} (hreal : s.prot = false) (r : SReg) (allowed : Bool) (off : Word)
    (w : Width) :
    s.accessFault r allowed off w.bytes = if w = .word ∧ off = 0xFFFF#16 then some (Exc.gp 0) else none := by
  have hoff : off = 0xFFFF#16 ↔ off.toNat = 65535 := by rw [← BitVec.toNat_inj]; rfl
  have hlt : off.toNat < 65536 := off.isLt
  rw [accessFault_real hreal]
  cases w with
  | byte =>
    rw [if_pos (by show off.toNat + 1 ≤ 65536; omega), if_neg (by simp)]
  | word =>
    by_cases h : off = 0xFFFF#16
    · rw [if_neg (by show ¬ off.toNat + 2 ≤ 65536; rw [hoff] at h; omega), if_pos ⟨rfl, h⟩]
    · rw [if_pos (by show off.toNat + 2 ≤ 65536; rw [hoff] at h; omega), if_neg (fun hc => h hc.2)]

/-- In protected mode an invalid segment and forbidden rights come before the limit. -/
theorem accessFault_prot {s : State} (hprot : s.prot = true) (r : SReg) (allowed : Bool) (off : Word) (n : Nat) :
    s.accessFault r allowed off n =
      if (s.seg r).valid = true ∧ allowed = true then
        if (s.seg r).inLimit off n = true then none else some (if r = .ss then Exc.ss 0 else Exc.gp 0)
      else some (Exc.gp 0) := by
  have hlimit : limitExc r = if r = .ss then Exc.ss 0 else Exc.gp 0 := by cases r <;> rfl
  rw [State.accessFault, if_pos hprot, ← hlimit]
  simp only [Bool.and_eq_true]

theorem accessFault_refused {s : State} (hprot : s.prot = true) {r : SReg} {allowed : Bool}
    (h : (s.seg r).valid = false ∨ allowed = false) (off : Word) (n : Nat) :
    s.accessFault r allowed off n = some (Exc.gp 0) := by
  rw [accessFault_prot hprot, if_neg]
  rintro ⟨hv, ha⟩
  exact h.elim (Bool.eq_false_iff.mp · hv) (Bool.eq_false_iff.mp · ha)

theorem accessFault_limit {s : State} (hprot : s.prot = true) {r : SReg} (hv : (s.seg r).valid = true) (off : Word)
    (n : Nat) : s.accessFault r true off n =
      if (s.seg r).inLimit off n = true then none else some (if r = .ss then Exc.ss 0 else Exc.gp 0) := by
  rw [accessFault_prot hprot, if_pos ⟨hv, rfl⟩]

theorem inLimit_up {g : Segment} (h : rightsExpandDown g.rights = false) (off : Word) (n : Nat) :
    g.inLimit off n = true ↔ off.toNat + n ≤ g.limit.toNat + 1 := by
  rw [Segment.inLimit, h, if_neg Bool.false_ne_true, decide_eq_true_iff]

theorem inLimit_down {g : Segment} (h : rightsExpandDown g.rights = true) (off : Word) (n : Nat) :
    g.inLimit off n = true ↔ g.limit.toNat < off.toNat ∧ off.toNat + n ≤ 2 ^ 16 := by
  rw [Segment.inLimit, h, if_pos rfl, Bool.and_eq_true, decide_eq_true_iff, decide_eq_true_iff]

/-- Settles O51: each form begins with the check of its operand; the checks themselves by the segment's rights. -/
theorem operandAccessFaults : Obligations.OperandAccessFaults := by
  unfold Obligations.OperandAccessFaults
  refine ⟨fun i e s h => ?_, fun i e s h hquiet => exec_stringFault h hquiet, ?_, ?_⟩
  · rcases h with h | h | h
    · exact exec_operandFault h
    · exact exec_wordFault h
    · exact exec_wideFault h
  · intro r off w s hreal faults
    refine ⟨accessFault_real_width hreal .., accessFault_real_width hreal .., ?_⟩
    rintro rfl k
    have hpart : ∀ allowed, s.partFault r allowed off k = faults (off + BitVec.ofNat 16 k) := fun allowed => by
      rw [State.partFault, if_neg (Bool.eq_false_iff.mp hreal)]
      exact accessFault_real_width hreal r allowed _ .word
    exact ⟨hpart _, hpart _⟩
  · intro r off n s g limit hprot
    have hwritable : g.rights.getLsbD 3 = false → g.rights.getLsbD 1 = true → rightsWritable g.rights = true :=
      fun hcode hw => (rightsWritable_iff _).mpr ⟨hcode, hw⟩
    have hreadable : g.rights.getLsbD 3 = false → rightsReadable g.rights = true := fun hcode =>
      (rightsReadable_iff _).mpr fun h => absurd h (Bool.eq_false_iff.mp hcode)
    have hnotWritable : g.rights.getLsbD 3 = true ∨ g.rights.getLsbD 1 = false → rightsWritable g.rights = false := by
      intro h
      rw [Bool.eq_false_iff, ne_eq, rightsWritable_iff]
      rintro ⟨hcode, hw⟩
      exact h.elim (Bool.eq_false_iff.mp hcode) (Bool.eq_false_iff.mp · hw)
    have hdata : g.rights.getLsbD 3 = false → g.rights.getLsbD 1 = true →
        s.writeFault r off n = s.readFault r off n := fun hcode hw => by
      rw [State.writeFault, State.readFault, hwritable hcode hw, hreadable hcode]
    refine ⟨?_, fun hv => ⟨accessFault_refused hprot (.inl hv) .., accessFault_refused hprot (.inl hv) ..⟩,
      fun hcode => accessFault_refused hprot (.inr (hnotWritable (.inl hcode))) ..,
      fun hcode hread => accessFault_refused hprot (.inr ?_) ..,
      fun _ hw => accessFault_refused hprot (.inr (hnotWritable (.inr hw))) .., fun hv hcode hread => ?_,
      fun hv hcode hup => ⟨?_, hdata hcode⟩, fun hv hcode hdown => ⟨?_, hdata hcode⟩⟩
    · rintro k rfl
      exact ⟨if_pos hprot, if_pos hprot⟩
    · rw [Bool.eq_false_iff, ne_eq, rightsReadable_iff]
      exact fun h => Bool.eq_false_iff.mp hread (h hcode)
    · have hup : rightsExpandDown g.rights = false := by
        rw [rightsExpandDown, rightsCode, hcode]
        rfl
      rw [State.readFault, (rightsReadable_iff g.rights).mpr fun _ => hread, accessFault_limit hprot hv]
      exact if_congr (inLimit_up hup off n) rfl rfl
    · have hup : rightsExpandDown g.rights = false := by
        rw [rightsExpandDown, hup, Bool.and_false]
      rw [State.readFault, hreadable hcode, accessFault_limit hprot hv]
      exact if_congr (inLimit_up hup off n) rfl rfl
    · have hdown : rightsExpandDown g.rights = true := by
        rw [rightsExpandDown, rightsCode, hcode, hdown]
        rfl
      rw [State.readFault, hreadable hcode, accessFault_limit hprot hv]
      exact if_congr (inLimit_down hdown off n) rfl rfl

end Sys2Proof.Proofs.Other
end

section
/-! One step of the machine: reset, the instruction boundary, the instruction decoded. -/

namespace Sys2Proof.Proofs.Other

open Sys2Proof Sys2Proof.Machine

set_option Elab.async false

/-! ### Reset (10 R56; 70 R600) -/

theorem step_reset {s : State} {k : Nat} (h : s.sample.pins.reset = some k) :
    step s = .next (s.sample.resetAfter k s.sample.proceed) := by
  rw [step]
  simp only [h]

theorem resetAfter_eq (s : State) (k : Nat) (a : Answer) :
    s.resetAfter k a = { State.reset with
      mem := (s.resetAfter k a).mem, bus := (s.resetAfter k a).bus, platform := s.platform, pins := s.pins
      env := s.env, out := (s.resetAfter k a).out, draws := (s.resetAfter k a).draws, npxPresent := s.npxPresent } := by
  cases a <;> rfl

/-- Of a step cut short before its first byte nothing has reached the bus. -/
theorem resetAfter_zero (s : State) (a : Answer) :
    (s.resetAfter 0 a).mem = s.mem ∧ (s.resetAfter 0 a).out = s.out := by
  cases a with
  | next t =>
    refine ⟨rfl, ?_⟩
    show List.reverse (List.take (0 - t.writes.length) _) ++ s.out = s.out
    rw [Nat.zero_sub]
    rfl
  | fault f => exact ⟨rfl, rfl⟩
  | refused r => exact ⟨rfl, rfl⟩

/-- Settles O60: the reset state by evaluation, the step by its one branch. -/
theorem resetState : Obligations.ResetState := by
  unfold Obligations.ResetState
  refine ⟨⟨rfl, by decide, rfl, rfl, rfl, rfl, rfl, rfl, rfl, rfl, rfl, rfl, rfl, rfl, rfl, rfl, rfl, by decide, rfl⟩,
    fun s k hk => ⟨_, step_reset hk, resetAfter_eq _ _ _, ?_, fun v hv => ?_⟩⟩
  · rintro rfl
    exact resetAfter_zero _ _
  · rw [hv]
    rfl

/-! ### The boundary (60 R553-R557, R575) -/

theorem step_proceed {s : State} (hreset : s.sample.pins.reset = none) (hhold : s.sample.onHold = false) :
    step s = s.sample.proceed := by
  rw [step]
  simp only [hreset, hhold]
  rfl

/-- What follows the delivery of an event. -/
def onward (k : State → Answer) (qs : List Source) (a : Answer) : Answer :=
  match a with
  | .next u => if u.run = .running ∧ u.pendingExc = none then deliverEach k qs u.yieldBus else .next u
  | .fault f => .fault f
  | .refused r => .refused r

theorem atHandler_iff (s : State) : s.atHandler = true ↔ s.run = .running ∧ s.pendingExc = none := by
  rw [State.atHandler, Bool.and_eq_true, decide_eq_true_iff, Option.isNone_iff_eq_none]

theorem deliverEach_some (k : State → Answer) {q : Source} (qs : List Source) {s u : State} {ev : Event}
    (h : s.request q = some (ev, u)) : deliverEach k (q :: qs) s = onward k qs (u.interrupt ev) := by
  rw [deliverEach, h]
  dsimp only
  cases hu : u.interrupt ev with
  | next t => exact if_congr (atHandler_iff t) rfl rfl
  | fault f => rfl
  | refused r => rfl

theorem deliverEach_none (k : State → Answer) {q : Source} (qs : List Source) {s : State} (h : s.request q = none) :
    deliverEach k (q :: qs) s = deliverEach k qs s := by
  rw [deliverEach, h]

theorem request_exc_none {s : State} (h : s.pendingExc = none) : s.request .exc = none := by
  rw [State.request, h]
  rfl

theorem bne_inhibit_all (i : Inhibit) : (i != .all) = decide (i ≠ .all) := by cases i <;> rfl

theorem request_step_some {s : State} (h : s.stepTrap = true) (hi : s.inhibit ≠ .all) :
    s.request .step = some (Event.external 1 false, { s with stepTrap := false }) := by
  rw [State.request, h, bne_inhibit_all, decide_eq_true hi]
  rfl

theorem request_step_none {s : State} (h : s.stepTrap = false ∨ s.inhibit = .all) : s.request .step = none := by
  rw [State.request]
  rcases h with h | h <;> rw [h]
  · rfl
  · rw [bne_inhibit_all, Bool.and_comm]
    rfl

theorem request_nmi_some {s : State} (h : s.nmiPending = true) (hs : s.nmiInService = false) (hi : s.inhibit ≠ .all) :
    s.request .nmi = some (Event.external 2 true, { s with nmiPending := false, nmiInService := true }) := by
  rw [State.request, h, hs, bne_inhibit_all, decide_eq_true hi]
  rfl

theorem request_nmi_none {s : State} (h : s.nmiPending = false ∨ s.nmiInService = true ∨ s.inhibit = .all) :
    s.request .nmi = none := by
  refine if_neg ?_
  rw [bne_inhibit_all]
  rcases h with h | h | h <;> simp [h]

theorem request_overrun_some {s : State} (h : s.overrunPending = true) (hs : s.nmiInService = false)
    (hi : s.inhibit ≠ .all) :
    s.request .overrun = some (Event.external 9 false, { s with overrunPending := false }) := by
  rw [State.request, h, hs, bne_inhibit_all, decide_eq_true hi]
  rfl

theorem request_overrun_none {s : State} (h : s.overrunPending = false ∨ s.nmiInService = true ∨ s.inhibit = .all) :
    s.request .overrun = none := by
  refine if_neg ?_
  rw [bne_inhibit_all]
  rcases h with h | h | h <;> simp [h]

theorem request_intr_some {s : State} {v : Byte} (h : s.pins.intr = some v) (hf : s.flags.ifl = true)
    (hi : s.inhibit = .none) : s.request .intr = some (Event.external v false, s) := by
  rw [State.request, h, hf, hi]
  rfl

theorem request_intr_none {s : State} (h : s.pins.intr = none ∨ s.flags.ifl = false ∨ s.inhibit ≠ .none) :
    s.request .intr = none := by
  rw [State.request]
  cases hp : s.pins.intr with
  | none => rfl
  | some v =>
    refine if_neg ?_
    rw [hp] at h
    rcases h.resolve_left nofun with h | h <;> simp [h]

/-- An event at the boundary is what a running and a halted processor take alike. -/
theorem proceed_of_request {s : State} {q : Source} {x : Event × State} (hrun : s.run ≠ .shutdown)
    (h : s.request q = some x) : s.proceed = deliverEach State.runInstruction Source.all s := by
  rw [State.proceed]
  cases hr : s.run with
  | shutdown => exact absurd hr hrun
  | running => rfl
  | halted =>
    refine if_pos ?_
    rw [List.any_eq_true]
    exact ⟨q, by cases q <;> decide, by rw [h]; rfl⟩

theorem deliverEach_nothing (k : State → Answer) {s : State} (h : ∀ q, s.request q = none) (qs : List Source) :
    deliverEach k qs s = k s := by
  induction qs with
  | nil => rfl
  | cons q qs ih => rw [deliverEach_none k qs (h q), ih]

theorem proceed_running {s : State} (hrun : s.run = .running) (h : ∀ q, s.request q = none) :
    s.proceed = s.runInstruction := by
  rw [State.proceed, hrun]
  exact deliverEach_nothing _ h _

theorem proceed_halted {s : State} (hrun : s.run = .halted) (h : ∀ q, s.request q = none) : s.proceed = .next s := by
  rw [State.proceed, hrun]
  refine if_neg ?_
  rw [List.any_eq_true]
  rintro ⟨q, -, hq⟩
  rw [h q] at hq
  cases hq

theorem proceed_shutdown {s : State} (hrun : s.run = .shutdown) :
    s.proceed = s.shutdownStep State.runInstruction := by
  rw [State.proceed, hrun]

theorem getLsbD_afterShutdown (msw v : Word) (k : Nat) (h : k = 0 ∨ 4 ≤ k) :
    ((msw &&& 0xFFF1#16) ||| (v &&& 0x000E#16)).getLsbD k = msw.getLsbD k := by
  by_cases hk : k < 16
  · interval_cases k <;> simp_all
  · rw [BitVec.getLsbD_of_ge _ _ (by omega), BitVec.getLsbD_of_ge _ _ (by omega)]

theorem prot_afterShutdown (s : State) : s.afterShutdown.prot = s.prot := by
  rw [State.prot, pe_afterShutdown]
  rfl

theorem nmiLeavesShutdown_iff (s : State) :
    s.nmiLeavesShutdown = true ↔ s.prot = true ∨ (0x0F ≤ s.idtr.limit.toNat ∧ 5 < s.regs.sp.toNat) := by
  rw [State.nmiLeavesShutdown, Bool.or_eq_true, Bool.and_eq_true, decide_eq_true_iff, decide_eq_true_iff]

theorem shutdownStep_idle {s : State} (h : s.nmiPending = false ∨ s.nmiInService = true) (k : State → Answer) :
    s.shutdownStep k = .next s := by
  refine if_neg ?_
  rcases h with h | h <;> simp [h]

theorem shutdownStep_nmi {s : State} (h : s.nmiPending = true) (hs : s.nmiInService = false) (k : State → Answer) :
    s.shutdownStep k = if s.afterShutdown.nmiLeavesShutdown then
        deliverEach k [.nmi, .overrun, .intr] { s.afterShutdown with inhibit := .none }
      else .next { s with nmiPending := false, draws := s.afterShutdown.draws } := by
  refine if_pos ?_
  rw [h, hs]
  rfl

/-- Settles O59: the first source that is pending and not held off is delivered; shutdown is left by an NMI. -/
theorem boundaryInterrupts : Obligations.BoundaryInterrupts := by
  unfold Obligations.BoundaryInterrupts
  intro s t taken onward' noTrap noNmi noOverrun noIntr hreset hhold
  have hstep : step s = t.proceed := step_proceed hreset hhold
  have honward : ∀ qs a, onward' qs a = onward State.runInstruction qs a := fun qs a => by cases a <;> rfl
  simp only [honward]
  refine ⟨fun hrun e he => ?_, fun hrun he => ?_, fun hrun => ⟨fun hidle => ?_, fun hnmi hservice => ?_⟩⟩
  · have hreq : t.request .exc = some (e.event, { t with pendingExc := none }) := by
      rw [State.request, he]
      rfl
    rw [hstep, proceed_of_request hrun hreq, Source.all, deliverEach_some _ _ hreq]
    rfl
  · have hexc := request_exc_none he
    have next : ∀ {q : Source} {x : Event × State}, t.request q = some x →
        step s = deliverEach State.runInstruction [.step, .nmi, .overrun, .intr] t := fun hq => by
      rw [hstep, proceed_of_request hrun hq, Source.all, deliverEach_none _ _ hexc]
    refine ⟨fun h hi => ?_, fun hstepTrap h hs hi => ?_, fun hstepTrap hnmi h hs hi => ?_,
      fun hstepTrap hnmi hoverrun hf hi v hv => ?_, fun hstepTrap hnmi hoverrun hintr => ?_⟩
    · have hreq := request_step_some h hi
      rw [next hreq, deliverEach_some _ _ hreq]
      rfl
    · have hreq := request_nmi_some h hs hi
      rw [next hreq, deliverEach_none _ _ (request_step_none hstepTrap), deliverEach_some _ _ hreq]
      rfl
    · have hreq := request_overrun_some h hs hi
      rw [next hreq, deliverEach_none _ _ (request_step_none hstepTrap), deliverEach_none _ _ (request_nmi_none hnmi),
        deliverEach_some _ _ hreq]
      rfl
    · have hreq := request_intr_some hv hf hi
      rw [next hreq, deliverEach_none _ _ (request_step_none hstepTrap), deliverEach_none _ _ (request_nmi_none hnmi),
        deliverEach_none _ _ (request_overrun_none hoverrun), deliverEach_some _ _ hreq]
      rfl
    · have hnothing : ∀ q, t.request q = none := fun q => by
        cases q with
        | exc => exact hexc
        | step => exact request_step_none hstepTrap
        | nmi => exact request_nmi_none hnmi
        | overrun => exact request_overrun_none hoverrun
        | intr => exact request_intr_none hintr
      exact ⟨fun hr => hstep.trans (proceed_running hr hnothing), fun hr => hstep.trans (proceed_halted hr hnothing)⟩
  · rw [hstep, proceed_shutdown hrun, shutdownStep_idle hidle]
  · rw [hstep, proceed_shutdown hrun, shutdownStep_nmi hnmi hservice]
    refine ⟨t.afterShutdown, rfl, getLsbD_afterShutdown t.msw _, fun hpe => ?_, fun h => ?_, fun hreal h => ?_⟩
    · show (if t.pe then _ else _ : Flags).iopl = _ ∧ (if t.pe then _ else _ : Flags).nt = _
      rw [hpe]
      exact ⟨rfl, rfl⟩
    · rw [if_pos ((nmiLeavesShutdown_iff _).mpr (by rwa [prot_afterShutdown])),
        deliverEach_some (s := { t.afterShutdown with inhibit := .none }) _ _ (request_nmi_some hnmi hservice nofun)]
      rfl
    · rw [if_neg]
      rw [nmiLeavesShutdown_iff, prot_afterShutdown]
      rintro (hprot | ⟨hlimit, hsp⟩)
      · exact Bool.eq_false_iff.mp hreal hprot
      · omega

end Sys2Proof.Proofs.Other
end

section
/-! What a step decodes: bytes cut off in the middle of an instruction, prefixes, and the step at either. -/

namespace Sys2Proof.Proofs.Other

open Sys2Proof Sys2Proof.Machine

set_option Elab.async false

/-! ### More bytes change nothing but an end that came too early -/

/-- What a reader answers when more bytes follow. -/
def extended {α : Type} (more : List Byte) (x : Except DecodeError (α × List Byte)) :
    Except DecodeError (α × List Byte) := x.map fun p => (p.1, p.2 ++ more)

/-- A reader that did not run out of bytes answers the same when more follow. -/
def Stable {α : Type} (R : Reader α) : Prop :=
  ∀ bs more, R bs = .error .needMore ∨ R (bs ++ more) = extended more (R bs)

theorem stable_bind {α β : Type} {R : Reader α} {g : α × List Byte → Except DecodeError (β × List Byte)}
    (hR : Stable R) (hg : ∀ a, Stable fun rest => g (a, rest)) : Stable fun bs => R bs >>= g := by
  intro bs more
  rcases hR bs more with h | h
  · left
    show R bs >>= g = _
    rw [h]
    rfl
  · show R bs >>= g = _ ∨ R (bs ++ more) >>= g = extended more (R bs >>= g)
    rw [h]
    cases R bs with
    | error e => exact .inr rfl
    | ok p => exact hg p.1 p.2 more

theorem stable_ok {α : Type} (a : α) : Stable fun rest => .ok (a, rest) := fun _ _ => .inr rfl

theorem stable_error {α : Type} (e : DecodeError) : Stable fun _ => (.error e : Except DecodeError (α × List Byte)) :=
  fun _ _ => .inr rfl

theorem stable_readByte : Stable readByte
  | [], _ => .inl rfl
  | _ :: _, _ => .inr rfl

theorem stable_readWord : Stable readWord
  | [], _ | [_], _ => .inl rfl
  | _ :: _ :: _, _ => .inr rfl

theorem stable_readImm (w : Width) : Stable (readImm w) := by
  cases w with
  | byte => exact stable_bind stable_readByte fun v => stable_ok _
  | word => exact stable_bind stable_readWord fun v => stable_ok _

theorem stable_cons {α : Type} {R : Reader α} (hnil : R [] = .error .needMore)
    (hcons : ∀ b, Stable fun bs => R (b :: bs)) : Stable R
  | [], _ => .inl hnil
  | b :: bs, more => hcons b bs more

theorem stable_readModRm : Stable readModRm := by
  refine stable_cons rfl fun b => ?_
  unfold readModRm
  dsimp only
  generalize b.extractLsb' 6 2 = md
  rcases field2_cases md with rfl | rfl | rfl | rfl
  · by_cases h : b.extractLsb' 0 3 = 6
    · simp only [h]
      exact stable_bind stable_readWord fun d _ _ => .inr rfl
    · simp only [if_neg h]
      exact stable_ok _
  · exact stable_bind stable_readByte fun d _ _ => .inr rfl
  · exact stable_bind stable_readWord fun d _ _ => .inr rfl
  · exact stable_ok _

theorem stable_readModMem : Stable readModMem :=
  stable_bind stable_readModRm fun x => by
    obtain ⟨n, rm⟩ := x
    cases rm with
    | reg r => exact stable_error _
    | mem m => exact stable_ok _

@[simp] theorem stable_plain (i : Instr) : Stable (plain i) := stable_ok i

@[simp] theorem stable_readUndefined : Stable readUndefined := stable_error _

@[simp] theorem stable_readRmReg (f : Rm → Reg → Instr) : Stable (readRmReg f) :=
  stable_bind stable_readModRm fun _ => stable_ok _

@[simp] theorem stable_readMemReg (f : Reg → Mem → Instr) : Stable (readMemReg f) :=
  stable_bind stable_readModMem fun _ => stable_ok _

@[simp] theorem stable_readImmForm (w : Width) (f : Imm → Instr) : Stable (readImmForm w f) :=
  stable_bind (stable_readImm w) fun _ => stable_ok _

@[simp] theorem stable_readByteForm (f : Byte → Instr) : Stable (readByteForm f) :=
  stable_bind stable_readByte fun _ => stable_ok _

@[simp] theorem stable_readWordForm (f : Word → Instr) : Stable (readWordForm f) :=
  stable_bind stable_readWord fun _ => stable_ok _

@[simp] theorem stable_readFarForm (f : Word → Word → Instr) : Stable (readFarForm f) :=
  stable_bind stable_readWord fun _ => stable_bind stable_readWord fun _ => stable_ok _

@[simp] theorem stable_readTen (i : Instr) : Stable (readTen i) :=
  stable_bind stable_readByte fun v => by
    by_cases h : v = 0x0A#8
    · simp only [if_pos h]
      exact stable_ok _
    · simp only [if_neg h]
      exact stable_error _

/-! ### Groups: what follows the ModRM byte depends on its reg field -/

/-- A reader that goes on by the value of the reg field. -/
theorem stable_byField {α : Type} {g : BitVec 3 × Rm → Reader α} (h : ∀ n rm, Stable (g (n, rm))) :
    ∀ a, Stable (g a) := fun a => h a.1 a.2

@[simp] theorem stable_readGroup1 (w : Width) : Stable (readGroup1 w) :=
  stable_bind stable_readModRm <| stable_byField fun n rm => stable_bind (stable_readImm w) fun x => by
    rcases field3_cases n with rfl | rfl | rfl | rfl | rfl | rfl | rfl | rfl <;> exact stable_ok _

@[simp] theorem stable_readGroup1s : Stable readGroup1s :=
  stable_bind stable_readModRm <| stable_byField fun n rm => stable_bind stable_readByte fun x => by
    rcases field3_cases n with rfl | rfl | rfl | rfl | rfl | rfl | rfl | rfl <;> exact fun _ _ => .inr rfl

@[simp] theorem stable_readShiftOne (w : Width) : Stable (readShiftOne w) :=
  stable_bind stable_readModRm <| stable_byField fun n rm => by
    rcases field3_cases n with rfl | rfl | rfl | rfl | rfl | rfl | rfl | rfl <;> exact fun _ _ => .inr rfl

@[simp] theorem stable_readShiftCl (w : Width) : Stable (readShiftCl w) :=
  stable_bind stable_readModRm <| stable_byField fun n rm => by
    rcases field3_cases n with rfl | rfl | rfl | rfl | rfl | rfl | rfl | rfl <;> exact fun _ _ => .inr rfl

@[simp] theorem stable_readShiftImm (w : Width) : Stable (readShiftImm w) :=
  stable_bind stable_readModRm <| stable_byField fun n rm => stable_bind stable_readByte fun x => by
    rcases field3_cases n with rfl | rfl | rfl | rfl | rfl | rfl | rfl | rfl <;> exact fun _ _ => .inr rfl

@[simp] theorem stable_readGroup3 (w : Width) : Stable (readGroup3 w) :=
  stable_bind stable_readModRm <| stable_byField fun n rm => by
    rcases field3_cases n with rfl | rfl | rfl | rfl | rfl | rfl | rfl | rfl
    case inl => exact stable_bind (stable_readImm w) fun x => stable_ok _
    all_goals exact fun _ _ => .inr rfl

@[simp] theorem stable_readGroup4 : Stable readGroup4 :=
  stable_bind stable_readModRm <| stable_byField fun n rm => by
    rcases field3_cases n with rfl | rfl | rfl | rfl | rfl | rfl | rfl | rfl <;> exact fun _ _ => .inr rfl

@[simp] theorem stable_readGroup5 : Stable readGroup5 :=
  stable_bind stable_readModRm <| stable_byField fun n rm => by
    rcases field3_cases n with rfl | rfl | rfl | rfl | rfl | rfl | rfl | rfl <;> cases rm <;> exact fun _ _ => .inr rfl

@[simp] theorem stable_readPopRm : Stable readPopRm :=
  stable_bind stable_readModRm <| stable_byField fun n rm => by
    rcases field3_cases n with rfl | rfl | rfl | rfl | rfl | rfl | rfl | rfl <;> exact fun _ _ => .inr rfl

@[simp] theorem stable_readMovImm (w : Width) : Stable (readMovImm w) :=
  stable_bind stable_readModRm <| stable_byField fun n rm => stable_bind (stable_readImm w) fun x => by
    rcases field3_cases n with rfl | rfl | rfl | rfl | rfl | rfl | rfl | rfl <;> exact fun _ _ => .inr rfl

@[simp] theorem stable_readMovFromSreg : Stable readMovFromSreg :=
  stable_bind stable_readModRm <| stable_byField fun n rm => by
    rcases field3_cases n with rfl | rfl | rfl | rfl | rfl | rfl | rfl | rfl <;> exact fun _ _ => .inr rfl

@[simp] theorem stable_readMovToSreg : Stable readMovToSreg :=
  stable_bind stable_readModRm <| stable_byField fun n rm => by
    rcases field3_cases n with rfl | rfl | rfl | rfl | rfl | rfl | rfl | rfl <;> exact fun _ _ => .inr rfl

@[simp] theorem stable_readEsc (ttt : BitVec 3) : Stable (readEsc ttt) :=
  stable_bind stable_readModRm fun _ => stable_ok _

@[simp] theorem stable_readGroup0F00 : Stable readGroup0F00 :=
  stable_bind stable_readModRm <| stable_byField fun n rm => by
    rcases field3_cases n with rfl | rfl | rfl | rfl | rfl | rfl | rfl | rfl <;> exact fun _ _ => .inr rfl

@[simp] theorem stable_readGroup0F01 : Stable readGroup0F01 :=
  stable_bind stable_readModRm <| stable_byField fun n rm => by
    rcases field3_cases n with rfl | rfl | rfl | rfl | rfl | rfl | rfl | rfl <;> cases rm <;> exact fun _ _ => .inr rfl

@[simp] theorem stable_readTwoByte : Stable readTwoByte :=
  stable_bind stable_readByte fun b => by
    dsimp only
    generalize b.toNat = n
    split
    · exact stable_readGroup0F00
    · exact stable_readGroup0F01
    · exact stable_readRmReg _
    · exact stable_readRmReg _
    · exact stable_ok _
    · exact stable_error _

@[simp] theorem stable_readImul16 : Stable readImul16 :=
  stable_bind stable_readModRm <| stable_byField fun _ _ => stable_bind stable_readWord fun _ => stable_ok _

@[simp] theorem stable_readImul8 : Stable readImul8 :=
  stable_bind stable_readModRm <| stable_byField fun _ _ => stable_bind stable_readByte fun _ => stable_ok _

@[simp] theorem stable_readEnter : Stable readEnter :=
  stable_bind stable_readWord fun _ => stable_bind stable_readByte fun _ => stable_ok _

/-- Every row of the opcode map holds stable readers alone. -/
theorem stable_opcodeMap (op : Byte) : Stable (opcodeMap op) := by
  unfold opcodeMap
  dsimp only
  generalize op.toNat % 16 = lo
  split
  · unfold opcodeRow0; split <;> simp
  · unfold opcodeRow1; split <;> simp
  · unfold opcodeRow2; split <;> simp
  · unfold opcodeRow3; split <;> simp
  · split <;> simp
  · split <;> simp
  · unfold opcodeRow6; split <;> simp
  · unfold opcodeRow7; split <;> simp
  · unfold opcodeRow8; split <;> simp
  · unfold opcodeRow9; split <;> simp
  · unfold opcodeRowA; split <;> simp
  · simp
  · unfold opcodeRowC; split <;> simp
  · unfold opcodeRowD; split <;> simp
  · unfold opcodeRowE; split <;> simp
  · unfold opcodeRowF; split <;> simp

theorem stable_decodeInstr : Stable decodeInstr := stable_cons rfl stable_opcodeMap

/-- The bytes of an instruction cut off before their end want more. -/
theorem decodeInstr_cut {i : Instr} (hwf : i.wf = true) {bs more : List Byte} (h : bs ++ more = encode i)
    (hmore : more ≠ []) : decodeInstr bs = .error .needMore := by
  refine (stable_decodeInstr bs more).resolve_right fun hstable => ?_
  have hwhole := decodeInstr_encode i hwf []
  rw [List.append_nil, ← h, hstable] at hwhole
  cases hbs : decodeInstr bs with
  | error e =>
    rw [hbs] at hwhole
    cases hwhole
  | ok p =>
    rw [hbs] at hwhole
    have hrest : p.2 ++ more = [] := congrArg Prod.snd (Except.ok.inj hwhole)
    exact hmore (List.append_eq_nil_iff.mp hrest).2

/-! ### Prefixes -/

theorem length_encode_prefix {p : Instr} (h : p.isPrefix = true) : (encode p).length = 1 := by
  cases p with
  | rep | repne | lock | seg _ => rfl
  | _ => cases h

theorem length_encode_prefixes {ps : List Instr} (h : ∀ p ∈ ps, p.wf = true ∧ p.isPrefix = true) :
    (ps.flatMap encode).length = ps.length := by
  induction ps with
  | nil => rfl
  | cons p ps ih =>
    rw [List.flatMap_cons, List.length_append, length_encode_prefix (h p (by simp)).2,
      ih fun q hq => h q (by simp [hq]), List.length_cons, Nat.add_comm]

theorem encode_ne_nil {i : Instr} (hwf : i.wf = true) : encode i ≠ [] := fun h => by
  have hnil := decodeInstr_encode i hwf []
  rw [h] at hnil
  cases hnil

/-- Prefixes are decoded one after another. -/
theorem decodeItems_append {ps : List Instr} (hps : ∀ p ∈ ps, p.wf = true ∧ p.isPrefix = true) (fuel : Nat)
    (bs : List Byte) : decodeItems (ps.length + fuel) (ps.flatMap encode ++ bs) =
      (decodeItems fuel bs).map fun x => (ps ++ x.1, x.2) := by
  induction ps with
  | nil =>
    rw [List.length_nil, Nat.zero_add, List.flatMap_nil, List.nil_append]
    cases decodeItems fuel bs <;> rfl
  | cons p ps ih =>
    obtain ⟨hwf, hprefix⟩ := hps p (by simp)
    rw [List.length_cons, Nat.add_right_comm, decodeItems, List.flatMap_cons, List.append_assoc,
      decodeInstr_encode p hwf]
    dsimp only
    rw [if_pos hprefix, ih fun q hq => hps q (by simp [hq])]
    cases decodeItems fuel bs <;> rfl

theorem decode_prefixes {ps : List Instr} (hps : ∀ p ∈ ps, p.wf = true ∧ p.isPrefix = true) (bs : List Byte) :
    decodeItems (ps.flatMap encode ++ bs).length (ps.flatMap encode ++ bs) =
      (decodeItems bs.length bs).map fun x => (ps ++ x.1, x.2) := by
  rw [List.length_append, length_encode_prefixes hps]
  exact decodeItems_append hps bs.length bs

theorem decodeItems_error {bs : List Byte} {e : DecodeError} (h : decodeInstr bs = .error e) :
    decodeItems bs.length bs = .error e := by
  cases bs with
  | nil =>
    cases h
    rfl
  | cons b bs =>
    rw [List.length_cons, decodeItems, h]

/-- Prefixes and bytes that are no instruction. -/
theorem decode_error {ps : List Instr} (hps : ∀ p ∈ ps, p.wf = true ∧ p.isPrefix = true) {bs : List Byte}
    {e : DecodeError} (h : decodeInstr bs = .error e) : decode (ps.flatMap encode ++ bs) = .error e := by
  rw [decode, decode_prefixes hps, decodeItems_error h]
  rfl

/-- Prefixes and a whole instruction. -/
theorem decode_instr {ps : List Instr} (hps : ∀ p ∈ ps, p.wf = true ∧ p.isPrefix = true) {i : Instr}
    (hwf : i.wf = true) (hi : i.isPrefix = false) (rest : List Byte) :
    decode (ps.flatMap encode ++ encode i ++ rest) =
      .ok { prefixes := ps, instr := i, length := (ps.flatMap encode).length + (encode i).length } := by
  have hitems : decodeItems (encode i ++ rest).length (encode i ++ rest) = .ok ([], i, rest) := by
    obtain ⟨n, hn⟩ : ∃ n, (encode i ++ rest).length = n + 1 := Nat.exists_eq_succ_of_ne_zero (by
      simp [encode_ne_nil hwf])
    rw [hn, decodeItems, decodeInstr_encode i hwf]
    exact if_neg (Bool.eq_false_iff.mp hi)
  rw [decode, List.append_assoc, decode_prefixes hps, hitems]
  show Except.ok _ = Except.ok _
  rw [List.append_nil, List.length_append, List.length_append, ← Nat.add_assoc, Nat.add_sub_cancel]

/-- Ten bytes of prefixes and of an instruction that reaches beyond them want more. -/
theorem decode_tooLong {ps : List Instr} (hps : ∀ p ∈ ps, p.wf = true ∧ p.isPrefix = true) {i : Instr}
    (hwf : i.wf = true) (hlong : 10 < (ps.flatMap encode ++ encode i).length) :
    decode ((ps.flatMap encode ++ encode i).take 10) = .error .needMore := by
  have hlen := length_encode_prefixes hps
  by_cases hten : 10 ≤ ps.length
  · have hten' : ∀ p ∈ ps.take 10, p.wf = true ∧ p.isPrefix = true := fun p hp => hps p (List.mem_of_mem_take hp)
    have htake : (ps.flatMap encode ++ encode i).take 10 = (ps.take 10).flatMap encode ++ [] := by
      have hsplit : ps.flatMap encode = (ps.take 10).flatMap encode ++ (ps.drop 10).flatMap encode := by
        rw [← List.flatMap_append, List.take_append_drop]
      rw [hsplit, List.append_assoc, List.append_nil]
      refine List.take_left' ?_
      rw [length_encode_prefixes hten', List.length_take, Nat.min_eq_left hten]
    rw [htake]
    exact decode_error hten' rfl
  · rw [List.length_append, hlen] at hlong
    rw [List.take_append, List.take_of_length_le (by omega), hlen]
    refine decode_error hps (decodeInstr_cut hwf (List.take_append_drop (10 - ps.length) (encode i)) fun hnil => ?_)
    rw [List.drop_eq_nil_iff] at hnil
    omega

/-! ### The step at CS:IP (00 R11, 30 R193) -/

/-- The end of an instruction, as the spec lists what it leaves. -/
theorem finishInst_eq (s t : State) : s.finishInst t = { t with
    stepTrap := t.stepTrap || (s.flags.tf && decide (t.inst.progress ≠ .stall) && decide (t.run ≠ .shutdown))
    inhibit := if t.inst.progress = .complete then t.inhibit else s.inhibit
    inst := t.inst.carried } := by
  rw [State.finishInst]
  cases t.inst.progress <;> rfl

/-- With no LMSW behind, nothing is drawn for the mode rules. -/
theorem nearLmsw_empty {s : State} (h : s.fetch = FetchState.empty) : s.nearLmsw = false := by
  rw [State.nearLmsw, h]
  rfl

theorem drawsReal_empty {s : State} (h : s.fetch = FetchState.empty) (i : Option Instr) : s.drawsReal i = false := by
  rw [State.drawsReal, State.inLmswWindow, nearLmsw_empty h]
  rfl

/-- An empty queue holds nothing beside memory. -/
theorem fetchDraws_empty {s : State} (h : s.fetch = FetchState.empty) (i : Option Instr) : s.fetchDraws i = 0 := by
  rw [State.fetchDraws, State.byteDraws, State.inLmswWindow, nearLmsw_empty h, h]
  rfl

theorem beginFetched_empty {s : State} (h : s.fetch = FetchState.empty) (d : Decoded) :
    s.beginFetched d = s.beginInst d false := by
  rw [State.beginFetched, drawsReal_empty h, fetchDraws_empty h]
  rfl

theorem runInstruction_fetches {s : State} (hcode : s.inst.code = none) (h : s.fetch = FetchState.empty) :
    s.runInstruction = s.fetchExecute := by
  rw [State.runInstruction, hcode, h]
  rfl

theorem fetchExecute_ok {s : State} (h : s.fetch = FetchState.empty) {d : Decoded} (hd : s.fetchDecode = .ok d)
    (hdecl : s.declines d = false) :
    s.fetchExecute = finish s (runItems (d.prefixes ++ [d.instr]) (s.beginInst d false).yieldBus) := by
  rw [State.fetchExecute, hd]
  dsimp only
  rw [hdecl, beginFetched_empty h]
  rfl

theorem declines_false {s : State} {ps : List Instr} {i : Instr} (n : Nat)
    (h : s.platform.repIgnored = true ∨ (.rep ∉ ps ∧ .repne ∉ ps) ∨ isString i = true) :
    s.declines { prefixes := ps, instr := i, length := n } = false := by
  rw [State.declines]
  rcases h with h | ⟨hrep, hrepne⟩ | h
  · rw [h]
    rfl
  · have hany : (ps.any fun p => p == .rep || p == .repne) = false := by
      rw [List.any_eq_false]
      intro p hp
      rw [Bool.or_eq_true, beq_iff_eq, beq_iff_eq]
      rintro (rfl | rfl)
      · exact hrep hp
      · exact hrepne hp
    rw [hany, Bool.and_false, Bool.false_and]
  · rw [h, Bool.not_true, Bool.and_false]

theorem fetchDecode_ok {s : State} {bs : List Byte} {d : Decoded} (hbytes : s.fetchBytes (min s.fetchable 10) = bs)
    (hd : decode bs = .ok d) : s.fetchDecode = .ok d := by
  rw [State.fetchDecode, show s.fetchBytes (min s.fetchable Config.maxLength) = bs from hbytes, hd]

/-- Settles O54: with nothing to deliver a step is one instruction, fetched or gone on with. -/
theorem stepRunsDecodedInstruction : Obligations.StepRunsDecodedInstruction := by
  unfold Obligations.StepRunsDecodedInstruction
  constructor
  · intro s ps i rest t n begun hreset hhold hrun hquiet hcode hfetch hps hwf hi hrep hbytes
    have hstep : step s = t.fetchExecute := by
      rw [step_proceed hreset hhold, proceed_running hrun hquiet, runInstruction_fetches hcode hfetch]
    have hbegun : t.beginInst { prefixes := ps, instr := i, length := n } false = begun := by
      rw [State.beginInst, Bool.not_false, Bool.and_true]
      rfl
    rw [hstep, fetchExecute_ok hfetch (fetchDecode_ok hbytes (decode_instr hps hwf hi rest)) (declines_false n hrep),
      hbegun]
    show finish t (runItems (ps ++ [i]) begun.yieldBus) = _
    cases runItems (ps ++ [i]) begun.yieldBus with
    | next u => exact congrArg Host.Outcome.next (finishInst_eq t u)
    | fault f => rfl
    | refused r => rfl
  · intro s d t begun hreset hhold hrun hquiet hcode
    have hstep : step s = finish t (runItems (d.prefixes ++ [d.instr]) begun) := by
      rw [step_proceed hreset hhold, proceed_running hrun hquiet, State.runInstruction, hcode]
      rfl
    rw [hstep]
    cases runItems (d.prefixes ++ [d.instr]) begun with
    | next u => exact congrArg Host.Outcome.next (finishInst_eq t u)
    | fault f => rfl
    | refused r => rfl

theorem fetchDecode_error {s : State} {bs : List Byte} {e : DecodeError}
    (hbytes : s.fetchBytes (min s.fetchable 10) = bs) (hd : decode bs = .error e) :
    s.fetchDecode = .error (decodeExc s.fetchable e) := by
  rw [State.fetchDecode, show s.fetchBytes (min s.fetchable Config.maxLength) = bs from hbytes, hd]

/-- Bytes that are no instruction are an exception before any instruction has begun. -/
theorem fetchExecute_error {s : State} (h : s.fetch = FetchState.empty) {e : Exc} (hd : s.fetchDecode = .error e) :
    s.fetchExecute = finish s (raise e.event s.ip
      { s with inhibit := .none, inst := { InstState.idle with ipInst := s.ip, active := true } }) := by
  rw [State.fetchExecute, hd]
  dsimp only
  rw [fetchDraws_empty h, drawsReal_empty h]
  show finish s (raise e.event s.ip
    { s with inhibit := .none, fetch := { s.fetch with wrapped := false }, inst := _ }) = _
  rw [show ({ s.fetch with wrapped := false } : FetchState) = s.fetch by rw [h]; rfl]
  rfl

/-- Settles O55: the decoder's error for the bytes there are, and the exception of each. -/
theorem stepTakesDecodeFault : Obligations.StepTakesDecodeFault := by
  unfold Obligations.StepTakesDecodeFault
  intro s e t takes hreset hhold hrun hquiet hcode hfetch
  have takesOf : ∀ {e' : DecodeError} {x : Exc} {bs : List Byte}, x.vector ≠ 16 →
      t.fetchBytes (min t.fetchable 10) = bs → decode bs = .error e' → decodeExc t.fetchable e' = x → takes x := by
    rintro e' x bs hx hbytes hdecode rfl
    have hevent : (decodeExc t.fetchable e').event = { vector := (decodeExc t.fetchable e').vector
                                                       code := (decodeExc t.fetchable e').code
                                                       ext := false, soft := false, nmi := false } := by
      rw [Exc.event, beq_eq_false_iff_ne.mpr hx]
    have hstep : step s = finish t (raise (decodeExc t.fetchable e').event t.ip
        { t with inhibit := .none, inst := { InstState.idle with ipInst := t.ip, active := true } }) := by
      rw [step_proceed hreset hhold, proceed_running hrun hquiet, runInstruction_fetches hcode hfetch,
        fetchExecute_error hfetch (fetchDecode_error hbytes hdecode)]
    rw [hevent] at hstep
    refine hstep.trans ?_
    cases raise _ t.ip { t with inhibit := .none, inst := { InstState.idle with ipInst := t.ip, active := true } } with
    | next u => exact congrArg Host.Outcome.next (finishInst_eq t u)
    | fault f => rfl
    | refused r => rfl
  refine ⟨fun ps bs hps hbytes herror => ?_, fun ps i hps hwf hlong hmany hbytes => ?_⟩
  · have hdecode := decode_error hps herror
    refine ⟨?_, ?_, ?_, ?_⟩
    · rintro (rfl | rfl)
      · exact takesOf (by decide) hbytes hdecode rfl
      · exact takesOf (by decide) hbytes hdecode rfl
    · rintro rfl
      exact takesOf (by decide) hbytes hdecode rfl
    · rintro rfl hfew
      exact takesOf (by decide) hbytes hdecode (if_neg (Nat.not_lt.mpr hfew))
    · rintro rfl hmany
      exact takesOf (by decide) hbytes hdecode (if_pos hmany)
  · refine takesOf (by decide) ?_ (decode_tooLong hps hwf hlong) (if_pos hmany)
    rw [Nat.min_eq_right hmany.le, hbytes]

end Sys2Proof.Proofs.Other
end

section
/-! The instructions that push or pop several words: ENTER, LEAVE and BOUND, PUSHA and POPA. -/

namespace Sys2Proof.Proofs.Other

open Sys2Proof Sys2Proof.Machine

set_option Elab.async false

/-! ### Words of the stack -/

/-- Word k of those ENTER pushes at level n. -/
def enterWord (s : State) (n k : Nat) : Word :=
  if k = 0 then s.regs.bp
  else if k < n then (s.pushList (s.enterWords n k)).load .word s.ss (s.regs.bp - BitVec.ofNat 16 (2 * k))
  else s.regs.sp - 2

theorem enterWords_getElem? (s : State) (n : Nat) {k m : Nat} (h : k < m) :
    (s.enterWords n m)[k]? = some (enterWord s n k) := by
  induction m with
  | zero => exact absurd h (Nat.not_lt_zero k)
  | succ m ih =>
    rw [State.enterWords]
    by_cases hk : k < m
    · rw [List.getElem?_append_left (by rwa [State.enterWords_length]), ih hk]
    · obtain rfl : k = m := by omega
      rw [List.getElem?_append_right (by rw [State.enterWords_length]), State.enterWords_length, Nat.sub_self]
      rfl

/-- Words pushed below SP leave a word that lies above them. -/
theorem pushList_load_above {s : State} (hquiet : s.Quiet) (hd : s.LowDecoded) (vs : List Word) {off : Word}
    (hsp : 2 * vs.length ≤ s.regs.sp.toNat) (hlow : s.regs.sp.toNat ≤ off.toNat) (hhigh : off.toNat + 1 < 2 ^ 16) :
    (s.pushList vs).load .word s.ss off = s.load .word s.ss off := by
  have hlt := s.regs.sp.isLt
  have apart : ∀ j < vs.length, ∀ i < 2, ∀ b < 2,
      s.physAddr (s.translate s.ss off + b) ≠
        s.physAddr (s.translate s.ss (s.regs.sp - BitVec.ofNat 16 (2 * vs.length) + BitVec.ofNat 16 (2 * j)) + i) := by
    intro j hj i hi b hb heq
    have hmod := s.physAddr_inj hd s.ss heq
    simp only [BitVec.toNat_add, BitVec.toNat_sub, BitVec.toNat_ofNat] at hmod
    omega
  refine State.load_kept (State.pushList_kept vs s hquiet) (by simp) .word s.ss off fun a ha hin => ?_
  obtain ⟨j, hj, i, hi, rfl⟩ := (s.mem_stackCells a _ _).mp hin
  simp only [State.cells, List.mem_cons, List.not_mem_nil, or_false] at ha
  rcases ha with ha | ha
  · exact apart j hj i hi 0 (by norm_num) ha.symm
  · exact apart j hj i hi 1 (by norm_num) ha.symm

/-- Pushing words below SP with other registers afterwards is a change of data. -/
theorem pushList_setRegs_dataOnly {s : State} (h : s.Quiet) (vs : List Word) (g : Regs) :
    s.DataOnly { s.pushList vs with regs := g } := by
  have honly := State.pushList_dataOnly h vs
  rw [State.dataOnly_iff] at honly ⊢
  exact honly

/-! ### ENTER (46 R471) -/

/-- What ENTER leaves when every word passes its check. -/
def entered (s : State) (size : Word) (n : Nat) : State :=
  { s.pushList (s.enterWords n (n + 1)) with
    regs := { s.regs with bp := s.regs.sp - 2, sp := s.regs.sp - BitVec.ofNat 16 (2 * (n + 1)) - size } }

theorem load_entered (s : State) (size : Word) (n : Nat) (off : Word) :
    (entered s size n).load .word s.ss off = (s.pushList (s.enterWords n (n + 1))).load .word s.ss off := rfl

/-- The words ENTER pushed, each where it was pushed. -/
theorem entered_words {s : State} (hquiet : s.Quiet) (hd : s.LowDecoded) (size : Word) {n : Nat} (hn : n < 32) {j : Nat}
    {w : Word} (hj : (s.enterWords n (n + 1))[j]? = some w) :
    (entered s size n).load .word s.ss (s.regs.sp - 2 - BitVec.ofNat 16 (2 * j)) = w :=
  State.pushList_words hquiet hd _ (by rw [State.enterWords_length]; omega) j w hj

theorem entered_kept {s : State} (hquiet : s.Quiet) (size : Word) (n : Nat) :
    s.MemoryKept (entered s size n) (s.stackCells (s.regs.sp - 2 - BitVec.ofNat 16 (2 * n)) (n + 1)) := by
  have hkept := State.pushList_kept (s.enterWords n (n + 1)) s hquiet
  rw [State.enterWords_length, ← sub_two_mul] at hkept
  exact hkept

/-- A display word is that of the old frame where the two frames lie apart. -/
theorem enterWord_display {s : State} (hquiet : s.Quiet) (hd : s.LowDecoded) {n k : Nat} (hk : 1 ≤ k) (hkn : k < n)
    (hsp : 2 * n + 2 ≤ s.regs.sp.toNat) (hbp : s.regs.sp.toNat + 2 * n ≤ s.regs.bp.toNat) :
    enterWord s n k = s.load .word s.ss (s.regs.bp - BitVec.ofNat 16 (2 * k)) := by
  have hoff : (s.regs.bp - BitVec.ofNat 16 (2 * k)).toNat = s.regs.bp.toNat - 2 * k := by
    have hlt := s.regs.bp.isLt
    rw [BitVec.toNat_sub, BitVec.toNat_ofNat]
    omega
  have hlt := s.regs.bp.isLt
  rw [enterWord, if_neg (by omega), if_pos hkn]
  exact pushList_load_above hquiet hd _ (by rw [State.enterWords_length]; omega) (by omega) (by omega)

theorem exec_enter_spec {s : State} {size : Word} {level : Byte} {n : Nat} (hn : level.toNat % 32 = n)
    (hquiet : s.Quiet) (hpush : ∀ k, k < n + 1 → s.writeFault .ss (s.regs.sp - 2 - BitVec.ofNat 16 (2 * k)) 2 = none)
    (hread : ∀ k, 1 ≤ k → k < n → s.readFault .ss (s.regs.bp - BitVec.ofNat 16 (2 * k)) 2 = none) :
    exec (.enter size level) s = .next (entered s size n) :=
  execEnter_next hquiet size level n hn (fun j hj => hpush j (by omega)) hread

/-- ENTER's exception, from the state with the words already pushed. -/
theorem exec_enter_fault {s : State} {size : Word} {level : Byte} {n k : Nat} {e : Exc} (hn : level.toNat % 32 = n)
    (hquiet : s.Quiet) (hk : k ≤ n)
    (hbefore : ∀ j < k,
      (if 1 ≤ j ∧ j < n then s.readFault .ss (s.regs.bp - BitVec.ofNat 16 (2 * j)) 2 else none) = none ∧
        s.writeFault .ss (s.regs.sp - 2 - BitVec.ofNat 16 (2 * j)) 2 = none)
    (hfault : [if 1 ≤ k ∧ k < n then s.readFault .ss (s.regs.bp - BitVec.ofNat 16 (2 * k)) 2 else none,
      s.writeFault .ss (s.regs.sp - 2 - BitVec.ofNat 16 (2 * k)) 2].findSome? id = some e) (he : e.vector ≠ 16) :
    exec (.enter size level) s =
      ({ s.pushList (s.enterWords n k) with regs := s.regs } : State).trap e.vector e.code := by
  rw [← complete_faultAt s _ he]
  show execEnter size level s = raise e.event (s.pushList (s.enterWords n k)).inst.ipInst _
  rw [State.pushList_inst]
  refine execEnter_fault hquiet size level n k e hn hk (fun j hj => ⟨(hbefore j hj).2, fun h1 => ?_⟩) ?_
  · have hread := (hbefore j hj).1
    rwa [if_pos ⟨h1, by omega⟩] at hread
  · by_cases hc : 1 ≤ k ∧ k < n
    · rw [if_pos hc] at hfault ⊢
      exact hfault
    · rw [if_neg hc] at hfault ⊢
      exact (findSome_pair hfault).elim nofun And.right

/-- The exception of a stack word: in real mode 13, in protected mode #SS(0) where SS holds a writable data segment. -/
theorem stackFault_real {s : State} (hreal : s.prot = false) {allowed : Bool} {off : Word} {e : Exc}
    (h : s.accessFault .ss allowed off 2 = some e) : e = Exc.gp 0 := by
  rw [accessFault_real hreal] at h
  split_ifs at h
  exact (Option.some_inj.mp h).symm

theorem stackFault_limit {s : State} (hprot : s.prot = true) (hv : s.ss.valid = true) (off : Word) :
    s.accessFault .ss true off 2 = if s.ss.inLimit off 2 = true then none else some (Exc.ss 0) :=
  accessFault_limit (r := .ss) hprot hv off 2

theorem stackFault_prot {s : State} (hprot : s.prot = true) (hv : s.ss.valid = true) {off : Word} {e : Exc}
    (h : s.accessFault .ss true off 2 = some e) : e = Exc.ss 0 := by
  rw [stackFault_limit hprot hv] at h
  split_ifs at h
  exact (Option.some_inj.mp h).symm

theorem popCheck_fault {s : State} (hprot : s.prot = true) {off : Word} {e : Exc}
    (h : s.readFault .ss off 2 = some e) : s.popCheck off = .error (.exc e) := by
  rw [State.popCheck, hprot, h]
  rfl

theorem complete_popCheck_fault {s : State} (hprot : s.prot = true) {off : Word} {e : Exc}
    (h : s.readFault .ss off 2 = some e) (f : Unit → Exe State) :
    complete s (s.popCheck off >>= f) = s.trap e.vector e.code := by
  rw [popCheck_fault hprot h]
  exact complete_fault s (accessFault_vector h)

/-- BOUND with an operand that can be read. -/
theorem exec_bound {s : State} {r : Reg} {m : Mem} (hquiet : s.Quiet)
    (h₀ : s.readFault (s.eaSeg m) (s.ea m) 2 = none) (h₂ : s.readPart (s.eaSeg m) (s.ea m) 2 = none) :
    exec (.bound r m) s = complete s
      (ensure (decide ((s.load .word (s.seg (s.eaSeg m)) (s.ea m)).toInt ≤ (s.reg16 r).toInt) &&
        decide ((s.reg16 r).toInt ≤ (s.load .word (s.seg (s.eaSeg m)) (s.ea m + 2)).toInt)) Exc.br >>=
        fun _ => .ok s) := by
  show complete s (s.readPair m _) = _
  rw [s.readPair_ok m _ h₀ h₂, complete_afterReads hquiet, State.yields_quiet hquiet]

/-- Settles O44: ENTER by the words it pushes, LEAVE and BOUND by their one check. -/
theorem frameInstructionsResult : Obligations.FrameInstructionsResult := by
  unfold Obligations.FrameInstructionsResult
  refine ⟨?_, fun s hread => ?_, ?_, fun e s hprot h => complete_popCheck_fault hprot h _, fun s hreal hbp => ?_, ?_⟩
  · intro size level s sp bp n hquiet hpush hread
    have hn : n < 32 := Nat.mod_lt _ (by norm_num)
    have hget : ∀ {k}, k < n + 1 → (s.enterWords n (n + 1))[k]? = some (enterWord s n k) := enterWords_getElem? s n
    refine ⟨entered s size n, exec_enter_spec rfl hquiet hpush hread, pushList_setRegs_dataOnly hquiet _ _,
      by simp [entered], fun h0 => ?_, fun h0 => ⟨?_, fun hd => ?_⟩, fun hd => ?_, fun hd k hk hkn hsp hbp => ?_,
      fun hd j w hj => entered_words hquiet hd size hn hj, entered_kept hquiet size n⟩
    · rw [entered, h0]
      rfl
    · rw [entered]
      dsimp only
      rw [← sub_two_mul]
    · rw [entered_words hquiet hd size hn (hget (Nat.lt_succ_self n)), enterWord, if_neg h0,
        if_neg (Nat.lt_irrefl n)]
    · have hword := entered_words hquiet hd size hn (hget (Nat.succ_pos n))
      rwa [show s.regs.sp - 2 - BitVec.ofNat 16 (2 * 0) = sp - 2 from BitVec.sub_zero _] at hword
    · rw [entered_words hquiet hd size hn (hget (by omega)), enterWord_display hquiet hd hk hkn hsp hbp]
  · show complete s (s.popCheck s.regs.bp >>= _) = _
    rw [s.popCheck_ok _ hread]
    rfl
  · intro size level s k e sp bp n push read hquiet hk hbefore hfault
    have hcases := findSome_pair hfault
    have haccess : ∃ allowed off, s.accessFault .ss allowed off 2 = some e ∧
        (s.ss.rights.getLsbD 3 = false → s.ss.rights.getLsbD 1 = true → allowed = true) := by
      rcases hcases with h | ⟨-, h⟩
      · refine ⟨_, _, (ite_eq_iff.mp h).elim (fun x => x.2) (fun x => nomatch x.2), fun hcode _ => ?_⟩
        exact (rightsReadable_iff _).mpr fun h => absurd h (Bool.eq_false_iff.mp hcode)
      · exact ⟨_, _, h, fun hcode hw => (rightsWritable_iff _).mpr ⟨hcode, hw⟩⟩
    obtain ⟨allowed, off, hacc, hallowed⟩ := haccess
    refine ⟨fun hreal => stackFault_real hreal hacc, fun hprot hv hcode hw => ?_, _,
      exec_enter_fault rfl hquiet hk hbefore hfault (accessFault_vector hacc), pushList_setRegs_dataOnly hquiet _ _,
      rfl, by simp, fun hd j w hj => ?_, ?_⟩
    · obtain rfl := hallowed hcode hw
      exact stackFault_prot hprot hv hacc
    · have hn : n < 32 := Nat.mod_lt _ (by norm_num)
      exact State.pushList_words hquiet hd _ (by rw [State.enterWords_length]; omega) j w hj
    · have hkept := State.pushList_kept (s.enterWords n k) s hquiet
      rw [State.enterWords_length] at hkept
      exact hkept
  · show complete s (s.popCheck s.regs.bp >>= _) = _ ∨ complete s (s.popCheck s.regs.bp >>= _) = _
    rw [hbp]
    exact complete_popCheck_wraps hreal _
  · intro r m s hquiet h₀ h₂ lo hi
    have hexec := exec_bound (r := r) hquiet h₀ h₂
    refine ⟨fun hlo hhi => ?_, fun hout => ?_⟩
    · rw [hexec, decide_eq_true hlo, decide_eq_true hhi]
      rfl
    · have hfail : (decide (lo ≤ (s.reg16 r).toInt) && decide ((s.reg16 r).toInt ≤ hi)) = false := by
        rw [Bool.eq_false_iff, ne_eq, Bool.and_eq_true, decide_eq_true_iff, decide_eq_true_iff]
        omega
      rw [hexec, hfail]
      rfl

/-! ### PUSHA (40 R243) -/

theorem pushWhile_all : ∀ (vs : List Word) (s : State),
    (∀ j < vs.length, s.writeFault .ss (s.regs.sp - 2 - BitVec.ofNat 16 (2 * j)) 2 = none) →
    s.pushWhile vs = (none, s.pushList vs)
  | [], _, _ => rfl
  | v :: vs, s, hroom => by
    have h₀ : s.writeFault .ss (s.regs.sp - 2) 2 = none := by simpa using hroom 0 (Nat.succ_pos _)
    have hsp : (((s.putStack (s.regs.sp - 2) v).setSp (s.regs.sp - 2)).yieldBus).regs.sp = s.regs.sp - 2 := by
      rw [State.yieldBus_regs]
      rfl
    rw [State.pushWhile, h₀, State.pushList]
    refine pushWhile_all vs _ fun j hj => ?_
    rw [State.writeFault_congr (s := s) (by simp) (by simp), hsp, sub_two_sub]
    exact hroom (j + 1) (Nat.succ_lt_succ hj)

/-- The eight words of PUSHA, the first pushed first. -/
def pushaWords (s : State) : List Word :=
  [s.regs.ax, s.regs.cx, s.regs.dx, s.regs.bx, s.regs.sp, s.regs.bp, s.regs.si, s.regs.di]

theorem pushaWords_getElem? (s : State) (j : Nat) :
    (pushaWords s)[j]? = ([Reg.ax, .cx, .dx, .bx, .sp, .bp, .si, .di][j]?).map s.reg16 := by
  rw [← List.getElem?_map]
  rfl

theorem sp_sub_sixteen (sp : Word) : sp - 2 - BitVec.ofNat 16 (2 * 7) = sp - 16 := by
  rw [sub_two_mul]
  rfl

/-- The first and the last word PUSHA checks before it writes anything. -/
theorem exec_pusha {s : State} (h₀ : s.prot = true → s.writeFault .ss (s.regs.sp - 2) 2 = none)
    (h₇ : s.prot = true → s.writeFault .ss (s.regs.sp - 16) 2 = none) :
    exec .pusha s = complete s
      (match s.pushWhile (pushaWords s) with
      | (none, t) => .ok t
      | (some e, t) => .error (.excAt e ((t.setSp t.wrapSp).tick 2))) := by
  have hnone : ∀ x : Option Exc, (s.prot = true → x = none) → (if s.prot then x else none) = none := fun x hx => by
    split_ifs with hprot
    · exact hx hprot
    · rfl
  show complete s (check (if s.prot then s.writeFault .ss (s.regs.sp - 2) 2 else none) >>= fun _ =>
    check (if s.prot then s.writeFault .ss (s.regs.sp - 16) 2 else none) >>= fun _ => _) = _
  rw [hnone _ h₀, hnone _ h₇]
  rfl

theorem exec_pusha_first {s : State} (hprot : s.prot = true) {e : Exc}
    (h : [s.writeFault .ss (s.regs.sp - 2) 2, s.writeFault .ss (s.regs.sp - 16) 2].findSome? id = some e) :
    exec .pusha s = s.trap e.vector e.code := by
  have he : e.vector ≠ 16 := (findSome_pair h).elim accessFault_vector fun h => accessFault_vector h.2
  rw [← complete_fault s he]
  show complete s (check (if s.prot then s.writeFault .ss (s.regs.sp - 2) 2 else none) >>= fun _ =>
    check (if s.prot then s.writeFault .ss (s.regs.sp - 16) 2 else none) >>= fun _ => _) = _
  rw [if_pos hprot, if_pos hprot, checks_two h]

theorem exec_pusha_all {s : State}
    (hroom : ∀ k < 8, s.writeFault .ss (s.regs.sp - 2 - BitVec.ofNat 16 (2 * k)) 2 = none) :
    exec .pusha s = .next (s.pushList (pushaWords s)) := by
  rw [exec_pusha (fun _ => by simpa using hroom 0 (by norm_num))
    (fun _ => by rw [← sp_sub_sixteen]; exact hroom 7 (by norm_num)), pushWhile_all (pushaWords s) s hroom]
  rfl

/-- The state PUSHA leaves part-way, after k words. -/
def pushedPartly (s : State) (k : Nat) : State :=
  let t := s.pushList ((pushaWords s).take k)
  (t.setSp t.wrapSp).tick 2

theorem wrapSp_wrap (s : State) : WrapSp s.wrapSp := by
  rw [State.wrapSp, WrapSp]
  split_ifs <;> simp

theorem exec_pusha_stop {s : State} {k : Nat} {e : Exc} (hk : k < 8)
    (h₀ : s.prot = true → s.writeFault .ss (s.regs.sp - 2) 2 = none)
    (h₇ : s.prot = true → s.writeFault .ss (s.regs.sp - 16) 2 = none)
    (hbefore : ∀ j < k, s.writeFault .ss (s.regs.sp - 2 - BitVec.ofNat 16 (2 * j)) 2 = none)
    (hfault : s.writeFault .ss (s.regs.sp - 2 - BitVec.ofNat 16 (2 * k)) 2 = some e) :
    exec .pusha s = (pushedPartly s k).trap e.vector e.code := by
  rw [exec_pusha h₀ h₇, State.pushWhile_stop e k (pushaWords s) s hk hbefore hfault]
  exact complete_faultAt s _ (accessFault_vector hfault)

/-- A word that does not fit between two that do: the limit. -/
theorem stackFault_between {s : State} (hprot : s.prot = true) {allowed : Bool} {off off' : Word}
    (hfits : s.accessFault .ss allowed off 2 = none) (hnot : s.accessFault .ss allowed off' 2 ≠ none) :
    s.accessFault .ss allowed off' 2 = some (Exc.ss 0) := by
  have hallowed : (s.seg .ss).valid = true ∧ allowed = true := by
    by_contra hc
    rw [accessFault_prot hprot, if_neg hc] at hfits
    cases hfits
  obtain ⟨hv, rfl⟩ := hallowed
  rw [stackFault_limit hprot hv] at hnot ⊢
  split_ifs at hnot ⊢
  · exact absurd rfl hnot
  · rfl

/-- A stack word in real mode fits where its offset is not FFFFH. -/
theorem stackFault_real_iff {s : State} (hreal : s.prot = false) (allowed : Bool) (off : Word) :
    s.accessFault .ss allowed off 2 = if off = 0xFFFF#16 then some (Exc.gp 0) else none := by
  refine (accessFault_real_width hreal .ss allowed off .word).trans ?_
  exact if_congr (and_iff_right rfl) rfl rfl

theorem pushaPartly {s : State} (hquiet : s.Quiet) {k : Nat} (hk : k < 8) :
    s.DataOnly (pushedPartly s k) ∧ (pushedPartly s k).flags = s.flags ∧
      s.regs.SameBut (pushedPartly s k).regs .word .sp ∧ WrapSp (pushedPartly s k).regs.sp ∧
      (s.LowDecoded → ∀ j r, j < k → [Reg.ax, .cx, .dx, .bx, .sp, .bp, .si, .di][j]? = some r →
        (pushedPartly s k).load .word s.ss (s.regs.sp - 2 - BitVec.ofNat 16 (2 * j)) = s.reg16 r) ∧
      s.MemoryKept (pushedPartly s k) (s.stackCells (s.regs.sp - BitVec.ofNat 16 (2 * k)) k) := by
  have hlen : ((pushaWords s).take k).length = k := by
    rw [List.length_take]
    exact Nat.min_eq_left hk.le
  refine ⟨?_, by simp [pushedPartly], ?_, wrapSp_wrap _, fun hd j r hj hr => ?_, ?_⟩
  · have honly := State.pushList_dataOnly hquiet ((pushaWords s).take k)
    rw [State.dataOnly_iff] at honly ⊢
    exact honly
  · show s.regs.SameBut ((s.pushList ((pushaWords s).take k)).regs.set .sp _) .word .sp
    rw [State.pushList_sp]
    exact fun q hq => (Regs.get_set_other _ hq _).trans (Regs.get_set_other _ hq _)
  · refine State.pushList_words hquiet hd ((pushaWords s).take k) (by rw [hlen]; omega) j _ ?_
    rw [List.getElem?_take_of_lt hj, pushaWords_getElem?, hr]
    rfl
  · have hkept := State.pushList_kept ((pushaWords s).take k) s hquiet
    rw [hlen] at hkept
    exact hkept

/-! ### POPA (40 R244) -/

theorem popCount_all (s : State) : ∀ (n : Nat) (off : Word),
    (∀ j < n, s.readFault .ss (off + BitVec.ofNat 16 (2 * j)) 2 = none) → s.popCount n off = n
  | 0, _, _ => rfl
  | n + 1, off, hroom => by
    have h₀ : s.readFault .ss off 2 = none := by simpa using hroom 0 (Nat.succ_pos n)
    rw [State.popCount, h₀]
    refine congrArg (· + 1) (popCount_all s n (off + 2) fun j hj => ?_)
    have hoff : off + 2 + BitVec.ofNat 16 (2 * j) = off + BitVec.ofNat 16 (2 * (j + 1)) := by
      rw [BitVec.add_assoc, Nat.mul_add, Nat.add_comm (2 * j), BitVec.ofNat_add]
      rfl
    rw [hoff]
    exact hroom (j + 1) (Nat.succ_lt_succ hj)

/-- POPA once the first and the last word have passed their check. -/
theorem exec_popa {s : State} (hquiet : s.Quiet) (h₀ : s.prot = true → s.readFault .ss s.regs.sp 2 = none)
    (h₇ : s.prot = true → s.readFault .ss (s.regs.sp + 14) 2 = none) {k : Nat} (hk : s.popCount 8 s.regs.sp = k) :
    exec .popa s = complete s
      (if k = 8 then .ok { s with regs := s.popaRegs 8 (s.regs.sp + 16) }
      else if !s.prot && Config.oddSpWrapShutdown then .error (.shutdown s)
      else .error (.excAt (if s.prot then Exc.ss 0 else Exc.gp 0)
        ({ s with regs := s.popaRegs k (s.tick 8).wrapSp }.tick 10))) := by
  have hnone : ∀ x : Option Exc, (s.prot = true → x = none) → (if s.prot then x else none) = none := fun x hx => by
    split_ifs with hprot
    · exact hx hprot
    · rfl
  subst hk
  show complete s (check (if s.prot then s.readFault .ss s.regs.sp 2 else none) >>= fun _ =>
    check (if s.prot then s.readFault .ss (s.regs.sp + 14) 2 else none) >>= fun _ =>
      if s.popCount 8 s.regs.sp = 8 then .ok { s.yields 7 with regs := s.popaRegs 8 (s.regs.sp + 16) }
      else if !s.prot && Config.oddSpWrapShutdown then .error (.shutdown s)
      else .error (.excAt (if s.prot then Exc.ss 0 else Exc.gp 0)
        ({ s.yields (s.popCount 8 s.regs.sp) with
            regs := s.popaRegs (s.popCount 8 s.regs.sp) (s.tick 8).wrapSp }.tick 10))) = _
  rw [hnone _ h₀, hnone _ h₇, State.yields_quiet hquiet, State.yields_quiet hquiet]
  rfl

theorem exec_popa_first {s : State} (hprot : s.prot = true) {e : Exc}
    (h : [s.readFault .ss s.regs.sp 2, s.readFault .ss (s.regs.sp + 14) 2].findSome? id = some e) :
    exec .popa s = s.trap e.vector e.code := by
  have he : e.vector ≠ 16 := (findSome_pair h).elim accessFault_vector fun h => accessFault_vector h.2
  rw [← complete_fault s he]
  show complete s (check (if s.prot then s.readFault .ss s.regs.sp 2 else none) >>= fun _ =>
    check (if s.prot then s.readFault .ss (s.regs.sp + 14) 2 else none) >>= fun _ => _) = _
  rw [if_pos hprot, if_pos hprot, checks_two h]

/-- The registers POPA has loaded, where no other master writes between its words. -/
theorem popaRegs_quiet {s : State} (hquiet : s.Quiet) (k : Nat) (sp : Word) :
    let v := fun i => if i < k then s.load .word s.ss (s.regs.sp + BitVec.ofNat 16 (2 * i)) else s.freeWord i
    s.popaRegs k sp = { di := v 0, si := v 1, bp := v 2, sp := sp, bx := v 4, dx := v 5, cx := v 6, ax := v 7 } := by
  simp only [State.popaRegs, State.yields_quiet hquiet, State.stackWord]

/-- The state POPA leaves part-way, after k words. -/
def poppedPartly (s : State) (k : Nat) : State := { s with regs := s.popaRegs k (s.tick 8).wrapSp }.tick 10

theorem popaPartly {s : State} (hquiet : s.Quiet) {k : Nat} (hk : k < 8) :
    s.RegsFlagsOnly (poppedPartly s k) ∧ (poppedPartly s k).flags = s.flags ∧ WrapSp (poppedPartly s k).regs.sp ∧
      ∀ j r, j < k → r ≠ .sp → [Reg.di, .si, .bp, .sp, .bx, .dx, .cx, .ax][j]? = some r →
        (poppedPartly s k).reg16 r = s.load .word s.ss (s.regs.sp + BitVec.ofNat 16 (2 * j)) := by
  refine ⟨rfl, rfl, wrapSp_wrap _, fun j r hj hsp hr => ?_⟩
  have hj8 : j < 8 := hj.trans hk
  show (s.popaRegs k _).get r = _
  rw [popaRegs_quiet hquiet]
  interval_cases j <;> cases hr
  any_goals exact if_pos hj
  exact absurd rfl hsp

/-- Settles O18: all eight words, the checks before the first, or the words before the one that does not fit. -/
theorem pushAllPopAll : Obligations.PushAllPopAll := by
  unfold Obligations.PushAllPopAll
  refine ⟨fun s hquiet hroom => ?_, fun s hquiet hroom => ?_,
    fun e s hprot => ⟨exec_pusha_first hprot, exec_popa_first hprot⟩, ?_, ?_⟩
  · have hroom' : ∀ k < 8, s.writeFault .ss (s.regs.sp - 2 - BitVec.ofNat 16 (2 * k)) 2 = none :=
      fun k hk => hroom ⟨k, hk⟩
    have hregs := State.pushList_sp (pushaWords s) s
    have hsp : (s.pushList (pushaWords s)).regs.sp = s.regs.sp - 16 := by
      rw [hregs]
      rfl
    refine ⟨_, exec_pusha_all hroom', State.pushList_dataOnly hquiet _, by simp, ?_, hsp, fun hd => ?_,
      State.pushList_kept (pushaWords s) s hquiet⟩
    · rw [hregs]
      exact sameBut_set _ _ _
    · have hword : ∀ (j : Nat) (w off : Word), (pushaWords s)[j]? = some w →
          s.regs.sp - 16 + off = s.regs.sp - 2 - BitVec.ofNat 16 (2 * j) →
          (s.pushList (pushaWords s)).load .word s.ss (s.regs.sp - 16 + off) = w := fun j w off hj hoff => by
        rw [hoff]
        exact State.pushList_words hquiet hd (pushaWords s) (by norm_num [pushaWords]) j w hj
      rw [hsp]
      refine ⟨hword 0 _ _ rfl ?_, hword 1 _ _ rfl ?_, hword 2 _ _ rfl ?_, hword 3 _ _ rfl ?_, hword 4 _ _ rfl ?_,
        hword 5 _ _ rfl ?_, hword 6 _ _ rfl ?_, ?_⟩
      case refine_8 =>
        have hlast := hword 7 s.regs.di 0 rfl (by bv_omega)
        rwa [show s.regs.sp - 16 + 0 = s.regs.sp - 16 from BitVec.add_zero _] at hlast
      all_goals bv_omega
  · intro word
    have hroom' : ∀ k < 8, s.readFault .ss (s.regs.sp + BitVec.ofNat 16 (2 * k)) 2 = none :=
      fun k hk => hroom ⟨k, hk⟩
    rw [exec_popa hquiet (fun _ => by simpa using hroom' 0 (by norm_num)) (fun _ => hroom' 7 (by norm_num))
      (popCount_all s 8 _ hroom'), if_pos rfl, popaRegs_quiet hquiet]
    rfl
  · intro k s hquiet hk fits hstop
    obtain ⟨honly, hflags, hregs, hwrap, hload, hkept⟩ := pushaPartly hquiet hk
    refine ⟨pushedPartly s k, ?_, honly, hflags, hregs, hwrap, hload, hkept⟩
    rcases hstop with ⟨hreal, hsp⟩ | ⟨hprot, h₀, h₇, hbefore, hnot⟩
    · have hfault := fun off => stackFault_real_iff hreal (rightsWritable (s.seg .ss).rights) off
      have hoff : ∀ j ≤ k, (s.regs.sp - 2 - BitVec.ofNat 16 (2 * j) = 0xFFFF#16 ↔ j = k) := fun j hj => by
        rw [← BitVec.toNat_inj, BitVec.toNat_sub, BitVec.toNat_sub, BitVec.toNat_ofNat, hsp]
        show (2 ^ 16 - 2 * j % 2 ^ 16 + (2 ^ 16 - 2 + (2 * k + 1)) % 2 ^ 16) % 2 ^ 16 = 65535 ↔ j = k
        omega
      have hprot : ∀ P : Prop, s.prot = true → P := fun P h => absurd h (Bool.eq_false_iff.mp hreal)
      rw [exec_pusha_stop (e := Exc.gp 0) hk (hprot _) (hprot _)
        (fun j hj => (hfault _).trans (if_neg fun h => absurd ((hoff j hj.le).mp h) hj.ne))
        ((hfault _).trans (if_pos ((hoff k le_rfl).mpr rfl))), hreal]
      rfl
    · have hfirst : s.writeFault .ss (s.regs.sp - 2) 2 = none := by simpa [fits] using h₀
      rw [exec_pusha_stop (e := Exc.ss 0) hk (fun _ => hfirst) (fun _ => by rw [← sp_sub_sixteen]; exact h₇) hbefore
        (stackFault_between hprot hfirst hnot), hprot]
      rfl
  · intro k s hquiet hk fits partly
    have hpartly : partly (poppedPartly s k) := popaPartly hquiet hk
    have hk8 : k ≠ 8 := by omega
    refine ⟨fun hreal hsp => ?_, fun hprot h₀ h₇ hbefore hnot => ⟨_, hpartly, ?_⟩⟩
    · have hfault := fun off => stackFault_real_iff hreal (rightsReadable (s.seg .ss).rights) off
      have hoff : ∀ j ≤ k, (s.regs.sp + BitVec.ofNat 16 (2 * j) = 0xFFFF#16 ↔ j = k) := fun j hj => by
        rw [← BitVec.toNat_inj, BitVec.toNat_add, BitVec.toNat_ofNat]
        show (s.regs.sp.toNat + 2 * j % 2 ^ 16) % 2 ^ 16 = 65535 ↔ j = k
        omega
      have hprot : ∀ P : Prop, s.prot = true → P := fun P h => absurd h (Bool.eq_false_iff.mp hreal)
      have hcount : s.popCount 8 s.regs.sp = k := s.popCount_stop k 8 s.regs.sp hk
        (fun j hj => (hfault _).trans (if_neg fun h => absurd ((hoff j hj.le).mp h) hj.ne))
        (by rw [State.readFault, hfault, if_pos ((hoff k le_rfl).mpr rfl)]; nofun)
      rw [exec_popa hquiet (hprot _) (hprot _) hcount, if_neg hk8, hreal]
      cases Config.oddSpWrapShutdown with
      | true => exact .inl rfl
      | false => exact .inr ⟨_, hpartly, rfl⟩
    · have hfirst : s.readFault .ss s.regs.sp 2 = none := by simpa [fits] using h₀
      have hcount : s.popCount 8 s.regs.sp = k := s.popCount_stop k 8 s.regs.sp hk hbefore hnot
      rw [exec_popa hquiet (fun _ => hfirst) (fun _ => h₇) hcount, if_neg hk8, hprot]
      rfl

end Sys2Proof.Proofs.Other
end

section
/-! Far transfers: real mode, code segments, call gates to the same level. -/

namespace Sys2Proof.Proofs.Other

open Sys2Proof Sys2Proof.Machine

set_option Elab.async false

/-! ### Computations that stop with an exception before anything has changed -/

/-- It stops with an exception, met in `s` itself or behind a place where other masters may have written. -/
def Fails {α : Type} (s : State) (m : Exe α) (e : Exc) : Prop :=
  m = .error (.exc e) ∨ m = .error (.after e s)

theorem Fails.bind {α β : Type} {s : State} {m : Exe α} {e : Exc} (h : Fails s m e) (f : α → Exe β) :
    Fails s (m >>= f) e := by
  rcases h with rfl | rfl
  · exact .inl rfl
  · exact .inr rfl

theorem Fails.complete {s : State} {m : Exe State} {e : Exc} (h : Fails s m e) (he : e.vector ≠ 16) :
    complete s m = s.trap e.vector e.code := by
  rcases h with rfl | rfl <;> exact complete_fault s he

theorem gp_vector (c : Word) : (Exc.gp c).vector ≠ 16 := show (13#8 : Byte) ≠ 16 by decide

theorem np_vector (c : Word) : (Exc.np c).vector ≠ 16 := show (11#8 : Byte) ≠ 16 by decide

theorem ss_vector (c : Word) : (Exc.ss c).vector ≠ 16 := show (12#8 : Byte) ≠ 16 by decide

theorem ts_vector (c : Word) : (Exc.ts c).vector ≠ 16 := show (10#8 : Byte) ≠ 16 by decide

theorem fails_exc {α : Type} (s : State) (e : Exc) : Fails s (.error (.exc e) : Exe α) e := .inl rfl

theorem fails_afterReads {α : Type} {s : State} (hquiet : s.Quiet) (n : Nat) {f : State → Exe α} {e : Exc}
    (h : Fails s (f s) e) : Fails s (s.afterReads n f) e := by
  rw [State.afterReads_quiet hquiet]
  rcases h with h | h <;> rw [h] <;> exact .inr rfl

theorem fails_afterBus {α : Type} {s : State} (hquiet : s.Quiet) {f : State → Exe α} {e : Exc}
    (h : Fails s (f s) e) : Fails s (s.afterBus f) e := fails_afterReads hquiet 1 h

theorem fails_ensure {α : Type} (s : State) {c : Bool} (hc : c = false) (e : Exc) (f : Unit → Exe α) :
    Fails s (ensure c e >>= f) e := by
  rw [hc]
  exact .inl rfl

theorem ensure_bind {α : Type} {c : Bool} (hc : c = true) (e : Exc) (f : Unit → Exe α) :
    (ensure c e >>= f) = f () := by
  rw [hc]
  rfl

theorem afterReads_ok {α : Type} {s : State} (hquiet : s.Quiet) (n : Nat) {f : State → Exe α} {a : α}
    (h : f s = .ok a) : s.afterReads n f = .ok a := by
  rw [State.afterReads_quiet hquiet, h, keepBus_ok]

theorem afterBus_ok {α : Type} {s : State} (hquiet : s.Quiet) {f : State → Exe α} {a : α} (h : f s = .ok a) :
    s.afterBus f = .ok a := afterReads_ok hquiet 1 h

/-! ### Room on the stack -/

theorem pushFault_eq_none_iff (s : State) : ∀ (n : Nat) (sp : Word),
    s.pushFault n sp = none ↔ ∀ k < n, s.writeFault .ss (sp - 2 - BitVec.ofNat 16 (2 * k)) 2 = none
  | 0, sp => ⟨fun _ k hk => absurd hk (Nat.not_lt_zero k), fun _ => rfl⟩
  | n + 1, sp => by
    refine ⟨fun h k hk => ?_, s.pushFault_none (n + 1) sp⟩
    rw [State.pushFault] at h
    cases h₀ : s.writeFault .ss (sp - 2) 2 with
    | some e =>
      rw [h₀] at h
      cases h
    | none =>
      rw [h₀] at h
      cases k with
      | zero => exact (congrArg (s.writeFault .ss · 2) (BitVec.sub_zero _)).trans h₀
      | succ k =>
        have hk' := (pushFault_eq_none_iff s n (sp - 2)).mp h k (Nat.lt_of_succ_lt_succ hk)
        rwa [sub_two_sub] at hk'

theorem pushFault_two_iff (s : State) (sp : Word) :
    s.pushFault 2 sp = none ↔ s.writeFault .ss (sp - 2) 2 = none ∧ s.writeFault .ss (sp - 4) 2 = none := by
  have hsecond : sp - 2 - BitVec.ofNat 16 (2 * 1) = sp - 4 := by
    rw [sub_two_mul]
    rfl
  rw [pushFault_eq_none_iff]
  refine ⟨fun h => ⟨?_, ?_⟩, fun ⟨h₀, h₁⟩ k hk => ?_⟩
  · simpa using h 0 (by norm_num)
  · rw [← hsecond]
    exact h 1 (by norm_num)
  · interval_cases k
    · simpa using h₀
    · rwa [hsecond]

theorem stackRoom_ok {s : State} {n : Nat} (h : s.pushFault n s.regs.sp = none) : s.stackRoom n = .ok () := by
  rw [State.stackRoom, h]
  rfl

theorem stackRoom_fails {s : State} (hprot : s.prot = true) {n : Nat} (h : s.pushFault n s.regs.sp ≠ none) :
    s.stackRoom n = .error (.exc (Exc.ss 0)) := by
  obtain ⟨e, he⟩ := Option.ne_none_iff_exists'.mp h
  rw [State.stackRoom, he, hprot]
  rfl

/-! ### The forms of far JMP and CALL -/

/-- The transfer with its pointer. -/
def farTo (s : State) (calls : Bool) (sel off : Word) : Exe State :=
  if calls then s.callFar sel off else s.jumpFar sel off

theorem exec_farForm {s : State} {i : Instr} {calls : Bool} {off sel : Word} (h : s.FarForm i calls off sel)
    (hquiet : s.Quiet) : exec i s = complete s (farTo s calls sel off) := by
  rcases h with ⟨rfl, rfl⟩ | ⟨rfl, rfl⟩ | ⟨m, hi, h₀, h₂, rfl, rfl⟩
  · rfl
  · rfl
  · have hpair : ∀ f : Word → Word → State → Exe State, complete s (s.readPair m f) =
        complete s (f (s.load .word (s.seg (s.eaSeg m)) (s.ea m)) (s.load .word (s.seg (s.eaSeg m)) (s.ea m + 2)) s) :=
      fun f => by rw [s.readPair_ok m f h₀ h₂, complete_afterReads hquiet, State.yields_quiet hquiet]
    rcases hi with ⟨rfl, rfl⟩ | ⟨rfl, rfl⟩ <;> exact hpair _

/-! ### Real mode (44 R403-R405) -/

theorem realLoad_ofReal (sel : Word) : (Segment.ofReal sel).RealLoad sel :=
  ⟨rfl, ofReal_base sel, rfl, rfl, rfl⟩

theorem farTo_real {s : State} (hreal : s.prot = false) (calls : Bool) (sel off : Word) :
    farTo s calls sel off = if calls then s.callReal sel off else .ok (s.enterReal sel off) := by
  cases calls
  · show s.jumpFar sel off = _
    rw [State.jumpFar, hreal]
    rfl
  · show s.callFar sel off = _
    rw [State.callFar, hreal]
    rfl

/-- Pushing words changes SP, memory, the record of the stores and the queue alone. -/
theorem pushList_eq {s : State} (hquiet : s.Quiet) (vs : List Word) :
    s.pushList vs = { s with
      regs := s.regs.set .sp (s.regs.sp - BitVec.ofNat 16 (2 * vs.length)), mem := (s.pushList vs).mem
      writes := (s.pushList vs).writes, fetch := (s.pushList vs).fetch } := by
  have h := State.pushList_only vs s hquiet
  rwa [State.pushList_sp vs s] at h

theorem setSeg_cs (s : State) (g : Segment) : s.setSeg .cs g = { s with cs := g } := rfl

/-- What far CALL leaves in real mode. -/
theorem calledReal_spec {s : State} (hquiet : s.Quiet) (sel off : Word) :
    let t := (s.pushList [s.cs.sel, s.ip]).enterReal sel off
    t = { s.at off with
          cs := Segment.ofReal sel, regs := s.regs.set .sp (s.regs.sp - 4), mem := t.mem, writes := t.writes } ∧
      (s.LowDecoded → t.load .word s.ss (s.regs.sp - 2) = s.cs.sel ∧ t.load .word s.ss (s.regs.sp - 4) = s.ip) ∧
      s.MemoryKept t (s.stackCells (s.regs.sp - 4) 2) := by
  intro t
  have hload : ∀ g o, t.load .word g o = (s.pushList [s.cs.sel, s.ip]).load .word g o := fun _ _ => rfl
  refine ⟨?_, fun hd => ?_, State.pushList_kept [s.cs.sel, s.ip] s hquiet⟩
  · exact congrArg (fun u : State => u.enterReal sel off) (pushList_eq hquiet [s.cs.sel, s.ip])
  · have hword := fun j w => State.pushList_words hquiet hd [s.cs.sel, s.ip] (by norm_num) j w
    have hfirst := hword 0 s.cs.sel rfl
    have hsecond := hword 1 s.ip rfl
    rw [sub_two_mul] at hsecond
    rw [hload, hload]
    exact ⟨by simpa using hfirst, hsecond⟩

theorem exec_retFar {i : Instr} {n : Word} (hi : (i = .retFar ∧ n = 0) ∨ i = .retFarImm n) (s : State) :
    exec i s = complete s (s.retFarBy n) := by
  rcases hi with ⟨rfl, rfl⟩ | rfl <;> rfl

theorem retFarBy_real {s : State} (hreal : s.prot = false) (n : Word) :
    s.retFarBy n = s.popCheck s.regs.sp >>= fun _ => s.popCheck (s.regs.sp + 2) >>= fun _ =>
      .ok ((s.yieldBus.dropStack (4 + n)).enterReal (s.yieldBus.stackWord (s.regs.sp + 2))
        (s.stackWord s.regs.sp)) := by
  rw [State.retFarBy, hreal]
  rfl

theorem popCheck_real_ok {s : State} (hreal : s.prot = false) {off : Word} (h : off ≠ 0xFFFF#16) :
    s.popCheck off = .ok () :=
  s.popCheck_ok off ((stackFault_real_iff hreal _ off).trans (if_neg h))

/-- Settles O31: in real mode only the stack can fail. -/
theorem farTransferReal : Obligations.FarTransferReal := by
  unfold Obligations.FarTransferReal
  intro s hreal hquiet
  refine ⟨fun i calls off sel hform => ?_, fun i n hi hsp => ?_, fun i n hi h₀ h₂ => ?_⟩
  · have hexec := exec_farForm hform hquiet
    rw [farTo_real hreal] at hexec
    refine ⟨?_, ?_, ?_⟩
    · rintro rfl
      exact ⟨_, hexec, realLoad_ofReal sel⟩
    · rintro rfl h₀ h₂
      obtain ⟨ht, hload, hkept⟩ := calledReal_spec hquiet sel off
      refine ⟨_, _, hexec.trans ?_, ht, realLoad_ofReal sel, hload, hkept⟩
      rw [if_pos rfl, State.callReal, stackRoom_ok ((pushFault_two_iff s _).mpr ⟨h₀, h₂⟩)]
      rfl
    · rintro rfl hsp
      have hfault : s.pushFault 2 s.regs.sp = some (Exc.gp 0) := by
        have hw := fun off => stackFault_real_iff hreal (rightsWritable (s.seg .ss).rights) off
        rcases hsp with h | h <;>
          (rw [h, State.pushFault, State.pushFault, State.writeFault, State.writeFault, hw, hw]; rfl)
      rw [hexec, if_pos rfl, State.callReal, State.stackRoom, hfault, hreal]
      rfl
  · rw [exec_retFar hi, retFarBy_real hreal]
    rcases hsp with h | h <;> rw [h]
    · exact complete_popCheck_wraps hreal _
    · rw [popCheck_real_ok hreal (by decide)]
      exact complete_popCheck_wraps hreal _
  · rw [exec_retFar hi, retFarBy_real hreal, s.popCheck_ok _ h₀, s.popCheck_ok _ h₂, State.yieldBus_quiet hquiet]
    refine ⟨Segment.ofReal (s.load .word s.ss (s.regs.sp + 2)), ?_, realLoad_ofReal _⟩
    show Host.Outcome.next { s with cs := _, regs := s.regs.set .sp (s.regs.sp + (4 + n)), ip := _, fetch := _ } = _
    rw [← BitVec.add_assoc]
    rfl

/-! ### Entering a code segment (20 R96, R107) -/

theorem enterCode_eq (s : State) (d : Desc) (sel : Word) (level : Nat) (off : Word) :
    s.enterCode d sel level off = { s.at off with
      cs := d.cached (withLevel sel level), mem := (s.enterCode d sel level off).mem
      writes := (s.enterCode d sel level off).writes } := by
  rw [State.enterCode, State.loadSeg, State.markAccessed, putByte_eq, selWithRpl_eq]
  rfl

/-- Setting the accessed bit of a descriptor changes no other byte. -/
theorem loadSeg_byteAt_eq (s : State) (r : SReg) (d : Desc) (sel : Word) (a : Nat) :
    (s.loadSeg r d sel).byteAt a =
      if s.physAddr a = s.physAddr (d.addr + 5) then s.byteAt a ||| 1#8 else s.byteAt a := by
  rw [State.loadSeg, State.markAccessed, State.byteAt_putByte, State.setSeg_physAddr, State.setSeg_physAddr,
    State.setSeg_byteAt, State.setSeg_byteAt]
  split_ifs with h
  · rw [State.byteAt, State.byteAt, h]
    rfl
  · rfl

theorem loadSeg_byteAt_self (s : State) (r : SReg) (d : Desc) (sel : Word) :
    (s.loadSeg r d sel).byteAt (d.addr + 5) = s.byteAt (d.addr + 5) ||| 1#8 := by
  rw [loadSeg_byteAt_eq, if_pos rfl]

theorem enterCode_byteAt (s : State) (d : Desc) (sel : Word) (level : Nat) (off : Word) (a : Nat) :
    (s.enterCode d sel level off).byteAt a = (s.loadSeg .cs d (selWithRpl sel level)).byteAt a := rfl

theorem enterCode_kept (s : State) (d : Desc) (sel : Word) (level : Nat) (off : Word) :
    s.MemoryKept (s.enterCode d sel level off) [s.physAddr (d.addr + 5)] := loadSeg_kept s .cs d (selWithRpl sel level)

theorem getLsbD_accessed (b : Byte) : (b ||| 1#8).getLsbD 0 = true := by
  rw [BitVec.getLsbD_or]
  exact Bool.or_true _

/-- The cells of a word pushed lie among those of the words pushed. -/
theorem cells_mem_stackCells (s : State) {n j : Nat} (hj : j < n) {off : Word} {a : Nat}
    (h : a ∈ s.cells .word s.ss (off + BitVec.ofNat 16 (2 * j))) : a ∈ s.stackCells off n := by
  rw [State.mem_stackCells]
  simp only [State.cells, List.mem_cons, List.not_mem_nil, or_false] at h
  rcases h with rfl | rfl
  · exact ⟨j, hj, 0, by norm_num, rfl⟩
  · exact ⟨j, hj, 1, by norm_num, rfl⟩

/-- Word j of n pushed, from the new top of stack up. -/
theorem pushed_offset (sp : Word) {n j : Nat} (hj : j < n) :
    sp - 2 - BitVec.ofNat 16 (2 * j) = sp - BitVec.ofNat 16 (2 * n) + BitVec.ofNat 16 (2 * (n - 1 - j)) := by
  apply BitVec.eq_of_toNat_eq
  have h2 : (2 : Word).toNat = 2 := rfl
  simp only [BitVec.toNat_sub, BitVec.toNat_add, BitVec.toNat_ofNat, h2]
  omega

/-- Words pushed, then a code segment entered: far CALL and the delivery of an interrupt on the same stack. -/
theorem pushEnter_spec {s : State} (hquiet : s.Quiet) (vs : List Word) (hlen : vs.length ≤ 2 ^ 15) {d : Desc}
    (hdesc : s.byteAt (d.addr + 5) = d.ar) (sel : Word) (level : Nat) (off : Word) :
    let t := (s.pushList vs).enterCode d sel level off
    let top := s.regs.sp - BitVec.ofNat 16 (2 * vs.length)
    t = { s.at off with
          cs := d.cached (withLevel sel level), regs := s.regs.set .sp top, mem := t.mem, writes := t.writes } ∧
      (t.byteAt (d.addr + 5)).getLsbD 0 = true ∧
      (s.physAddr (d.addr + 5) ∉ s.stackCells top vs.length →
        t.byteAt (d.addr + 5) = d.ar ||| 1#8 ∧
        (s.LowDecoded → ∀ j w, vs[j]? = some w →
          t.load .word s.ss (s.regs.sp - 2 - BitVec.ofNat 16 (2 * j)) = w)) ∧
      s.MemoryKept t (s.physAddr (d.addr + 5) :: s.stackCells top vs.length) := by
  intro t top
  have hpushed := State.pushList_kept vs s hquiet
  have hphys : (s.pushList vs).physAddr (d.addr + 5) = s.physAddr (d.addr + 5) := by simp
  have hentered := enterCode_kept (s.pushList vs) d sel level off
  rw [hphys] at hentered
  have hself : t.byteAt (d.addr + 5) = (s.pushList vs).byteAt (d.addr + 5) ||| 1#8 :=
    loadSeg_byteAt_self (s.pushList vs) .cs d _
  refine ⟨?_, ?_, fun hout => ⟨?_, fun hd j w hj => ?_⟩, ?_⟩
  · refine (enterCode_eq (s.pushList vs) d sel level off).trans ?_
    exact congrArg (fun u : State => { u.at off with
      cs := d.cached (withLevel sel level), mem := t.mem, writes := t.writes }) (pushList_eq hquiet vs)
  · rw [hself]
    exact getLsbD_accessed _
  · rw [hself, hpushed _ hout, hdesc]
  · have hj' : j < vs.length := (List.getElem?_eq_some_iff.mp hj).1
    rw [← State.pushList_words hquiet hd vs hlen j w hj]
    refine State.load_kept hentered (by simp) .word s.ss _ fun a ha hin => hout ?_
    have hcells : (s.pushList vs).cells .word s.ss (s.regs.sp - 2 - BitVec.ofNat 16 (2 * j)) =
        s.cells .word s.ss (s.regs.sp - 2 - BitVec.ofNat 16 (2 * j)) := by simp [State.cells]
    rw [hcells, pushed_offset _ hj'] at ha
    rw [List.mem_singleton] at hin
    rw [← hin]
    exact cells_mem_stackCells s (by omega) ha
  · exact (hpushed.trans hentered).mono fun a ha => by
      rcases List.mem_append.mp ha with h | h
      · exact List.mem_cons_of_mem _ h
      · rw [List.mem_singleton] at h
        exact h ▸ List.mem_cons_self

/-! ### Far JMP and CALL in protected mode (44 R408-R417) -/

/-- The transfer to a code segment on the same level: the room CALL needs, the offset, the entry. -/
def enterFar (s : State) (calls : Bool) (d : Desc) (sel off : Word) : Exe State :=
  (if calls then s.stackRoom 2 else .ok ()) >>= fun _ => ensure (d.hasOffset off) (Exc.gp 0) >>= fun _ =>
  .ok ((if calls then s.yieldBus.pushList [s.cs.sel, s.ip] else s).enterCode d sel s.cpl off)

/-- The code segment a call gate may name, by the instruction. -/
def gateTestOf (s : State) (calls : Bool) : Desc → Bool := if calls then gateTest s.cpl else codeTest s.cpl

/-- What follows once the gate's code segment has been found. -/
def gateEnter (s : State) (calls : Bool) (g code : Desc) : Exe State :=
  if (!calls || (rightsConforming code.ar || decide (rightsDpl code.ar = s.cpl))) then
    enterFar s calls code g.word1 g.word0
  else s.callInner g code

/-- What a far transfer does once the descriptor has been read. -/
def farVia (s : State) (calls : Bool) (sel off : Word) (d : Desc) : Exe State :=
  match farKind d.ar with
  | .code => s.directCode d sel >>= fun _ => enterFar s calls d sel off
  | .callGate => s.gateUsable d sel >>= fun _ => s.afterBus fun s =>
      s.gateCode d (gateTestOf s calls) >>= fun code => gateEnter s calls d code
  | .taskGate => s.viaTaskGate d sel (if calls then .nest else .jump)
  | .tss => s.viaTss d sel (if calls then .nest else .jump)
  | .other => .error (.exc (Exc.gp (selCode sel false)))

theorem exec_farProt {s : State} {i : Instr} {calls : Bool} {off sel : Word} (h : s.FarForm i calls off sel)
    (hprot : s.prot = true) (hquiet : s.Quiet) :
    exec i s = complete s (s.farDesc sel >>= farVia s calls sel off) := by
  rw [exec_farForm h hquiet]
  have hvia : ∀ f : Desc → Exe State, (∀ d, f d = farVia s calls sel off d) →
      complete s (s.farDesc sel >>= f) = complete s (s.farDesc sel >>= farVia s calls sel off) := fun f hf => by
    rw [funext hf]
  cases calls
  · show complete s (s.jumpFar sel off) = _
    rw [State.jumpFar, if_pos hprot, complete_afterBus hquiet]
    refine hvia _ fun d => ?_
    rw [farVia]
    cases farKind d.ar <;> rfl
  · show complete s (s.callFar sel off) = _
    rw [State.callFar, if_pos hprot, complete_afterBus hquiet]
    refine hvia _ fun d => ?_
    rw [farVia]
    cases farKind d.ar <;> rfl

theorem farDesc_null {s : State} {sel : Word} (h : sel.toNat < 4) : s.farDesc sel = .error (.exc (Exc.gp 0)) := by
  rw [State.farDesc, selNull_true h]
  rfl

theorem farDesc_unnamed {s : State} {sel : Word} (h : 4 ≤ sel.toNat) (hnone : s.fetchDesc sel = none) :
    s.farDesc sel = .error (.exc (Exc.gp (sel &&& 0xFFFC#16))) := by
  rw [State.farDesc, selNull_false h, hnone, selCode_false]
  rfl

theorem farDesc_named {s : State} {sel : Word} {d : Desc} (h : s.Named sel d) : s.farDesc sel = .ok d := by
  rw [State.farDesc, selNull_false h.1, h.2]
  rfl

/-- The transfer through a descriptor that has been found. -/
theorem exec_farNamed {s : State} {i : Instr} {calls : Bool} {off sel : Word} (h : s.FarForm i calls off sel)
    (hprot : s.prot = true) (hquiet : s.Quiet) {d : Desc} (hd : s.Named sel d) :
    exec i s = complete s (farVia s calls sel off d) := by
  rw [exec_farProt h hprot hquiet, farDesc_named hd, exe_bind_ok]

theorem farKind_segment {ar : Byte} (hs : ar.getLsbD 4 = true) :
    farKind ar = if ar.getLsbD 3 = true then .code else .other := by
  rw [farKind, show rightsSegment ar = true from hs]
  rfl

theorem farKind_callGate {ar : Byte} (hs : ar.getLsbD 4 = false) (ht : ar.extractLsb' 0 4 = 4#4) :
    farKind ar = .callGate := by
  rw [farKind, show rightsSegment ar = false from hs, (type_eq_iff ar 4 (by norm_num)).mpr ht]
  rfl

theorem farKind_taskGate {ar : Byte} (hs : ar.getLsbD 4 = false) (ht : ar.extractLsb' 0 4 = 5#4) :
    farKind ar = .taskGate := by
  rw [farKind, show rightsSegment ar = false from hs, (type_eq_iff ar 5 (by norm_num)).mpr ht]
  rfl

theorem farKind_tss {ar : Byte} (hs : ar.getLsbD 4 = false)
    (ht : ar.extractLsb' 0 4 = 1#4 ∨ ar.extractLsb' 0 4 = 3#4) : farKind ar = .tss := by
  rw [farKind, show rightsSegment ar = false from hs]
  rcases ht with ht | ht
  · rw [(type_eq_iff ar 1 (by norm_num)).mpr ht]
    rfl
  · rw [(type_eq_iff ar 3 (by norm_num)).mpr ht]
    rfl

theorem farKind_other {ar : Byte} (hs : ar.getLsbD 4 = false) (ht : ar.extractLsb' 0 4 ∉ [1#4, 3#4, 4#4, 5#4]) :
    farKind ar = .other := by
  simp only [List.mem_cons, List.not_mem_nil, or_false, not_or] at ht
  obtain ⟨h1, h3, h4, h5⟩ := ht
  rw [farKind, show rightsSegment ar = false from hs]
  show (match rightsType ar with | 1 => _ | 3 => _ | 4 => _ | 5 => _ | _ => _ : FarKind) = _
  split
  case h_1 h => exact absurd ((type_eq_iff ar 1 (by norm_num)).mp h) h1
  case h_2 h => exact absurd ((type_eq_iff ar 3 (by norm_num)).mp h) h3
  case h_3 h => exact absurd ((type_eq_iff ar 4 (by norm_num)).mp h) h4
  case h_4 h => exact absurd ((type_eq_iff ar 5 (by norm_num)).mp h) h5
  case h_5 => rfl

/-- The three ways a transfer on the same level ends. -/
theorem enterFar_room {s : State} (hprot : s.prot = true) {calls : Bool} (hcalls : calls = true)
    (h : ¬ (s.writeFault .ss (s.regs.sp - 2) 2 = none ∧ s.writeFault .ss (s.regs.sp - 4) 2 = none)) (d : Desc)
    (sel off : Word) : Fails s (enterFar s calls d sel off) (Exc.ss 0) := by
  rw [enterFar, if_pos hcalls, stackRoom_fails hprot fun hnone => h ((pushFault_two_iff s _).mp hnone)]
  exact fails_exc s _

theorem enterFar_roomOk {s : State} {calls : Bool}
    (h : calls = true → s.writeFault .ss (s.regs.sp - 2) 2 = none ∧ s.writeFault .ss (s.regs.sp - 4) 2 = none)
    (d : Desc) (sel off : Word) : enterFar s calls d sel off =
      (ensure (d.hasOffset off) (Exc.gp 0) >>= fun _ =>
        .ok ((if calls then s.yieldBus.pushList [s.cs.sel, s.ip] else s).enterCode d sel s.cpl off)) := by
  have hroom : (if calls then s.stackRoom 2 else .ok () : Exe Unit) = .ok () := by
    split_ifs with hc
    · exact stackRoom_ok ((pushFault_two_iff s _).mpr (h hc))
    · rfl
  rw [enterFar, hroom]
  rfl

theorem enterFar_offset {s : State} {calls : Bool}
    (h : calls = true → s.writeFault .ss (s.regs.sp - 2) 2 = none ∧ s.writeFault .ss (s.regs.sp - 4) 2 = none)
    {d : Desc} (sel : Word) {off : Word} (hoff : d.word0.toNat < off.toNat) :
    Fails s (enterFar s calls d sel off) (Exc.gp 0) := by
  rw [enterFar_roomOk h]
  exact fails_ensure s (decide_eq_false (Nat.not_le.mpr hoff)) _ _

theorem enterFar_ok {s : State} (hquiet : s.Quiet) {calls : Bool}
    (h : calls = true → s.writeFault .ss (s.regs.sp - 2) 2 = none ∧ s.writeFault .ss (s.regs.sp - 4) 2 = none)
    {d : Desc} (sel : Word) {off : Word} (hoff : off.toNat ≤ d.word0.toNat) :
    enterFar s calls d sel off =
      .ok ((if calls then s.pushList [s.cs.sel, s.ip] else s).enterCode d sel s.cpl off) := by
  rw [enterFar_roomOk h, ensure_bind (c := d.hasOffset off) (decide_eq_true hoff), State.yieldBus_quiet hquiet]

/-- What a far JMP leaves. -/
theorem jumped_spec {s : State} {d : Desc} (hdesc : s.byteAt (d.addr + 5) = d.ar) (sel : Word) (level : Nat)
    (off : Word) :
    let t := s.enterCode d sel level off
    t = { s.at off with cs := d.cached (withLevel sel level), mem := t.mem, writes := t.writes } ∧
      t.byteAt (d.addr + 5) = d.ar ||| 1#8 ∧ s.MemoryKept t [s.physAddr (d.addr + 5)] :=
  ⟨enterCode_eq s d sel level off, (loadSeg_byteAt_self s .cs d _).trans (by rw [hdesc]),
    enterCode_kept s d sel level off⟩

/-- What a far CALL leaves. -/
theorem called_spec {s : State} (hquiet : s.Quiet) {d : Desc} (hdesc : s.byteAt (d.addr + 5) = d.ar) (sel : Word)
    (level : Nat) (off : Word) :
    let t := (s.pushList [s.cs.sel, s.ip]).enterCode d sel level off
    t = { s.at off with
          cs := d.cached (withLevel sel level), regs := s.regs.set .sp (s.regs.sp - 4)
          mem := t.mem, writes := t.writes } ∧
      (t.byteAt (d.addr + 5)).getLsbD 0 = true ∧
      (s.physAddr (d.addr + 5) ∉ s.stackCells (s.regs.sp - 4) 2 →
        t.byteAt (d.addr + 5) = d.ar ||| 1#8 ∧
        (s.LowDecoded →
          t.load .word s.ss (s.regs.sp - 2) = s.cs.sel ∧ t.load .word s.ss (s.regs.sp - 4) = s.ip)) ∧
      s.MemoryKept t (s.physAddr (d.addr + 5) :: s.stackCells (s.regs.sp - 4) 2) := by
  intro t
  obtain ⟨ht, hbit, hout, hkept⟩ := pushEnter_spec hquiet [s.cs.sel, s.ip] (by norm_num) hdesc sel level off
  refine ⟨ht, hbit, fun h => ?_, hkept⟩
  obtain ⟨hbyte, hwords⟩ := hout h
  refine ⟨hbyte, fun hd => ⟨?_, ?_⟩⟩
  · simpa using hwords hd 0 s.cs.sel rfl
  · have hsecond := hwords hd 1 s.ip rfl
    rwa [sub_two_mul] at hsecond

theorem directTest_iff {ar : Byte} (hcode : ar.getLsbD 3 = true) (cpl : Nat) (sel : Word) (d : Desc) (hd : d.ar = ar) :
    directTest cpl sel d = true ↔
      if ar.getLsbD 2 = true then rightsDpl ar ≤ cpl else sel.toNat % 4 ≤ cpl ∧ rightsDpl ar = cpl := by
  subst hd
  have hconf : rightsConforming d.ar = d.ar.getLsbD 2 := by
    rw [rightsConforming, show rightsCode d.ar = true from hcode, Bool.true_and]
  rw [directTest, hconf]
  split_ifs
  · exact decide_eq_true_iff
  · rw [Bool.and_eq_true, decide_eq_true_iff, decide_eq_true_iff]
    rfl

/-- Settles O32: the checks in the listing's order, then the entry. -/
theorem farTransferProtected : Obligations.FarTransferProtected := by
  unfold Obligations.FarTransferProtected
  intro i calls off sel s hform hprot hquiet
  have hexec := exec_farProt hform hprot hquiet
  refine ⟨fun hnull => ?_, fun hsel hnone => ?_, fun d hd hs ht => ?_, fun d hd hs => ?_⟩
  · rw [hexec, farDesc_null hnull]
    exact complete_gp s _
  · rw [hexec, farDesc_unnamed hsel hnone]
    exact complete_gp s _
  · rw [exec_farNamed hform hprot hquiet hd, farVia, farKind_other hs ht, selCode_false]
    exact complete_gp s _
  · intro allowed room
    have hexec := exec_farNamed hform hprot hquiet hd
    have hdesc := fetchDesc_ar hd.2
    have hvia : d.ar.getLsbD 3 = true →
        exec i s = complete s (s.directCode d sel >>= fun _ => enterFar s calls d sel off) := fun hcode => by
      rw [hexec, farVia, farKind_segment hs, if_pos hcode]
    have hdirect : d.ar.getLsbD 3 = true → (directTest s.cpl sel d = true ↔ allowed) := fun hcode =>
      directTest_iff hcode s.cpl sel d rfl
    have henter : d.ar.getLsbD 3 = true → allowed → d.ar.getLsbD 7 = true →
        exec i s = complete s (enterFar s calls d sel off) := fun hcode hallowed hp => by
      rw [hvia hcode, State.directCode, ensure_bind ((hdirect hcode).mpr hallowed),
        show ensure (rightsPresent d.ar) (Exc.np (selCode sel false)) = .ok () by rw [rightsPresent, hp]; rfl]
      rfl
    refine ⟨fun hdata => ?_, fun hcode hnot => ?_, fun hcode hallowed hp => ?_, fun hcode hallowed hp => ?_⟩
    · rw [hexec, farVia, farKind_segment hs, if_neg (Bool.eq_false_iff.mp hdata), selCode_false]
      exact complete_gp s _
    · have hfalse : directTest s.cpl sel d = false := Bool.eq_false_iff.mpr fun h => hnot ((hdirect hcode).mp h)
      rw [hvia hcode, State.directCode, selCode_false]
      exact ((fails_ensure s hfalse _ _).bind _).complete (gp_vector _)
    · rw [hvia hcode, State.directCode, ensure_bind ((hdirect hcode).mpr hallowed), selCode_false,
        show ensure (rightsPresent d.ar) (Exc.np (sel &&& 0xFFFC#16)) = .error (.exc (Exc.np (sel &&& 0xFFFC#16))) by
          rw [rightsPresent, hp]; rfl]
      rfl
    · have hexec := henter hcode hallowed hp
      refine ⟨fun hc hroom => ?_, fun hroom hoff => ?_, fun hc hoff => ?_, fun hc hroom hoff => ?_⟩
      · rw [hexec]
        exact (enterFar_room hprot hc hroom d sel off).complete (ss_vector _)
      · rw [hexec]
        exact (enterFar_offset hroom sel hoff).complete (gp_vector _)
      · subst hc
        rw [enterFar_ok hquiet (calls := false) (fun h => Bool.noConfusion h) sel hoff] at hexec
        exact ⟨_, hexec, jumped_spec hdesc sel s.cpl off⟩
      · subst hc
        rw [enterFar_ok hquiet (fun _ => hroom) sel hoff] at hexec
        exact ⟨_, hexec, called_spec hquiet hdesc sel s.cpl off⟩

/-! ### Call gates to the same level (44 R412, R417) -/

theorem gateUsable_ok {s : State} {g : Desc} {sel : Word}
    (h : s.cpl ≤ rightsDpl g.ar ∧ sel.toNat % 4 ≤ rightsDpl g.ar) (hp : g.ar.getLsbD 7 = true) :
    s.gateUsable g sel = .ok () := by
  rw [State.gateUsable, ensure_bind (by rw [decide_eq_true h.1]; exact decide_eq_true h.2), rightsPresent, hp]
  rfl

theorem gateUsable_denied {s : State} {g : Desc} {sel : Word}
    (h : ¬ (s.cpl ≤ rightsDpl g.ar ∧ sel.toNat % 4 ≤ rightsDpl g.ar)) :
    Fails s (s.gateUsable g sel) (Exc.gp (sel &&& 0xFFFC#16)) := by
  rw [State.gateUsable, selCode_false]
  refine fails_ensure s ?_ _ _
  rw [Bool.eq_false_iff, ne_eq, Bool.and_eq_true, decide_eq_true_iff, decide_eq_true_iff]
  exact h

theorem gateUsable_absent {s : State} {g : Desc} {sel : Word}
    (h : s.cpl ≤ rightsDpl g.ar ∧ sel.toNat % 4 ≤ rightsDpl g.ar) (hp : g.ar.getLsbD 7 = false) :
    Fails s (s.gateUsable g sel) (Exc.np (sel &&& 0xFFFC#16)) := by
  rw [State.gateUsable, ensure_bind (by rw [decide_eq_true h.1]; exact decide_eq_true h.2), selCode_false,
    rightsPresent, hp]
  exact fails_exc s _

theorem gateTestOf_iff (s : State) (calls : Bool) (d : Desc) :
    gateTestOf s calls d = true ↔ (d.ar.getLsbD 4 = true ∧ d.ar.getLsbD 3 = true) ∧ rightsDpl d.ar ≤ s.cpl ∧
      (calls = false → d.ar.getLsbD 2 = true ∨ rightsDpl d.ar = s.cpl) := by
  cases calls
  · show codeTest s.cpl d = true ↔ _
    rw [codeTest_iff, Desc.CodeFits, and_assoc]
    refine and_congr_right fun _ => and_congr_right fun _ => ?_
    split_ifs with hconf
    · exact ⟨fun h => ⟨h, fun _ => .inl hconf⟩, fun h => h.1⟩
    · exact ⟨fun h => ⟨h.le, fun _ => .inr h⟩, fun h => (h.2 rfl).resolve_left hconf⟩
  · show gateTest s.cpl d = true ↔ _
    rw [gateTest, Bool.and_eq_true, Bool.and_eq_true, decide_eq_true_iff]
    exact and_congr_right fun _ => ⟨fun h => ⟨h, nofun⟩, fun h => h.1⟩

theorem orExc_bad {α : Type} (s : State) {m : Except SelError α} (h : m = .error .bad) (e₁ e₂ : Exc) :
    Fails s (orExc m e₁ e₂) e₁ := by
  rw [h]
  exact .inl rfl

theorem orExc_absent {α : Type} (s : State) {m : Except SelError α} (h : m = .error .absent) (e₁ e₂ : Exc) :
    Fails s (orExc m e₁ e₂) e₂ := by
  rw [h]
  exact .inl rfl

theorem orExc_ok {α : Type} {m : Except SelError α} {a : α} (h : m = .ok a) (e₁ e₂ : Exc) : orExc m e₁ e₂ = .ok a := by
  rw [h]
  rfl

/-- The gate's selector, once it is not null. -/
theorem gateCode_named {s : State} {g : Desc} (h : 4 ≤ g.word1.toNat) (test : Desc → Bool) :
    s.gateCode g test = orExc (s.testSel g.word1 test) (Exc.gp (g.word1 &&& 0xFFFC#16))
      (Exc.np (g.word1 &&& 0xFFFC#16)) := by
  rw [State.gateCode, selNull_false h, selCode_false]
  rfl

/-- A transfer through a call gate that is usable and present. -/
theorem exec_throughGate {s : State} {i : Instr} {calls : Bool} {off sel : Word} (h : s.FarForm i calls off sel)
    (hprot : s.prot = true) (hquiet : s.Quiet) {gate : Desc} (hd : s.Named sel gate) (hs : gate.ar.getLsbD 4 = false)
    (ht : gate.ar.extractLsb' 0 4 = 4#4) (husable : s.cpl ≤ rightsDpl gate.ar ∧ sel.toNat % 4 ≤ rightsDpl gate.ar)
    (hp : gate.ar.getLsbD 7 = true) :
    exec i s = complete s (s.gateCode gate (gateTestOf s calls) >>= fun code => gateEnter s calls gate code) := by
  rw [exec_farNamed h hprot hquiet hd, farVia, farKind_callGate hs ht]
  dsimp only
  rw [gateUsable_ok husable hp, exe_bind_ok, complete_afterBus hquiet]

theorem gateEnter_same {s : State} {calls : Bool} {g code : Desc} (hcode : code.ar.getLsbD 3 = true)
    (h : code.ar.getLsbD 2 = true ∨ rightsDpl code.ar = s.cpl) :
    gateEnter s calls g code = enterFar s calls code g.word1 g.word0 := by
  refine if_pos ?_
  rw [Bool.or_eq_true, Bool.or_eq_true, rightsConforming_iff, decide_eq_true_iff]
  exact .inr (h.imp_left fun hconf => ⟨hcode, hconf⟩)

/-- Settles O34: the gate's checks, its target's, then the entry that O32 has without a gate. -/
theorem callGateToSameLevel : Obligations.CallGateToSameLevel := by
  unfold Obligations.CallGateToSameLevel
  intro i calls off sel gate s hform hprot hquiet hgate hs ht usable csSel wrong
  have hexec : exec i s = complete s (s.gateUsable gate sel >>= fun _ => s.afterBus fun s =>
      s.gateCode gate (gateTestOf s calls) >>= fun code => gateEnter s calls gate code) := by
    rw [exec_farNamed hform hprot hquiet hgate, farVia, farKind_callGate hs ht]
  refine ⟨fun hnot => ?_, fun husable hp => ?_, fun husable hp => ?_⟩
  · rw [hexec]
    exact ((gateUsable_denied hnot).bind _).complete (gp_vector _)
  · rw [hexec]
    exact ((gateUsable_absent husable hp).bind _).complete (np_vector _)
  · have hexec := exec_throughGate hform hprot hquiet hgate hs ht husable hp
    have hnamedCode := fun h : 4 ≤ csSel.toNat => gateCode_named (s := s) (g := gate) h (gateTestOf s calls)
    refine ⟨fun hnull => ?_, fun hsel hnone => ?_, fun code hcode => ?_⟩
    · rw [hexec, State.gateCode, selNull_true hnull]
      exact complete_gp s _
    · rw [hexec, hnamedCode hsel]
      exact ((orExc_bad s (testSel_unnamed (.inr hnone) _) _ _).bind _).complete (gp_vector _)
    · intro isCode same reached room
      have htest : gateTestOf s calls code = true ↔ isCode ∧ reached := gateTestOf_iff s calls code
      have hdesc := fetchDesc_ar hcode.2
      have hwrong : ¬ (isCode ∧ reached) → exec i s = wrong := fun hnot => by
        rw [hexec, hnamedCode hcode.1]
        exact ((orExc_bad s (testSel_wrong hcode fun h => hnot (htest.mp h)) _ _).bind _).complete (gp_vector _)
      refine ⟨fun hnot => hwrong fun h => hnot h.1, fun _ hnot => hwrong fun h => hnot h.2,
        fun hisCode hreached hp => ?_, fun hisCode hreached hsame hp => ?_⟩
      · rw [hexec, hnamedCode hcode.1]
        exact ((orExc_absent s (testSel_absent hcode (htest.mpr ⟨hisCode, hreached⟩) hp) _ _).bind _).complete
          (np_vector _)
      · have hexec : exec i s = complete s (enterFar s calls code csSel gate.word0) := by
          rw [hexec, hnamedCode hcode.1, orExc_ok (testSel_found hcode (htest.mpr ⟨hisCode, hreached⟩) hp), exe_bind_ok,
            gateEnter_same hisCode.2 hsame]
        refine ⟨fun hc hroom => ?_, fun hroom hoff => ?_, fun hc hoff => ?_, fun hc hroom hoff => ?_⟩
        · rw [hexec]
          exact (enterFar_room hprot hc hroom code csSel _).complete (ss_vector _)
        · rw [hexec]
          exact (enterFar_offset hroom csSel hoff).complete (gp_vector _)
        · subst hc
          rw [enterFar_ok hquiet (calls := false) (fun h => Bool.noConfusion h) csSel hoff] at hexec
          exact ⟨_, hexec, jumped_spec hdesc csSel s.cpl _⟩
        · subst hc
          rw [enterFar_ok hquiet (fun _ => hroom) csSel hoff] at hexec
          obtain ⟨ht, -, hout, hkept⟩ := called_spec hquiet hdesc csSel s.cpl gate.word0
          exact ⟨_, hexec, ht, hout, hkept⟩

end Sys2Proof.Proofs.Other
end

section
/-! Interrupts: their entry in real mode, through gates on the same level, their failed deliveries. -/

namespace Sys2Proof.Proofs.Other

open Sys2Proof Sys2Proof.Machine

set_option Elab.async false

/-! ### The two sources of a delivery -/

theorem exec_softInt {s : State} {i : Instr} {v : Byte} (h : s.SoftInt i v) :
    exec i s = complete s (s.deliver (Event.software v) s.ip) := by
  rcases h with rfl | ⟨rfl, rfl⟩ | ⟨rfl, rfl, hof⟩
  · rfl
  · rfl
  · exact if_pos hof

/-- A fault of the delivery itself is what `DeliveryFails` names. -/
theorem deliveryFails_of {s : State} {ev : Event} {ra : Word} {e : Exc} (h : ∀ ra, Fails s (s.deliver ev ra) e)
    (he : e.vector ≠ 16) : s.DeliveryFails ev ra e := by
  refine ⟨h ra, fun hsoft i hi => ?_⟩
  rw [exec_softInt hi, ← hsoft]
  exact (h s.ip).complete he

theorem raise_ok {s : State} (hquiet : s.Quiet) {ev : Event} {ra : Word} {t : State} (h : s.deliver ev ra = .ok t) :
    raise ev ra s = .next t.taken := by
  rw [raise, State.yieldBus_quiet hquiet, h]

/-- The state an interrupt leaves: an exception or an external event ends the instruction in progress. -/
def arrive (soft : Bool) (t : State) : State :=
  { t with inst := { t.inst with active := if soft then t.inst.active else false } }

theorem arrive_active {s t : State} (h : t.inst = s.inst) (soft : Bool) :
    (arrive soft t).inst.active = if soft then s.inst.active else false := by
  rw [← h]
  rfl

theorem entry_next {s : State} {a : Answer} {v : Byte} {code : Option Word} {ra : Word} {soft nmi : Bool}
    (he : s.Entry a v code ra soft nmi) (hquiet : s.Quiet) {t : State}
    (h : ∀ ext, s.deliver { vector := v, code := code, ext := ext, soft := soft, nmi := nmi } ra = .ok t) :
    a = .next (arrive soft t) := by
  rcases he with ⟨rfl, rfl, rfl, rfl, i, hi, rfl⟩ | ⟨rfl, ext, rfl⟩
  · rw [exec_softInt hi, show s.deliver (Event.software v) s.ip = .ok t from h false]
    rfl
  · exact raise_ok hquiet (h ext)

/-! ### Real mode (60 R561) -/

theorem deliver_real {s : State} (hreal : s.prot = false) (ev : Event) (ra : Word) :
    s.deliver ev ra = s.deliverReal ev ra := if_neg (Bool.eq_false_iff.mp hreal)

theorem realPushWraps_iff (s : State) : s.realPushWraps = true ↔ s.regs.sp = 1 ∨ s.regs.sp = 3 ∨ s.regs.sp = 5 := by
  rw [State.realPushWraps, Bool.or_eq_true, Bool.or_eq_true, beq_iff_eq, beq_iff_eq, beq_iff_eq, or_assoc]
  refine or_congr ?_ (or_congr ?_ ?_) <;> constructor <;> intro h <;> bv_omega

/-- The entry taken in real mode. -/
def enteredReal (s : State) (v : Byte) (ra : Word) : State :=
  let t := (s.pushList [s.flagImage, s.cs.sel, ra]).setFlags (s.flags.enter true false)
  t.enterReal (t.wordAt (t.idtr.base.toNat + 4 * v.toNat + 2)) (t.wordAt (t.idtr.base.toNat + 4 * v.toNat))

theorem deliverReal_ok {s : State} (hreal : s.prot = false) (hquiet : s.Quiet) (ev : Event) (ra : Word)
    (hlimit : 4 * ev.vector.toNat + 3 ≤ s.idtr.limit.toNat) (hsp : ¬ s.realPushWraps = true) :
    s.deliver ev ra = .ok (enteredReal s ev.vector ra) := by
  have hflags : ∀ f, ((s.pushList [s.flagImage, s.cs.sel, ra]).setFlags f).Quiet :=
    fun _ => State.pushList_quiet hquiet [s.flagImage, s.cs.sel, ra]
  rw [deliver_real hreal, State.deliverReal, if_neg (Nat.not_lt.mpr hlimit), if_neg hsp]
  dsimp only
  rw [State.yieldBus_quiet (hflags _)]
  rfl

theorem deliverReal_wraps {s : State} (hreal : s.prot = false) (ev : Event) (ra : Word)
    (hlimit : 4 * ev.vector.toNat + 3 ≤ s.idtr.limit.toNat) (hsp : s.realPushWraps = true) :
    s.deliver ev ra = .error (.shutdown s) := by
  rw [deliver_real hreal, State.deliverReal, if_neg (Nat.not_lt.mpr hlimit), if_pos hsp]

theorem deliverReal_beyond {s : State} (hreal : s.prot = false) (ev : Event) (ra : Word)
    (hlimit : s.idtr.limit.toNat < 4 * ev.vector.toNat + 3) :
    (ev.vector = 8 ∨ ev.vector = 13 → s.deliver ev ra = .error (.shutdown s)) ∧
    (ev.vector ≠ 8 → ev.vector ≠ 13 → s.deliver ev ra = .error (.exc Exc.tableLimit)) := by
  have hvector : ∀ n : Nat, n < 256 → (ev.vector = BitVec.ofNat 8 n ↔ ev.vector.toNat = n) := fun n hn => by
    rw [← BitVec.toNat_inj, BitVec.toNat_ofNat, Nat.mod_eq_of_lt hn]
  have h8 := hvector 8 (by norm_num)
  have h13 := hvector 13 (by norm_num)
  rw [deliver_real hreal, State.deliverReal, if_pos hlimit]
  exact ⟨fun h => if_pos (h.imp h8.mp h13.mp), fun hne8 hne13 =>
    if_neg fun h => h.elim (fun h => hne8 (h8.mpr h)) fun h => hne13 (h13.mpr h)⟩

/-- What an entry in real mode leaves. -/
theorem enteredReal_spec {s : State} (hquiet : s.Quiet) (v : Byte) (ra : Word) :
    let t := enteredReal s v ra
    t = { s.at t.ip with
          cs := t.cs, regs := s.regs.set .sp (s.regs.sp - 6), flags := { s.flags with tf := false, ifl := false }
          mem := t.mem, writes := t.writes } ∧
      t.ip = t.wordAt (s.idtr.base.toNat + 4 * v.toNat) ∧
      t.cs.RealLoad (t.wordAt (s.idtr.base.toNat + 4 * v.toNat + 2)) ∧
      (s.LowDecoded →
        t.load .word s.ss (s.regs.sp - 2) = s.flagImage ∧ t.load .word s.ss (s.regs.sp - 4) = s.cs.sel ∧
        t.load .word s.ss (s.regs.sp - 6) = ra) ∧
      s.MemoryKept t (s.stackCells (s.regs.sp - 6) 3) := by
  intro t
  let p := s.pushList [s.flagImage, s.cs.sel, ra]
  have hidtr : p.idtr = s.idtr := by simp [p]
  have hflags : s.flags.enter true false = { s.flags with tf := false, ifl := false } := by simp [Flags.enter]
  have hload : ∀ g o, t.load .word g o = p.load .word g o := fun _ _ => rfl
  refine ⟨?_, ?_, ?_, fun hd => ?_, State.pushList_kept [s.flagImage, s.cs.sel, ra] s hquiet⟩
  · rw [← hflags]
    exact congrArg (fun u : State => ({ u with
      ip := t.ip, cs := t.cs, flags := s.flags.enter true false, fetch := FetchState.empty } : State))
      (pushList_eq hquiet [s.flagImage, s.cs.sel, ra])
  · rw [← hidtr]
    rfl
  · rw [← hidtr]
    exact realLoad_ofReal _
  · have hword := fun j w => State.pushList_words hquiet hd [s.flagImage, s.cs.sel, ra] (by norm_num) j w
    have h₀ := hword 0 _ rfl
    have h₁ := hword 1 _ rfl
    have h₂ := hword 2 _ rfl
    rw [sub_two_mul] at h₁ h₂
    rw [hload, hload, hload]
    exact ⟨by simpa using h₀, h₁, h₂⟩

/-- The vector that takes the place of an event that failed, delivered beyond the table too, shuts down. -/
theorem raiseDouble_beyond {s : State} (hreal : s.prot = false) (hquiet : s.Quiet) (ev : Event) (ra : Word)
    (hlimit : s.idtr.limit.toNat < 4 * 8 + 3) : raiseDouble ev ra s = .next s.shutDown.taken := by
  rw [raiseDouble, State.yieldBus_quiet hquiet, (deliverReal_beyond hreal ev.double ra hlimit).1 (.inl rfl)]

theorem raise_shutdown {s : State} (hquiet : s.Quiet) {ev : Event} {ra : Word} {t : State}
    (h : s.deliver ev ra = .error (.shutdown t)) : raise ev ra s = .next t.shutDown.taken := by
  rw [raise, State.yieldBus_quiet hquiet, h]

/-- Settles O37: the push list, the flags, the entry of the table; else the shutdowns. -/
theorem interruptReal : Obligations.InterruptReal := by
  unfold Obligations.InterruptReal
  refine ⟨fun a v code ra soft nmi s he hreal hquiet hlimit => ?_, fun i v s hi hreal hlimit => ?_,
    fun s hof => if_neg (Bool.eq_false_iff.mp hof)⟩
  · intro sp
    refine ⟨fun h1 h3 h5 => ?_, fun hwrap => ?_⟩
    · have hsp : ¬ s.realPushWraps = true := fun h => ((realPushWraps_iff s).mp h).elim h1 fun h => h.elim h3 h5
      have ha := entry_next he hquiet (t := enteredReal s v ra) fun ext => deliverReal_ok hreal hquiet _ ra hlimit hsp
      obtain ⟨ht, hip, hcs, hload, hkept⟩ := enteredReal_spec hquiet v ra
      have hactive := arrive_active (congrArg State.inst ht) soft
      refine ⟨_, _, ha, (congrArg (arrive soft) ht).trans ?_, hactive, hip, hcs, hload, hkept⟩
      rw [hactive]
      rfl
    · have hsp := (realPushWraps_iff s).mpr hwrap
      rcases he with ⟨rfl, rfl, rfl, rfl, i, hi, rfl⟩ | ⟨rfl, ext, rfl⟩
      · rw [exec_softInt hi, deliverReal_wraps hreal _ _ hlimit hsp]
        rfl
      · exact raise_shutdown hquiet (deliverReal_wraps hreal _ _ hlimit hsp)
  · obtain ⟨hdown, htable⟩ := deliverReal_beyond hreal (Event.software v) s.ip hlimit
    rw [exec_softInt hi]
    refine ⟨fun hv => ?_, fun h8 h13 => ⟨?_, fun hquiet hlimit8 => ?_⟩⟩
    · rw [hdown hv]
      rfl
    · rw [htable h8 h13]
      rfl
    · have hvector : Exc.tableLimit.event.vector.toNat = 8 := rfl
      rw [← hvector] at hlimit8
      obtain ⟨hfails, -⟩ := deliverReal_beyond (s := s.unlocked) hreal Exc.tableLimit.event s.inst.ipInst hlimit8
      rw [htable h8 h13]
      exact raise_shutdown (s := s.unlocked) hquiet (hfails (.inl rfl))

/-! ### Protected mode: the gate (60 R548, R560) -/

theorem idtCode_eq (ev : Event) : ev.idtCode = BitVec.ofNat 16 (8 * ev.vector.toNat + 2 + ev.ext.toNat) := by
  have hbit : ∀ x : Word, x + 2 + extCode ev.ext = x + 2 + BitVec.ofNat 16 ev.ext.toNat := fun x => by
    cases ev.ext <;> rfl
  have hv := ev.vector.isLt
  have he := Bool.toNat_le ev.ext
  have h8 : (8 : Word).toNat = 8 := rfl
  have h2 : (2 : Word).toNat = 2 := rfl
  rw [Event.idtCode, hbit]
  apply BitVec.eq_of_toNat_eq
  simp only [zeroExtend, BitVec.toNat_add, BitVec.toNat_mul, BitVec.toNat_setWidth, BitVec.toNat_ofNat, h8, h2]
  omega

theorem deliver_prot {s : State} (hprot : s.prot = true) (ev : Event) (ra : Word) :
    s.deliver ev ra = s.deliverProt ev ra := if_pos hprot

theorem deliver_beyond {s : State} (hprot : s.prot = true) (ev : Event) (ra : Word)
    (hlimit : s.idtr.limit.toNat < 8 * ev.vector.toNat + 7) : Fails s (s.deliver ev ra) (Exc.gp ev.idtCode) := by
  rw [deliver_prot hprot, State.deliverProt]
  exact fails_ensure s (decide_eq_false (Nat.not_le.mpr hlimit)) _ _

/-- A descriptor's type is one of an interrupt table's gates. -/
def IsIdtGate (ar : Byte) : Prop :=
  ar.getLsbD 4 = false ∧ (ar.extractLsb' 0 4 = 5#4 ∨ ar.extractLsb' 0 4 = 6#4 ∨ ar.extractLsb' 0 4 = 7#4)

theorem isIdtGate_iff (ar : Byte) :
    (!rightsSegment ar && (rightsType ar == 5 || rightsType ar == 6 || rightsType ar == 7)) = true ↔ IsIdtGate ar := by
  rw [Bool.and_eq_true, Bool.not_eq_true', Bool.or_eq_true, Bool.or_eq_true, beq_iff_eq, beq_iff_eq, beq_iff_eq,
    type_eq_iff ar 5 (by norm_num), type_eq_iff ar 6 (by norm_num), type_eq_iff ar 7 (by norm_num), or_assoc]
  rfl

/-- An entry of the table that is a gate its source may use. -/
structure UsableGate (s : State) (ev : Event) (gate : Desc) : Prop where
  found : gate = s.descAt (s.idtr.base.toNat + 8 * ev.vector.toNat)
  inTable : 8 * ev.vector.toNat + 7 ≤ s.idtr.limit.toNat
  kind : IsIdtGate gate.ar
  mayUse : ev.soft = true → s.cpl ≤ rightsDpl gate.ar

section
variable {s : State} {ev : Event} {gate : Desc} (ra : Word)

theorem deliver_kind (hprot : s.prot = true) (hlimit : 8 * ev.vector.toNat + 7 ≤ s.idtr.limit.toNat)
    (hkind : ¬ IsIdtGate (s.descAt (s.idtr.base.toNat + 8 * ev.vector.toNat)).ar) :
    Fails s (s.deliver ev ra) (Exc.gp ev.idtCode) := by
  rw [deliver_prot hprot, State.deliverProt]
  dsimp only
  rw [ensure_bind (decide_eq_true hlimit)]
  exact fails_ensure s (Bool.eq_false_iff.mpr fun h => hkind ((isIdtGate_iff _).mp h)) _ _

theorem deliver_denied (hprot : s.prot = true) (hlimit : 8 * ev.vector.toNat + 7 ≤ s.idtr.limit.toNat)
    (hkind : IsIdtGate (s.descAt (s.idtr.base.toNat + 8 * ev.vector.toNat)).ar)
    (hdenied : ¬ (ev.soft = true → s.cpl ≤ rightsDpl (s.descAt (s.idtr.base.toNat + 8 * ev.vector.toNat)).ar)) :
    Fails s (s.deliver ev ra) (Exc.gp ev.idtCode) := by
  rw [deliver_prot hprot, State.deliverProt]
  dsimp only
  rw [ensure_bind (decide_eq_true hlimit), ensure_bind ((isIdtGate_iff _).mpr hkind)]
  refine fails_ensure s (Bool.eq_false_iff.mpr fun h => hdenied fun hsoft => ?_) _ _
  rw [hsoft] at h
  exact of_decide_eq_true h

/-- What is left once the gate has been found usable: its presence, then the way of its type. -/
theorem deliver_usable (hprot : s.prot = true) (h : UsableGate s ev gate) :
    s.deliver ev ra = ensure (rightsPresent gate.ar) (Exc.np ev.idtCode) >>= fun _ =>
      if (rightsType gate.ar == 5) = true then s.deliverTask ev ra gate
      else s.deliverGate ev ra gate (rightsType gate.ar == 6 || ev.nmi) := by
  obtain ⟨rfl, hlimit, hkind, hmay⟩ := h
  have hmay' : (!ev.soft ||
      decide (s.cpl ≤ rightsDpl (s.descAt (s.idtr.base.toNat + 8 * ev.vector.toNat)).ar)) = true := by
    cases hsoft : ev.soft
    · rfl
    · exact decide_eq_true (hmay hsoft)
  rw [deliver_prot hprot, State.deliverProt]
  dsimp only
  rw [ensure_bind (decide_eq_true hlimit), ensure_bind ((isIdtGate_iff _).mpr hkind), ensure_bind hmay']

theorem deliver_absent (hprot : s.prot = true) (h : UsableGate s ev gate) (hp : gate.ar.getLsbD 7 = false) :
    Fails s (s.deliver ev ra) (Exc.np ev.idtCode) := by
  rw [deliver_usable ra hprot h]
  exact fails_ensure s hp _ _

/-- Whether the flag IF is cleared by the entry. -/
def clearsIf (ev : Event) (gate : Desc) : Bool := rightsType gate.ar == 6 || ev.nmi

/-- An interrupt or trap gate in use, present (not a task gate). -/
theorem deliver_gate (hprot : s.prot = true) (h : UsableGate s ev gate) (hp : gate.ar.getLsbD 7 = true)
    (htype : gate.ar.extractLsb' 0 4 ≠ 5#4) :
    s.deliver ev ra = s.deliverGate ev ra gate (clearsIf ev gate) := by
  rw [deliver_usable ra hprot h, ensure_bind (c := rightsPresent gate.ar) hp, if_neg]
  · rfl
  · rw [beq_iff_eq, type_eq_iff gate.ar 5 (by norm_num)]
    exact htype

end

/-! ### Protected mode: the gate's target (60 R560) -/

theorem isCode_iff (d : Desc) :
    (rightsSegment d.ar && rightsCode d.ar) = true ↔ d.ar.getLsbD 4 = true ∧ d.ar.getLsbD 3 = true := by
  rw [Bool.and_eq_true]
  rfl

section
variable {s : State} (hquiet : s.Quiet) (ev : Event) (ra : Word) {gate : Desc} (clearIf : Bool)
include hquiet

theorem deliverGate_null (h : gate.word1.toNat < 4) :
    Fails s (s.deliverGate ev ra gate clearIf) (Exc.gp (errorCode 0 ev.ext)) := by
  rw [State.deliverGate, ← errorCode_null]
  refine fails_afterBus hquiet (fails_ensure s ?_ _ _)
  rw [selNull_true h]
  rfl

/-- A selector that is not null but is not that of a code segment. -/
theorem deliverGate_bad (hsel : 4 ≤ gate.word1.toNat)
    (h : s.testSel gate.word1 (fun d => rightsSegment d.ar && rightsCode d.ar) = .error .bad) :
    Fails s (s.deliverGate ev ra gate clearIf) (Exc.gp (errorCode gate.word1 ev.ext)) := by
  rw [State.deliverGate, ← errorCode_eq]
  refine fails_afterBus hquiet ?_
  dsimp only
  rw [ensure_bind (by rw [selNull_false hsel]; rfl)]
  exact (orExc_bad s h _ _).bind _

variable {code : Desc} (hcode : s.Named gate.word1 code)
include hcode

theorem deliverGate_absent (h : code.ar.getLsbD 4 = true ∧ code.ar.getLsbD 3 = true) (hp : code.ar.getLsbD 7 = false) :
    Fails s (s.deliverGate ev ra gate clearIf) (Exc.np (errorCode gate.word1 ev.ext)) := by
  rw [State.deliverGate, ← errorCode_eq]
  refine fails_afterBus hquiet ?_
  dsimp only
  rw [ensure_bind (by rw [selNull_false hcode.1]; rfl)]
  exact (orExc_absent s (testSel_absent hcode ((isCode_iff code).mpr h) hp) _ _).bind _

/-- The three ways on from a present code segment, by its level. -/
theorem deliverGate_found (h : code.ar.getLsbD 4 = true ∧ code.ar.getLsbD 3 = true) (hp : code.ar.getLsbD 7 = true) :
    s.deliverGate ev ra gate clearIf = s.afterBus fun s =>
      if (!rightsConforming code.ar && decide (rightsDpl code.ar < s.cpl)) = true then
        s.deliverInner ev ra gate code gate.word1 clearIf
      else if (rightsConforming code.ar || decide (rightsDpl code.ar = s.cpl)) = true then
        s.deliverSame ev ra gate code gate.word1 clearIf
      else .error (.exc (Exc.gp (selCode gate.word1 ev.ext))) := by
  rw [State.deliverGate, State.afterBus, State.afterBus, State.afterReads_quiet hquiet, State.afterReads_quiet hquiet]
  dsimp only
  rw [ensure_bind (by rw [selNull_false hcode.1]; rfl), orExc_ok (testSel_found hcode ((isCode_iff code).mpr h) hp)]
  rfl

end

/-- Settles O40: the checks of the gate and of its target in the listing's order. -/
theorem interruptGateFaults : Obligations.InterruptGateFaults := by
  unfold Obligations.InterruptGateFaults
  intro ev ra s hprot hquiet v fails bad gate type kind mayUse sel wrong
  have hbad : bad = ev.idtCode := (idtCode_eq ev).symm
  rw [hbad]
  refine ⟨fun hlimit => deliveryFails_of (deliver_beyond hprot ev · hlimit) (gp_vector _),
    fun hlimit => ⟨fun hkind => ?_, fun hkind hmay => ?_, fun hkind hmay hp => ?_, fun hkind hmay hp htype => ?_⟩⟩
  · exact deliveryFails_of (deliver_kind · hprot hlimit hkind) (gp_vector _)
  · exact deliveryFails_of (deliver_denied · hprot hlimit hkind hmay) (gp_vector _)
  · exact deliveryFails_of (deliver_absent · hprot ⟨rfl, hlimit, hkind, hmay⟩ hp) (np_vector _)
  · have hgate : ∀ {e}, (∀ ra, Fails s (s.deliverGate ev ra gate (clearsIf ev gate)) e) → e.vector ≠ 16 → fails e :=
      fun h he => deliveryFails_of (fun ra => by
        rw [deliver_gate ra hprot ⟨rfl, hlimit, hkind, hmay⟩ hp htype]
        exact h ra) he
    refine ⟨fun hnull => ?_, fun hsel hnone => ?_, fun code hcode => ⟨fun hnot => ?_, fun his hp => ?_,
      fun his hp hconf hlevel => ?_⟩⟩
    · exact hgate (deliverGate_null hquiet ev · _ hnull) (gp_vector _)
    · exact hgate (deliverGate_bad hquiet ev · _ hsel (testSel_unnamed (.inr hnone) _)) (gp_vector _)
    · exact hgate (deliverGate_bad hquiet ev · _ hcode.1 (testSel_wrong hcode fun h => hnot ((isCode_iff code).mp h)))
        (gp_vector _)
    · exact hgate (deliverGate_absent hquiet ev · _ hcode his hp) (np_vector _)
    · refine hgate (fun ra => ?_) (gp_vector _)
      have hnotConf : rightsConforming code.ar = false := Bool.eq_false_iff.mpr fun h =>
        Bool.eq_false_iff.mp hconf ((rightsConforming_iff _).mp h).2
      rw [deliverGate_found hquiet ev ra _ hcode his hp]
      refine fails_afterBus hquiet ?_
      rw [hnotConf, decide_eq_false (by omega), decide_eq_false (by omega)]
      exact fails_exc s _

/-! ### Through a gate to the same level -/

theorem loadSeg_eq (s : State) (r : SReg) (d : Desc) (sel : Word) :
    s.loadSeg r d sel = { s.setSeg r (d.cached sel) with
      mem := (s.loadSeg r d sel).mem, writes := (s.loadSeg r d sel).writes, fetch := (s.loadSeg r d sel).fetch } := by
  rw [State.loadSeg, State.markAccessed, putByte_eq]
  rfl

theorem codeWords_length (ev : Event) : ev.codeWords.length = codeCount ev.code := by
  rw [Event.codeWords]
  cases ev.code <;> rfl

/-- Words pushed leave the words above them, SP wrapping through 0000H or not. -/
theorem pushList_load_over {s : State} (hquiet : s.Quiet) (hd : s.LowDecoded) (vs : List Word) (k : Nat)
    (hk : k + vs.length < 2 ^ 15) :
    (s.pushList vs).load .word s.ss (s.regs.sp + BitVec.ofNat 16 (2 * k)) =
      s.load .word s.ss (s.regs.sp + BitVec.ofNat 16 (2 * k)) := by
  have apart : ∀ j < vs.length, ∀ i < 2, ∀ b < 2,
      s.physAddr (s.translate s.ss (s.regs.sp + BitVec.ofNat 16 (2 * k)) + b) ≠
        s.physAddr (s.translate s.ss (s.regs.sp - BitVec.ofNat 16 (2 * vs.length) + BitVec.ofNat 16 (2 * j)) + i) := by
    intro j hj i hi b hb heq
    have hmod := s.physAddr_inj hd s.ss heq
    simp only [BitVec.toNat_add, BitVec.toNat_sub, BitVec.toNat_ofNat] at hmod
    omega
  refine State.load_kept (State.pushList_kept vs s hquiet) (by simp) .word s.ss _ fun a ha hin => ?_
  obtain ⟨j, hj, i, hi, rfl⟩ := (s.mem_stackCells a _ _).mp hin
  simp only [State.cells, List.mem_cons, List.not_mem_nil, or_false] at ha
  rcases ha with ha | ha
  · exact apart j hj i hi 0 (by norm_num) ha.symm
  · exact apart j hj i hi 1 (by norm_num) ha.symm

/-- Words pushed leave the n words pushed before them. -/
theorem pushList_keeps_pushed {s u : State} (hu : u.Quiet) (hd : u.LowDecoded) (hss : u.ss = s.ss) {n : Nat}
    (hsp : u.regs.sp = s.regs.sp - BitVec.ofNat 16 (2 * n)) (vs : List Word) {j : Nat} (hj : j < n)
    (hlen : n + vs.length ≤ 2 ^ 15) :
    (u.pushList vs).load .word s.ss (s.regs.sp - 2 - BitVec.ofNat 16 (2 * j)) =
      u.load .word s.ss (s.regs.sp - 2 - BitVec.ofNat 16 (2 * j)) := by
  rw [pushed_offset _ hj, ← hsp, ← hss, pushList_load_over hu hd vs (n - 1 - j) (by omega)]

/-- Some of the words from an offset up. -/
theorem stackCells_sub (s : State) {i m n : Nat} (h : i + m ≤ n) {off : Word} {a : Nat}
    (ha : a ∈ s.stackCells (off + BitVec.ofNat 16 (2 * i)) m) : a ∈ s.stackCells off n := by
  rw [State.mem_stackCells] at ha ⊢
  obtain ⟨j, hj, k, hk, rfl⟩ := ha
  refine ⟨i + j, by omega, k, hk, ?_⟩
  rw [BitVec.add_assoc, ← BitVec.ofNat_add, Nat.mul_add]

theorem codeCount_le (code : Option Word) : codeCount code ≤ 1 := by
  cases code
  · exact Nat.zero_le 1
  · exact le_refl 1

/-- The entry on the current stack. -/
def enteredSame (s : State) (ev : Event) (ra : Word) (gate code : Desc) (clearIf : Bool) : State :=
  let t := s.pushList [s.flagImage, s.cs.sel, ra]
  let t := (t.loadSeg .cs code (selWithRpl gate.word1 s.cpl)).pushList ev.codeWords
  (t.setFlags (s.flags.enter clearIf true)).jumpTo gate.word0

section
variable (s : State) (ev : Event) (ra : Word) (gate code : Desc) (clearIf : Bool)

theorem deliverSame_room
    (h : ¬ ∀ k < 3 + codeCount ev.code, s.writeFault .ss (s.regs.sp - 2 - BitVec.ofNat 16 (2 * k)) 2 = none) :
    Fails s (s.deliverSame ev ra gate code gate.word1 clearIf) (Exc.ss (errorCode 0 ev.ext)) := by
  rw [← pushFault_eq_none_iff, ← ne_eq, Option.ne_none_iff_exists'] at h
  obtain ⟨e, he⟩ := h
  rw [State.deliverSame, codeWords_length, he, ← errorCode_null]
  exact fails_exc s _

theorem deliverSame_roomOk
    (h : ∀ k < 3 + codeCount ev.code, s.writeFault .ss (s.regs.sp - 2 - BitVec.ofNat 16 (2 * k)) 2 = none) :
    s.deliverSame ev ra gate code gate.word1 clearIf =
      ensure (code.hasOffset gate.word0) (Exc.gp (extCode ev.ext)) >>= fun _ =>
        let t := s.yieldBus.pushList [s.flagImage, s.cs.sel, ra]
        let t := (t.loadSeg .cs code (selWithRpl gate.word1 s.cpl)).yieldBus.pushList ev.codeWords
        .ok ((t.setFlags (s.flags.enter clearIf true)).jumpTo gate.word0) := by
  rw [State.deliverSame, codeWords_length, s.pushFault_none _ _ h]
  rfl

theorem deliverSame_offset
    (h : ∀ k < 3 + codeCount ev.code, s.writeFault .ss (s.regs.sp - 2 - BitVec.ofNat 16 (2 * k)) 2 = none)
    (hoff : code.word0.toNat < gate.word0.toNat) :
    Fails s (s.deliverSame ev ra gate code gate.word1 clearIf) (Exc.gp (errorCode 0 ev.ext)) := by
  rw [deliverSame_roomOk s ev ra gate code clearIf h, ← errorCode_null]
  exact fails_ensure s (decide_eq_false (Nat.not_le.mpr hoff)) _ _

theorem deliverSame_ok (hquiet : s.Quiet)
    (h : ∀ k < 3 + codeCount ev.code, s.writeFault .ss (s.regs.sp - 2 - BitVec.ofNat 16 (2 * k)) 2 = none)
    (hoff : gate.word0.toNat ≤ code.word0.toNat) :
    s.deliverSame ev ra gate code gate.word1 clearIf = .ok (enteredSame s ev ra gate code clearIf) := by
  have hpushed : ((s.pushList [s.flagImage, s.cs.sel, ra]).loadSeg .cs code (selWithRpl gate.word1 s.cpl)).Quiet :=
    State.pushList_quiet hquiet [s.flagImage, s.cs.sel, ra]
  rw [deliverSame_roomOk s ev ra gate code clearIf h,
    ensure_bind (c := code.hasOffset gate.word0) (decide_eq_true hoff), State.yieldBus_quiet hquiet]
  dsimp only
  rw [State.yieldBus_quiet hpushed]
  rfl

/-- What the entry on the current stack changes beside memory. -/
theorem enteredSame_eq (hquiet : s.Quiet) :
    let t := enteredSame s ev ra gate code clearIf
    t = { s.at gate.word0 with
          cs := code.cached (withLevel gate.word1 s.cpl)
          regs := s.regs.set .sp (s.regs.sp - BitVec.ofNat 16 (2 * (3 + codeCount ev.code)))
          flags := s.flags.enter clearIf true, mem := t.mem, writes := t.writes } := by
  intro t
  let ws := [s.flagImage, s.cs.sel, ra]
  let u := (s.pushList ws).loadSeg .cs code (selWithRpl gate.word1 s.cpl)
  have hu : u.Quiet := State.pushList_quiet hquiet ws
  have hregs : u.regs.set .sp (u.regs.sp - BitVec.ofNat 16 (2 * ev.codeWords.length)) =
      s.regs.set .sp (s.regs.sp - BitVec.ofNat 16 (2 * (3 + codeCount ev.code))) := by
    have hpushed : u.regs = s.regs.set .sp (s.regs.sp - 6) := State.pushList_sp ws s
    have hsum : s.regs.sp - 6 - BitVec.ofNat 16 (2 * codeCount ev.code) =
        s.regs.sp - BitVec.ofNat 16 (2 * (3 + codeCount ev.code)) := by
      rw [BitVec.sub_sub, show (6 : Word) = BitVec.ofNat 16 6 from rfl, ← BitVec.ofNat_add]
      congr 2
      omega
    rw [hpushed, codeWords_length, ← hsum]
    rfl
  have hcs : u = { s.pushList ws with
      cs := code.cached (withLevel gate.word1 s.cpl), mem := u.mem, writes := u.writes, fetch := u.fetch } := by
    rw [← selWithRpl_eq]
    exact loadSeg_eq (s.pushList ws) .cs code _
  let arrived (v : State) : State := { v.at gate.word0 with
    flags := s.flags.enter clearIf true, mem := t.mem, writes := t.writes }
  let regs := s.regs.set .sp (s.regs.sp - BitVec.ofNat 16 (2 * (3 + codeCount ev.code)))
  calc t = arrived { u with regs := u.regs.set .sp (u.regs.sp - BitVec.ofNat 16 (2 * ev.codeWords.length)) } :=
        (congrArg arrived (pushList_eq hu ev.codeWords) :)
    _ = arrived { u with regs := regs } := by rw [hregs]
    _ = arrived { s.pushList ws with cs := code.cached (withLevel gate.word1 s.cpl), regs := regs } :=
        congrArg (fun v : State => arrived { v with regs := regs }) hcs
    _ = arrived { s with cs := code.cached (withLevel gate.word1 s.cpl), regs := regs } :=
        (congrArg (fun v : State => arrived { v with cs := code.cached (withLevel gate.word1 s.cpl), regs := regs })
          (pushList_eq hquiet ws) :)

/-- What the entry on the current stack leaves in memory. -/
theorem enteredSame_memory (hquiet : s.Quiet) (hdesc : s.byteAt (code.addr + 5) = code.ar) :
    let t := enteredSame s ev ra gate code clearIf
    let n := 3 + codeCount ev.code
    let new := s.regs.sp - BitVec.ofNat 16 (2 * n)
    (s.LowDecoded → s.physAddr (code.addr + 5) ∉ s.stackCells new n →
      t.load .word s.ss (s.regs.sp - 2) = s.flagImage ∧ t.load .word s.ss (s.regs.sp - 4) = s.cs.sel ∧
      t.load .word s.ss (s.regs.sp - 6) = ra ∧ ∀ c, ev.code = some c → t.load .word s.ss new = c) ∧
    (s.physAddr (code.addr + 5) ∉ s.stackCells new (codeCount ev.code) →
      (t.byteAt (code.addr + 5)).getLsbD 0 = true) ∧
    (s.physAddr (code.addr + 5) ∉ s.stackCells new n → t.byteAt (code.addr + 5) = code.ar ||| 1#8) ∧
    s.MemoryKept t (s.physAddr (code.addr + 5) :: s.stackCells new n) := by
  intro t n new
  let ws := [s.flagImage, s.cs.sel, ra]
  let p := s.pushList ws
  let u := p.loadSeg .cs code (selWithRpl gate.word1 s.cpl)
  let low := s.stackCells new (codeCount ev.code)
  have hu : u.Quiet := State.pushList_quiet hquiet ws
  have hsp : u.regs.sp = s.regs.sp - 6 := congrArg Regs.sp (State.pushList_sp ws s)
  have hnew : u.regs.sp = new + BitVec.ofNat 16 (2 * codeCount ev.code) := by
    rw [hsp]
    apply BitVec.eq_of_toNat_eq
    have h6 : (6 : Word).toNat = 6 := rfl
    simp only [new, n, BitVec.toNat_add, BitVec.toNat_sub, BitVec.toNat_ofNat, h6]
    omega
  have hss : u.ss = s.ss := (show u.ss = p.ss from rfl).trans (by simp [p])
  have hplat : p.platform = s.platform := by simp [p]
  have hphys : p.physAddr (code.addr + 5) = s.physAddr (code.addr + 5) := by simp [p]
  have hp : s.MemoryKept p (s.stackCells (s.regs.sp - 6) 3) := State.pushList_kept ws s hquiet
  have hload : p.MemoryKept u [s.physAddr (code.addr + 5)] := hphys ▸ loadSeg_kept p .cs code _
  have hcode : u.MemoryKept t low := by
    have h := State.pushList_kept ev.codeWords u hu
    rw [codeWords_length, hnew, BitVec.add_sub_cancel] at h
    rwa [State.stackCells_congr (s := s) hss (by simp [u, p]) hplat] at h
  have hlow : ∀ a ∈ low, a ∈ s.stackCells new n := fun a ha => by
    refine stackCells_sub s (i := 0) (show 0 + codeCount ev.code ≤ n by omega) ?_
    rwa [Nat.mul_zero, BitVec.add_zero]
  have hhigh : ∀ a ∈ s.stackCells (s.regs.sp - 6) 3, a ∈ s.stackCells new n := fun a ha => by
    rw [← hsp, hnew] at ha
    exact stackCells_sub s (by omega) ha
  have hself : u.byteAt (code.addr + 5) = p.byteAt (code.addr + 5) ||| 1#8 := loadSeg_byteAt_self p .cs code _
  have hafter : s.physAddr (code.addr + 5) ∉ low → t.byteAt (code.addr + 5) = p.byteAt (code.addr + 5) ||| 1#8 :=
    fun h => (hcode _ (by simpa [u, p] using h)).trans hself
  refine ⟨fun hd hout => ?_, fun h => ?_, fun h => ?_, ?_⟩
  · have hdu : u.LowDecoded := by
      rw [State.LowDecoded, show u.platform = s.platform from hplat]
      exact hd
    have hfirst : ∀ j w, ws[j]? = some w → t.load .word s.ss (s.regs.sp - 2 - BitVec.ofNat 16 (2 * j)) = w := by
      intro j w hj
      have hj3 : j < 3 := (List.getElem?_eq_some_iff.mp hj).1
      have hlen : 3 + ev.codeWords.length ≤ 2 ^ 15 := by
        rw [codeWords_length]
        have := codeCount_le ev.code
        omega
      calc t.load .word s.ss (s.regs.sp - 2 - BitVec.ofNat 16 (2 * j))
          = u.load .word s.ss (s.regs.sp - 2 - BitVec.ofNat 16 (2 * j)) :=
            pushList_keeps_pushed (n := 3) hu hdu hss hsp ev.codeWords hj3 hlen
        _ = p.load .word s.ss (s.regs.sp - 2 - BitVec.ofNat 16 (2 * j)) := by
            refine State.load_kept hload (by simp [u]) .word s.ss _ fun a ha hin => hout ?_
            have hcells : p.cells .word s.ss (s.regs.sp - 2 - BitVec.ofNat 16 (2 * j)) =
                s.cells .word s.ss (s.regs.sp - 2 - BitVec.ofNat 16 (2 * j)) := by simp [State.cells, p]
            rw [hcells, pushed_offset _ hj3] at ha
            rw [List.mem_singleton] at hin
            rw [← hin]
            exact hhigh a (cells_mem_stackCells s (by omega) ha)
        _ = w := State.pushList_words hquiet hd ws (show 3 ≤ 2 ^ 15 by norm_num) j w hj
    have h₁ := hfirst 1 _ rfl
    have h₂ := hfirst 2 _ rfl
    rw [sub_two_mul] at h₁ h₂
    refine ⟨by simpa using hfirst 0 _ rfl, h₁, h₂, fun c hc => ?_⟩
    have hwords : ev.codeWords = [c] := by rw [Event.codeWords, hc]
    have hlast := State.pushList_words hu hdu ev.codeWords (by rw [hwords]; norm_num) 0 c (by rw [hwords]; rfl)
    have hoff : u.regs.sp - 2 - BitVec.ofNat 16 (2 * 0) = new := by
      rw [hnew, hc]
      show new + 2 - 2 - 0#16 = new
      rw [BitVec.add_sub_cancel, BitVec.sub_zero]
    rw [hoff, hss] at hlast
    exact hlast
  · rw [hafter h]
    exact getLsbD_accessed _
  · rw [hafter fun hin => h (hlow _ hin), hp _ fun hin => h (hhigh _ hin), hdesc]
  · refine ((hp.trans hload hplat).trans hcode hplat).mono fun a ha => ?_
    rcases List.mem_append.mp ha with h | h
    · rcases List.mem_append.mp h with h | h
      · exact List.mem_cons_of_mem _ (hhigh a h)
      · rw [List.mem_singleton] at h
        exact h ▸ List.mem_cons_self
    · exact List.mem_cons_of_mem _ (hlow a h)

end

theorem runsAt_code {d : Desc} {level : Nat} (h : d.RunsAt level) : d.ar.getLsbD 4 = true ∧ d.ar.getLsbD 3 = true :=
  ⟨h.2.1, h.2.2.1⟩

theorem usableGate_of {s : State} {ev : Event} (hlimit : 8 * ev.vector.toNat + 7 ≤ s.idtr.limit.toNat)
    (h : (s.descAt (s.idtr.base.toNat + 8 * ev.vector.toNat)).System 6 ∨
      (s.descAt (s.idtr.base.toNat + 8 * ev.vector.toNat)).System 7)
    (hmay : ev.soft = true → s.cpl ≤ rightsDpl (s.descAt (s.idtr.base.toNat + 8 * ev.vector.toNat)).ar) :
    UsableGate s ev (s.descAt (s.idtr.base.toNat + 8 * ev.vector.toNat)) :=
  ⟨rfl, hlimit, h.elim (fun ⟨_, hs, ht⟩ => ⟨hs, .inr (.inl ht)⟩) fun ⟨_, hs, ht⟩ => ⟨hs, .inr (.inr ht)⟩, hmay⟩

/-- A delivery that goes through an interrupt or trap gate to a code segment. -/
theorem deliver_found {s : State} (hprot : s.prot = true) (hquiet : s.Quiet) (ev : Event) (ra : Word)
    (hlimit : 8 * ev.vector.toNat + 7 ≤ s.idtr.limit.toNat) :
    let gate := s.descAt (s.idtr.base.toNat + 8 * ev.vector.toNat)
    (gate.System 6 ∨ gate.System 7) → (ev.soft = true → s.cpl ≤ rightsDpl gate.ar) →
    ∀ {code : Desc}, s.Named gate.word1 code → code.ar.getLsbD 4 = true ∧ code.ar.getLsbD 3 = true →
    code.ar.getLsbD 7 = true →
    s.deliver ev ra = s.afterBus fun s =>
      if (!rightsConforming code.ar && decide (rightsDpl code.ar < s.cpl)) = true then
        s.deliverInner ev ra gate code gate.word1 (clearsIf ev gate)
      else if (rightsConforming code.ar || decide (rightsDpl code.ar = s.cpl)) = true then
        s.deliverSame ev ra gate code gate.word1 (clearsIf ev gate)
      else .error (.exc (Exc.gp (selCode gate.word1 ev.ext))) := by
  intro gate hgate hmay code hcode hkind hp
  have hpresent : gate.ar.getLsbD 7 = true := hgate.elim (·.1) (·.1)
  have htype : gate.ar.extractLsb' 0 4 ≠ 5#4 := by
    rcases hgate with ⟨-, -, ht⟩ | ⟨-, -, ht⟩ <;> rw [ht] <;> decide
  rw [deliver_gate ra hprot (usableGate_of hlimit hgate hmay) hpresent htype,
    deliverGate_found hquiet ev ra _ hcode hkind hp]

/-- The delivery to a code segment that runs at the current level. -/
theorem deliver_same {s : State} (hprot : s.prot = true) (hquiet : s.Quiet) (ev : Event) (ra : Word)
    (hlimit : 8 * ev.vector.toNat + 7 ≤ s.idtr.limit.toNat) :
    let gate := s.descAt (s.idtr.base.toNat + 8 * ev.vector.toNat)
    (gate.System 6 ∨ gate.System 7) → (ev.soft = true → s.cpl ≤ rightsDpl gate.ar) →
    ∀ {code : Desc}, s.Named gate.word1 code → code.RunsAt s.cpl →
    s.deliver ev ra = s.afterBus fun s => s.deliverSame ev ra gate code gate.word1 (clearsIf ev gate) := by
  intro gate hgate hmay code hcode hruns
  rw [deliver_found hprot hquiet ev ra hlimit hgate hmay hcode (runsAt_code hruns) hruns.1, State.afterBus,
    State.afterBus, State.afterReads_quiet hquiet, State.afterReads_quiet hquiet]
  have hconf := rightsConforming_iff code.ar
  obtain ⟨-, -, hcodeBit, hlevel⟩ := hruns
  congr 1
  split_ifs at hlevel with hbit
  · rw [show rightsConforming code.ar = true from hconf.mpr ⟨hcodeBit, hbit⟩]
    rfl
  · rw [decide_eq_false (by omega), decide_eq_true hlevel, Bool.and_false, Bool.or_true]
    rfl

theorem flags_entered (ev : Event) (gate : Desc) (f : Flags) :
    f.enter (clearsIf ev gate) true = { f with
      tf := false, nt := false
      ifl := if gate.ar.extractLsb' 0 4 = 6#4 ∨ ev.nmi = true then false else f.ifl } := by
  have hclears : clearsIf ev gate = true ↔ gate.ar.extractLsb' 0 4 = 6#4 ∨ ev.nmi = true := by
    rw [clearsIf, Bool.or_eq_true, beq_iff_eq, type_eq_iff gate.ar 6 (by norm_num)]
  have hifl : (f.ifl && !clearsIf ev gate) =
      if gate.ar.extractLsb' 0 4 = 6#4 ∨ ev.nmi = true then false else f.ifl := by
    rw [← if_congr hclears rfl rfl]
    cases clearsIf ev gate <;> simp
  rw [Flags.enter, hifl, Bool.not_true, Bool.and_false]

/-- Settles O38: the room, the offset, then the words around the load of CS. -/
theorem interruptGateToSameLevel : Obligations.InterruptGateToSameLevel := by
  unfold Obligations.InterruptGateToSameLevel
  refine ⟨fun a v code ra soft nmi target s he hprot hquiet hlimit => ?_, fun ev ra target s hprot hquiet hlimit => ?_⟩
  · intro gate hgate hmay htarget hruns hoff n new hroom
    let ev (ext : Bool) : Event := { vector := v, code := code, ext := ext, soft := soft, nmi := nmi }
    let clearIf := clearsIf (ev false) gate
    let t := enteredSame s (ev false) ra gate target clearIf
    have hdeliver : ∀ ext, s.deliver (ev ext) ra = .ok t := fun ext =>
      (deliver_same hprot hquiet (ev ext) ra hlimit hgate hmay htarget hruns).trans <| afterBus_ok hquiet <|
        deliverSame_ok s (ev ext) ra gate target clearIf hquiet hroom hoff
    have ht : t = _ := enteredSame_eq s (ev false) ra gate target clearIf hquiet
    obtain ⟨hwords, hbit, hbyte, hkept⟩ :=
      enteredSame_memory s (ev false) ra gate target clearIf hquiet (fetchDesc_ar htarget.2)
    have hactive := arrive_active (congrArg State.inst ht) soft
    refine ⟨_, entry_next he hquiet hdeliver, (congrArg (arrive soft) ht).trans ?_, hactive, hwords, hbit, hbyte, hkept⟩
    rw [hactive, flags_entered]
    rfl
  · intro gate hgate hmay htarget hruns room
    have hdeliver := fun ra => deliver_same hprot hquiet ev ra hlimit hgate hmay htarget hruns
    refine ⟨fun hnot => deliveryFails_of (fun ra => ?_) (ss_vector _), fun hroom hoff =>
      deliveryFails_of (fun ra => ?_) (gp_vector _)⟩
    · rw [hdeliver]
      exact fails_afterBus hquiet (deliverSame_room s ev ra gate target _ hnot)
    · rw [hdeliver]
      exact fails_afterBus hquiet (deliverSame_offset s ev ra gate target _ hroom hoff)

/-! ### Deliveries that fail (60 R570, R574) -/

theorem raise_fails {s : State} (hquiet : s.Quiet) {ev : Event} {ra : Word} {e : Exc}
    (h : Fails s (s.deliver ev ra) e) :
    raise ev ra s = raiseDouble ev ra s := by
  rw [raise, State.yieldBus_quiet hquiet]
  rcases h with h | h <;> rw [h]

/-- What becomes of vector 8, by the outcome of its delivery. -/
theorem raiseDouble_cases {s : State} (hquiet : s.Quiet) (ev : Event) (ra : Word) :
    (∀ t, s.deliver ev.double ra = .ok t → raiseDouble ev ra s = .next t.taken) ∧
    (∀ e, s.deliver ev.double ra = .error (.exc e) → raiseDouble ev ra s = .next s.shutDown.taken) ∧
    (∀ e t, s.deliver ev.double ra = .error (.after e t) → raiseDouble ev ra s = .next t.shutDown.taken) ∧
    (∀ e t, s.deliver ev.double ra = .error (.excAt e t) → raiseDouble ev ra s = .next t.shutDown.taken) ∧
    (∀ e t, s.deliver ev.double ra = .error (.doubleAt e t) → raiseDouble ev ra s = .next t.shutDown.taken) ∧
    ∀ t, s.deliver ev.double ra = .error (.shutdown t) → raiseDouble ev ra s = .next t.shutDown.taken := by
  rw [raiseDouble, State.yieldBus_quiet hquiet]
  refine ⟨fun t h => ?_, fun e h => ?_, fun e t h => ?_, fun e t h => ?_, fun e t h => ?_, fun t h => ?_⟩ <;> rw [h]

/-- In real mode the double exception is taken as interrupt 8 is. -/
theorem raise_double_real {s : State} (hreal : s.prot = false) (hquiet : s.Quiet) (ev : Event) (ra : Word) :
    raise ev.double ra s = raiseDouble ev ra s := by
  obtain ⟨hok, -, -, -, -, hshut⟩ := raiseDouble_cases hquiet ev ra
  by_cases hlimit : 4 * ev.double.vector.toNat + 3 ≤ s.idtr.limit.toNat
  · by_cases hsp : s.realPushWraps = true
    · have h := deliverReal_wraps hreal ev.double ra hlimit hsp
      rw [hshut _ h, raise_shutdown hquiet h]
    · have h := deliverReal_ok hreal hquiet ev.double ra hlimit hsp
      rw [hok _ h, raise_ok hquiet h]
  · have h := (deliverReal_beyond hreal ev.double ra (Nat.not_le.mp hlimit)).1 (.inl rfl)
    rw [hshut _ h, raise_shutdown hquiet h]

/-- Settles O41: the answer by the outcome of the first delivery, then by that of vector 8's. -/
theorem doubleFaultAndShutdown : Obligations.DoubleFaultAndShutdown := by
  unfold Obligations.DoubleFaultAndShutdown
  intro down
  refine ⟨fun ev e ra s hquiet _ hfails => ?_, fun ev e ra s t hquiet => ⟨fun h => ?_, fun h htq u hu => ?_⟩,
    fun ev ra s hquiet hprot hlimit hlimit8 => ?_, fun ev ra s hquiet hreal hlimit => ?_⟩
  · have h := raiseDouble_cases hquiet ev ra
    rw [← raise_fails hquiet hfails] at h
    exact h
  · rw [raise, State.yieldBus_quiet hquiet, h]
    rfl
  · rw [raise, State.yieldBus_quiet hquiet, h]
    exact (raiseDouble_cases htq ev t.ip).1 u hu
  · rw [raise_fails hquiet (deliver_beyond hprot ev ra hlimit)]
    obtain ⟨-, hexc, hafter, -⟩ := raiseDouble_cases hquiet ev ra
    exact (deliver_beyond hprot ev.double ra hlimit8).elim (hexc _) (hafter _ _)
  · obtain ⟨hdown, htable⟩ := deliverReal_beyond hreal ev ra hlimit
    have hfirst : ev.vector ≠ 8 → ev.vector ≠ 13 → raise ev ra s = raiseDouble ev ra s := fun h8 h13 =>
      raise_fails hquiet (.inl (htable h8 h13))
    refine ⟨fun h => ?_, fun h8 h13 => (hfirst h8 h13).trans ?_⟩
    · by_cases hv : ev.vector = 8 ∨ ev.vector = 13
      · exact raise_shutdown hquiet (hdown hv)
      · obtain ⟨h8, h13⟩ := not_or.mp hv
        rw [hfirst h8 h13]
        exact raiseDouble_beyond hreal hquiet ev ra ((h.resolve_left h8).resolve_left h13)
    · exact (raise_double_real hreal hquiet ev ra).symm

end Sys2Proof.Proofs.Other
end

section
/-! Transfers to a more privileged level: the new stack, CALL through a gate, interrupts through a gate. -/

namespace Sys2Proof.Proofs.Other

open Sys2Proof Sys2Proof.Machine

set_option Elab.async false

/-! ### The checks of the new stack (44 R418, 60 R560) -/

theorem roomFor_eq_true_iff (g : Segment) : ∀ (n : Nat) (sp : Word),
    g.roomFor n sp = true ↔ ∀ k < n, g.inLimit (sp - 2 - BitVec.ofNat 16 (2 * k)) 2 = true
  | 0, _ => ⟨fun _ k hk => absurd hk (Nat.not_lt_zero k), fun _ => rfl⟩
  | n + 1, sp => by
    refine ⟨fun h k hk => ?_, g.roomFor_iff (n + 1) sp⟩
    rw [Segment.roomFor, Bool.and_eq_true] at h
    obtain ⟨h₀, hrest⟩ := h
    cases k with
    | zero => simpa using h₀
    | succ k =>
      have hk' := (roomFor_eq_true_iff g n (sp - 2)).mp hrest k (Nat.lt_of_succ_lt_succ hk)
      rwa [sub_two_sub] at hk'

/-- The checks of the new stack and what follows them. -/
def ontoInner {α : Type} (s : State) (level n : Nat) (ext : Bool) (f : Word → Word → State → Desc → Exe α) : Exe α :=
  s.innerStack level ext fun ssSel sp s => s.innerStackDesc level ssSel ext >>= fun d =>
    ensure ((d.toSegment ssSel).roomFor n sp) (Exc.ss (extCode ext)) >>= fun _ => f ssSel sp s d

/-- SP and the selector of SS that the task state segment holds for a level. -/
def innerSp (s : State) (level : Nat) : Word := s.wordAt (s.tr.base.toNat + 4 * level + 2)

@[inherit_doc innerSp]
def innerSs (s : State) (level : Nat) : Word := s.wordAt (s.tr.base.toNat + 4 * level + 4)

section
variable {α : Type} {s : State} (hquiet : s.Quiet) {level : Nat} (n : Nat) (ext : Bool)
  (f : Word → Word → State → Desc → Exe α)
include hquiet

theorem ontoInner_eq (hlimit : 4 * level + 5 ≤ s.tr.limit.toNat) :
    ontoInner s level n ext f = s.afterReads 3 fun s => s.innerStackDesc level (innerSs s level) ext >>= fun d =>
      ensure ((d.toSegment (innerSs s level)).roomFor n (innerSp s level)) (Exc.ss (extCode ext)) >>= fun _ =>
        f (innerSs s level) (innerSp s level) s d := by
  rw [ontoInner, State.innerStack, State.afterReads_quiet hquiet, ensure_bind (decide_eq_true hlimit),
    State.afterReads_quiet hquiet, State.yields_quiet hquiet, State.yields_quiet hquiet]
  rfl

/-- A stack that cannot take the words is the exception of the first check that fails. -/
theorem ontoInner_fails {e : Exc} (h : s.InnerStackFault level n ext e) : Fails s (ontoInner s level n ext f) e := by
  rcases h with ⟨hlimit, rfl⟩ | ⟨hlimit, hstack⟩
  · rw [ontoInner, State.innerStack]
    exact fails_ensure s (decide_eq_false (Nat.not_le.mpr hlimit)) _ _
  · rw [ontoInner_eq hquiet n ext f hlimit]
    refine fails_afterReads hquiet 3 ?_
    rw [State.innerStackDesc]
    have hnotNull : ∀ {g : Unit → Exe Desc}, 4 ≤ (innerSs s level).toNat →
        (ensure (!selNull (innerSs s level)) (Exc.gp (extCode ext)) >>= g) = g () := fun h =>
      ensure_bind (by rw [selNull_false h]; rfl) _ _
    rcases hstack with ⟨hnull, rfl⟩ | ⟨hsel, hnone, rfl⟩ | ⟨stack, hstack, hcases⟩
    · rw [← errorCode_null]
      have hnull' : (!selNull (innerSs s level)) = false := congrArg (!·) (selNull_true hnull)
      exact (fails_ensure s hnull' _ _).bind _
    · rw [hnotNull hsel]
      exact (orExc_bad s (testSel_unnamed (.inr hnone) _) _ _).bind _
    · have hstack : s.Named (innerSs s level) stack := hstack
      rw [hnotNull hstack.1]
      have hfits := stackTest_iff level (innerSs s level) stack
      rcases hcases with ⟨hnot, rfl⟩ | ⟨hyes, hp, rfl⟩ | ⟨hyes, hp, ⟨k, hk, hroom⟩, rfl⟩
      · exact (orExc_bad s (testSel_wrong hstack fun h => hnot (hfits.mp h)) _ _).bind _
      · exact (orExc_absent s (testSel_absent hstack (hfits.mpr hyes) hp) _ _).bind _
      · rw [orExc_ok (testSel_found hstack (hfits.mpr hyes) hp), ← errorCode_null]
        refine fails_ensure s (Bool.eq_false_iff.mpr fun h => ?_) _ _
        exact Bool.eq_false_iff.mp hroom ((roomFor_eq_true_iff _ n _).mp h k hk)

/-- A stack that can take the words. -/
theorem ontoInner_ok (hlimit : 4 * level + 5 ≤ s.tr.limit.toNat) {stack : Desc}
    (hstack : s.Named (innerSs s level) stack)
    (hof : stack.StackOf (innerSs s level) level)
    (hroom : ∀ k < n,
      (stack.cached (innerSs s level)).inLimit (innerSp s level - 2 - BitVec.ofNat 16 (2 * k)) 2 = true) :
    ontoInner s level n ext f = s.afterReads 3 fun s => f (innerSs s level) (innerSp s level) s stack := by
  obtain ⟨hp, hseg, hdata, hwrite, hdpl, hrpl⟩ := hof
  have hfits : stackTest level (innerSs s level) stack = true :=
    (stackTest_iff _ _ _).mpr ⟨hrpl, hseg, hdata, hwrite, hdpl⟩
  rw [ontoInner_eq hquiet n ext f hlimit, State.afterReads_quiet hquiet, State.afterReads_quiet hquiet,
    State.innerStackDesc, ensure_bind (by rw [selNull_false hstack.1]; rfl),
    orExc_ok (testSel_found hstack hfits hp), exe_bind_ok,
    Desc.toSegment_eq, ensure_bind ((roomFor_eq_true_iff _ n _).mpr hroom)]

end

/-! ### The words on the new stack -/

theorem or_one_or_one (b : Byte) : b ||| 1#8 ||| 1#8 = b ||| 1#8 := by
  rw [BitVec.or_assoc, BitVec.or_self]

/-- CS and SS loaded, SP at the new stack's top. -/
def onStack (s : State) (code : Desc) (sel : Word) (stack : Desc) (ssSel sp : Word) : State :=
  ((s.loadSeg .cs code sel).loadSeg .ss stack ssSel).setSp sp

section
variable {s : State} {code stack : Desc} (sel ssSel sp : Word)

theorem onStack_eq (s : State) (code stack : Desc) (sel ssSel sp : Word) :
    let u := onStack s code sel stack ssSel sp
    u = { s with
      cs := code.cached sel, ss := stack.cached ssSel, regs := s.regs.set .sp sp
      mem := u.mem, writes := u.writes, fetch := u.fetch } := by
  intro u
  have hcs := loadSeg_eq s .cs code sel
  have hss := loadSeg_eq (s.loadSeg .cs code sel) .ss stack ssSel
  calc u = { (s.loadSeg .cs code sel) with
          ss := stack.cached ssSel, regs := (s.loadSeg .cs code sel).regs.set .sp sp
          mem := u.mem, writes := u.writes, fetch := u.fetch } :=
        (congrArg (fun v : State => v.setSp sp) hss :)
    _ = _ := (congrArg (fun v : State => { v with
          ss := stack.cached ssSel, regs := v.regs.set .sp sp
          mem := u.mem, writes := u.writes, fetch := u.fetch }) hcs :)

theorem onStack_byteAt (hcode : s.byteAt (code.addr + 5) = code.ar) (hstack : s.byteAt (stack.addr + 5) = stack.ar) :
    ∀ d, d = code ∨ d = stack →
      (onStack s code sel stack ssSel sp).byteAt (d.addr + 5) = d.ar ||| 1#8 := by
  have hbyte : ∀ a, (onStack s code sel stack ssSel sp).byteAt a =
      if s.physAddr a = s.physAddr (stack.addr + 5) then
        (if s.physAddr a = s.physAddr (code.addr + 5) then s.byteAt a ||| 1#8 else s.byteAt a) ||| 1#8
      else if s.physAddr a = s.physAddr (code.addr + 5) then s.byteAt a ||| 1#8 else s.byteAt a := fun a => by
    have h := loadSeg_byteAt_eq (s.loadSeg .cs code sel) .ss stack ssSel a
    rw [loadSeg_byteAt_eq s .cs code sel a] at h
    exact h
  rintro d (rfl | rfl)
  · rw [hbyte, if_pos rfl, hcode, or_one_or_one, ite_self]
  · rw [hbyte, if_pos rfl, hstack]
    split_ifs
    · exact or_one_or_one _
    · rfl

theorem onStack_kept (s : State) (code stack : Desc) (sel ssSel sp : Word) :
    s.MemoryKept (onStack s code sel stack ssSel sp) [s.physAddr (code.addr + 5), s.physAddr (stack.addr + 5)] :=
  (loadSeg_kept s .cs code sel).trans (loadSeg_kept (s.loadSeg .cs code sel) .ss stack ssSel)

/-- The words that a transfer to an inner level leaves on the new stack. -/
theorem onStack_pushList (hquiet : s.Quiet) (hcode : s.byteAt (code.addr + 5) = code.ar)
    (hstack : s.byteAt (stack.addr + 5) = stack.ar) (vs : List Word) (hlen : vs.length ≤ 2 ^ 15) :
    let t := (onStack s code sel stack ssSel sp).pushList vs
    let new := sp - BitVec.ofNat 16 (2 * vs.length)
    t = { s with
          cs := code.cached sel, ss := stack.cached ssSel, regs := s.regs.set .sp new
          mem := t.mem, writes := t.writes, fetch := t.fetch } ∧
      (s.LowDecoded → ∀ j w, vs[j]? = some w → t.load .word t.ss (sp - 2 - BitVec.ofNat 16 (2 * j)) = w) ∧
      (∀ d, d = code ∨ d = stack → s.physAddr (d.addr + 5) ∉ t.stackCells new vs.length →
        t.byteAt (d.addr + 5) = d.ar ||| 1#8) ∧
      s.MemoryKept t (s.physAddr (code.addr + 5) :: s.physAddr (stack.addr + 5) :: t.stackCells new vs.length) := by
  intro t new
  obtain ⟨u, hu⟩ : ∃ u, u = onStack s code sel stack ssSel sp := ⟨_, rfl⟩
  have hueq : u = _ := hu ▸ onStack_eq s code stack sel ssSel sp
  have hukept := onStack_kept s code stack sel ssSel sp
  have hubyte := onStack_byteAt sel ssSel sp hcode hstack
  rw [← hu] at hukept hubyte
  have huquiet : u.Quiet := by
    rw [hueq]
    exact hquiet
  have hplat : u.platform = s.platform := by rw [hueq]
  have ht : t = u.pushList vs := by rw [hu]
  have hpushed := State.pushList_kept vs u huquiet
  have husp : u.regs.sp = sp := by
    rw [hueq]
    rfl
  have hcells : t.stackCells new vs.length = u.stackCells new vs.length := by
    rw [ht]
    exact State.stackCells_congr (by simp) (by simp) (by simp) _ _
  rw [husp, ← ht] at hpushed
  rw [hcells]
  refine ⟨?_, fun hd j w hj => ?_, fun d hmem hout => ?_, ?_⟩
  · have h := pushList_eq huquiet vs
    rw [husp, ← ht] at h
    exact h.trans (congrArg (fun v : State => { v with
      regs := v.regs.set .sp new, mem := t.mem, writes := t.writes, fetch := t.fetch }) hueq)
  · have hdu : u.LowDecoded := by
      rw [State.LowDecoded, hplat]
      exact hd
    have hss : (u.pushList vs).ss = u.ss := by simp
    have h := State.pushList_words huquiet hdu vs hlen j w hj
    rwa [husp, ← hss, ← ht] at h
  · rw [hpushed _ (by rwa [State.physAddr_congr hplat]), hubyte d hmem]
  · exact hukept.trans hpushed hplat

end

/-! ### Interrupts to an inner level (60 R560) -/

theorem notConforming {code : Desc} (hconf : code.ar.getLsbD 2 = false) : rightsConforming code.ar = false :=
  Bool.eq_false_iff.mpr fun h => Bool.eq_false_iff.mp hconf ((rightsConforming_iff _).mp h).2

/-- What follows the checks of the new stack. -/
def deliverOnto (ev : Event) (ra : Word) (gate code : Desc) (clearIf : Bool) (ssSel sp : Word) (s : State)
    (d : Desc) : Exe State :=
  ensure (code.hasOffset gate.word0) (Exc.gp (extCode ev.ext)) >>= fun _ =>
    let t := (((s.yieldBus.loadSeg .cs code (selWithRpl gate.word1 (rightsDpl code.ar))).yieldBus.loadSeg .ss d
      ssSel).setSp sp).yieldBus
    let t := t.pushList ([s.ss.sel, s.regs.sp, s.flagImage, s.cs.sel, ra] ++ ev.codeWords)
    .ok ((t.setFlags (s.flags.enter clearIf true)).jumpTo gate.word0)

theorem deliverInner_eq (s : State) (ev : Event) (ra : Word) (gate code : Desc) (clearIf : Bool) :
    s.deliverInner ev ra gate code gate.word1 clearIf =
      ontoInner s (rightsDpl code.ar) (5 + codeCount ev.code) ev.ext (deliverOnto ev ra gate code clearIf) := by
  rw [← codeWords_length]
  rfl

/-- The delivery to a code segment of an inner level. -/
theorem deliver_inner {s : State} (hprot : s.prot = true) (hquiet : s.Quiet) (ev : Event) (ra : Word)
    (hlimit : 8 * ev.vector.toNat + 7 ≤ s.idtr.limit.toNat) :
    let gate := s.descAt (s.idtr.base.toNat + 8 * ev.vector.toNat)
    (gate.System 6 ∨ gate.System 7) → (ev.soft = true → s.cpl ≤ rightsDpl gate.ar) →
    ∀ {code : Desc}, s.Named gate.word1 code → code.RunsAt (rightsDpl code.ar) → code.ar.getLsbD 2 = false →
    rightsDpl code.ar < s.cpl →
    s.deliver ev ra = s.afterBus fun s => ontoInner s (rightsDpl code.ar) (5 + codeCount ev.code) ev.ext
      (deliverOnto ev ra gate code (clearsIf ev gate)) := by
  intro gate hgate hmay code hcode hruns hconf hlevel
  rw [deliver_found hprot hquiet ev ra hlimit hgate hmay hcode (runsAt_code hruns) hruns.1, State.afterBus,
    State.afterBus, State.afterReads_quiet hquiet, State.afterReads_quiet hquiet, notConforming hconf,
    decide_eq_true hlevel]
  exact congrArg (keepBus s) (deliverInner_eq s ev ra gate code _)

/-- The entry on the new stack. -/
def enteredInner (s : State) (ev : Event) (ra : Word) (gate code : Desc) (clearIf : Bool) (stack : Desc)
    (ssSel sp : Word) : State :=
  let t := (onStack s code (selWithRpl gate.word1 (rightsDpl code.ar)) stack ssSel sp).pushList
    ([s.ss.sel, s.regs.sp, s.flagImage, s.cs.sel, ra] ++ ev.codeWords)
  (t.setFlags (s.flags.enter clearIf true)).jumpTo gate.word0

theorem onStack_quiet {s : State} (hquiet : s.Quiet) (code stack : Desc) (sel ssSel sp : Word) :
    (s.loadSeg .cs code sel).Quiet ∧ (onStack s code sel stack ssSel sp).Quiet := by
  refine ⟨hquiet, ?_⟩
  rw [onStack_eq]
  exact hquiet

theorem deliverOnto_ok {s : State} (hquiet : s.Quiet) (ev : Event) (ra : Word) {gate code : Desc} (clearIf : Bool)
    (stack : Desc) (ssSel sp : Word) (hoff : gate.word0.toNat ≤ code.word0.toNat) :
    deliverOnto ev ra gate code clearIf ssSel sp s stack =
      .ok (enteredInner s ev ra gate code clearIf stack ssSel sp) := by
  obtain ⟨hcs, hss⟩ := onStack_quiet hquiet code stack (selWithRpl gate.word1 (rightsDpl code.ar)) ssSel sp
  rw [onStack] at hss
  rw [deliverOnto, ensure_bind (c := code.hasOffset gate.word0) (decide_eq_true hoff), State.yieldBus_quiet hquiet,
    State.yieldBus_quiet hcs, State.yieldBus_quiet hss]
  rfl

theorem deliverOnto_offset (s : State) (ev : Event) (ra : Word) {gate code : Desc} (clearIf : Bool) (stack : Desc)
    (ssSel sp : Word) (hoff : code.word0.toNat < gate.word0.toNat) :
    Fails s (deliverOnto ev ra gate code clearIf ssSel sp s stack) (Exc.gp (errorCode 0 ev.ext)) := by
  rw [deliverOnto, ← errorCode_null]
  exact fails_ensure s (decide_eq_false (Nat.not_le.mpr hoff)) _ _

/-- What the entry on the new stack leaves. -/
theorem enteredInner_spec {s : State} {gate code stack : Desc} (hquiet : s.Quiet) (ev : Event) (ra : Word)
    (clearIf : Bool) (hcode : s.byteAt (code.addr + 5) = code.ar) (hstack : s.byteAt (stack.addr + 5) = stack.ar)
    (ssSel sp : Word) :
    let n := 5 + codeCount ev.code
    let new := sp - BitVec.ofNat 16 (2 * n)
    ∃ t, enteredInner s ev ra gate code clearIf stack ssSel sp = t ∧
      t = { s.at gate.word0 with
            cs := code.cached (withLevel gate.word1 (rightsDpl code.ar)), ss := stack.cached ssSel
            regs := s.regs.set .sp new, flags := s.flags.enter clearIf true, mem := t.mem, writes := t.writes } ∧
      (s.LowDecoded →
        t.load .word t.ss (sp - 2) = s.ss.sel ∧ t.load .word t.ss (sp - 4) = s.regs.sp ∧
        t.load .word t.ss (sp - 6) = s.flagImage ∧ t.load .word t.ss (sp - 8) = s.cs.sel ∧
        t.load .word t.ss (sp - 10) = ra ∧ (∀ c, ev.code = some c → t.load .word t.ss new = c)) ∧
      (∀ d, d = code ∨ d = stack → s.physAddr (d.addr + 5) ∉ t.stackCells new n →
        t.byteAt (d.addr + 5) = d.ar ||| 1#8) ∧
      s.MemoryKept t (s.physAddr (code.addr + 5) :: s.physAddr (stack.addr + 5) :: t.stackCells new n) := by
  intro n new
  let ws := [s.ss.sel, s.regs.sp, s.flagImage, s.cs.sel, ra] ++ ev.codeWords
  have hlen : ws.length = n := by
    rw [List.length_append, codeWords_length]
    rfl
  have hshort : ws.length ≤ 2 ^ 15 := by
    have := codeCount_le ev.code
    omega
  obtain ⟨hpushed, hwords, hbytes, hkept⟩ := onStack_pushList (selWithRpl gate.word1 (rightsDpl code.ar)) ssSel sp
    hquiet hcode hstack ws hshort
  rw [hlen] at hpushed hbytes hkept
  obtain ⟨p, hp⟩ : ∃ p, (onStack s code (selWithRpl gate.word1 (rightsDpl code.ar)) stack ssSel sp).pushList ws = p :=
    ⟨_, rfl⟩
  rw [hp] at hpushed hbytes hkept hwords
  rw [selWithRpl_eq] at hpushed
  refine ⟨(p.setFlags (s.flags.enter clearIf true)).jumpTo gate.word0, ?_, ?_, ?_⟩
  · exact congrArg (fun v : State => (v.setFlags (s.flags.enter clearIf true)).jumpTo gate.word0) hp
  · exact congrArg (fun v : State => (v.setFlags (s.flags.enter clearIf true)).jumpTo gate.word0) hpushed
  have hcells : ((p.setFlags (s.flags.enter clearIf true)).jumpTo gate.word0).stackCells new n = p.stackCells new n :=
    State.stackCells_congr (s := p) (t := (p.setFlags (s.flags.enter clearIf true)).jumpTo gate.word0) rfl
      (fun _ _ => rfl) rfl n new
  rw [hcells]
  refine ⟨fun hd => ?_, hbytes, hkept⟩
  · have hword : ∀ j w, ws[j]? = some w → p.load .word p.ss (sp - BitVec.ofNat 16 (2 * (j + 1))) = w := fun j w hj => by
      have h := hwords hd j w hj
      rwa [sub_two_mul] at h
    refine ⟨hword 0 _ rfl, hword 1 _ rfl, hword 2 _ rfl, hword 3 _ rfl, hword 4 _ rfl, fun c hc => ?_⟩
    have hcodeWord : ws[5]? = some c := by
      show ev.codeWords[0]? = some c
      rw [Event.codeWords, hc]
      rfl
    have hnew : new = sp - BitVec.ofNat 16 (2 * (5 + 1)) := by
      simp only [new, n, hc]
      rfl
    rw [hnew]
    exact hword 5 c hcodeWord

theorem innerStackFault_vector {s : State} {level n : Nat} {ext : Bool} {e : Exc}
    (h : s.InnerStackFault level n ext e) : e.vector ≠ 16 := by
  rcases h with ⟨-, rfl⟩ | ⟨-, ⟨-, rfl⟩ | ⟨-, -, rfl⟩ | ⟨stack, -, ⟨-, rfl⟩ | ⟨-, -, rfl⟩ | ⟨-, -, -, rfl⟩⟩⟩
  · exact ts_vector _
  · exact gp_vector _
  · exact ts_vector _
  · exact ts_vector _
  · exact ss_vector _
  · exact ss_vector _

/-- Settles O39: the checks of the new stack, the offset, then the words on it. -/
theorem interruptGateToInnerLevel : Obligations.InterruptGateToInnerLevel := by
  unfold Obligations.InterruptGateToInnerLevel
  refine ⟨fun a v code ra soft nmi target stack s he hprot hquiet hlimit => ?_,
    fun ev ra target s hprot hquiet hlimit => ?_⟩
  · intro gate hgate hmay htarget level hruns hconf hlevel hoff htss sp ssSel n new hstack hof hroom
    let ev (ext : Bool) : Event := { vector := v, code := code, ext := ext, soft := soft, nmi := nmi }
    let clearIf := clearsIf (ev false) gate
    obtain ⟨t, hentered, ht, hwords, hbytes, hkept⟩ := enteredInner_spec (gate := gate) hquiet (ev false) ra clearIf
      (fetchDesc_ar htarget.2) (fetchDesc_ar hstack.2) ssSel sp
    have hdeliver : ∀ ext, s.deliver (ev ext) ra = .ok t := fun ext => by
      refine (deliver_inner hprot hquiet (ev ext) ra hlimit hgate hmay htarget hruns hconf hlevel).trans <|
        afterBus_ok hquiet <| (ontoInner_ok hquiet _ _ _ htss hstack hof hroom).trans <| afterReads_ok hquiet 3 ?_
      exact (deliverOnto_ok hquiet (ev ext) ra clearIf stack ssSel sp hoff).trans (congrArg _ hentered)
    have hactive := arrive_active (congrArg State.inst ht) soft
    have hcells : (arrive soft t).stackCells new n = t.stackCells new n :=
      State.stackCells_congr (s := t) (t := arrive soft t) rfl (fun _ _ => rfl) rfl n new
    refine ⟨_, entry_next he hquiet hdeliver, (congrArg (arrive soft) ht).trans ?_, hactive, hwords, ?_⟩
    · rw [hactive, flags_entered]
      rfl
    · rw [hcells]
      exact ⟨hbytes, hkept⟩
  · intro gate hgate hmay htarget level hruns hconf hlevel sp ssSel n
    have hdeliver := fun ra => deliver_inner hprot hquiet ev ra hlimit hgate hmay htarget hruns hconf hlevel
    refine ⟨fun e hfault => deliveryFails_of (fun ra => ?_) (innerStackFault_vector hfault),
      fun stack htss hstack hof hroom hoff => deliveryFails_of (fun ra => ?_) (gp_vector _)⟩
    · rw [hdeliver]
      exact fails_afterBus hquiet (ontoInner_fails hquiet _ _ _ hfault)
    · rw [hdeliver]
      refine fails_afterBus hquiet ?_
      rw [ontoInner_ok hquiet _ _ _ htss hstack hof hroom]
      exact fails_afterReads hquiet 3 (deliverOnto_offset s ev ra _ stack _ _ hoff)

/-! ### CALL through a gate to an inner level (44 R418) -/

theorem gateParams_eq {s : State} (hquiet : s.Quiet) (n : Nat) :
    s.gateParams n = (List.range n).reverse.map fun k => s.load .word s.ss (s.regs.sp + BitVec.ofNat 16 (2 * k)) := by
  refine List.map_congr_left fun k _ => ?_
  rw [State.yields_quiet hquiet]
  rfl

/-- The words of the new stack, the first pushed first. -/
def gateWords (s : State) (n : Nat) : List Word := [s.ss.sel, s.regs.sp] ++ s.gateParams n ++ [s.cs.sel, s.ip]

theorem gateWords_length (s : State) (n : Nat) : (gateWords s n).length = 4 + n := by
  simp only [gateWords, State.gateParams, List.length_append, List.length_map, List.length_reverse, List.length_range,
    List.length_cons, List.length_nil]
  omega

theorem gateWords_param {s : State} (hquiet : s.Quiet) {n k : Nat} (hk : k < n) :
    (gateWords s n)[n + 1 - k]? = some (s.load .word s.ss (s.regs.sp + BitVec.ofNat 16 (2 * k))) := by
  have hlen : (s.gateParams n).length = n := by simp [State.gateParams]
  have hindex : n + 1 - k = (n - 1 - k) + 1 + 1 := by omega
  rw [gateWords, List.append_assoc, hindex]
  show (s.gateParams n ++ [s.cs.sel, s.ip])[n - 1 - k]? = _
  rw [List.getElem?_append_left (by omega), gateParams_eq hquiet, List.getElem?_map,
    List.getElem?_reverse (by rw [List.length_range]; omega), List.length_range,
    List.getElem?_range (by omega)]
  have hback : n - 1 - (n - 1 - k) = k := by omega
  rw [hback]
  rfl

theorem gateWords_last (s : State) (n : Nat) :
    (gateWords s n)[n + 2]? = some s.cs.sel ∧ (gateWords s n)[n + 3]? = some s.ip := by
  have hlen : (s.gateParams n).length = n := by simp [State.gateParams]
  refine ⟨?_, ?_⟩ <;> rw [gateWords, List.append_assoc]
  · show (s.gateParams n ++ [s.cs.sel, s.ip])[n]? = _
    rw [List.getElem?_append_right (by omega), hlen, Nat.sub_self]
    rfl
  · show (s.gateParams n ++ [s.cs.sel, s.ip])[n + 1]? = _
    rw [List.getElem?_append_right (by omega), hlen, Nat.add_sub_cancel_left]
    rfl

theorem gateParamsReadable_iff (s : State) (n : Nat) : s.gateParamsReadable n = true ↔
    ∀ k < n, s.readFault .ss (s.regs.sp + BitVec.ofNat 16 (2 * k)) 2 = none := by
  rw [State.gateParamsReadable, List.all_eq_true]
  refine forall_congr' fun k => ?_
  rw [List.mem_range, Option.isNone_iff_eq_none]

/-- What follows the checks of the new stack. -/
def callOnto (g code : Desc) (ssSel sp : Word) (s : State) (d : Desc) : Exe State :=
  ensure (s.gateParamsReadable g.wordCount) (Exc.ss 0) >>= fun _ =>
  ensure (code.hasOffset g.word0) (Exc.gp 0) >>= fun _ =>
    let t := ((s.yields (g.wordCount + 1)).loadSeg .cs code (selWithRpl g.word1 (rightsDpl code.ar))).yieldBus
    let t := ((t.loadSeg .ss d ssSel).setSp sp).yieldBus
    .ok ((t.pushList (gateWords s g.wordCount)).jumpTo g.word0)

theorem callInner_eq (s : State) (g code : Desc) :
    s.callInner g code = ontoInner s (rightsDpl code.ar) (4 + g.wordCount) false (callOnto g code) := rfl

/-- The call on the new stack. -/
def calledInner (s : State) (g code stack : Desc) (ssSel sp : Word) : State :=
  ((onStack s code (selWithRpl g.word1 (rightsDpl code.ar)) stack ssSel sp).pushList
    (gateWords s g.wordCount)).jumpTo g.word0

section
variable {s : State} {g code : Desc} (stack : Desc) (ssSel sp : Word)

theorem callOnto_params
    (h : ∃ k < g.wordCount, s.readFault .ss (s.regs.sp + BitVec.ofNat 16 (2 * k)) 2 ≠ none) :
    Fails s (callOnto g code ssSel sp s stack) (Exc.ss 0) := by
  obtain ⟨k, hk, hfault⟩ := h
  exact fails_ensure s (Bool.eq_false_iff.mpr fun h => hfault ((gateParamsReadable_iff s _).mp h k hk)) _ _

variable (h : ∀ k < g.wordCount, s.readFault .ss (s.regs.sp + BitVec.ofNat 16 (2 * k)) 2 = none)
include h

theorem callOnto_offset (hoff : code.word0.toNat < g.word0.toNat) :
    Fails s (callOnto g code ssSel sp s stack) (Exc.gp 0) := by
  rw [callOnto, ensure_bind ((gateParamsReadable_iff s _).mpr h)]
  exact fails_ensure s (decide_eq_false (Nat.not_le.mpr hoff)) _ _

theorem callOnto_ok (hquiet : s.Quiet) (hoff : g.word0.toNat ≤ code.word0.toNat) :
    callOnto g code ssSel sp s stack = .ok (calledInner s g code stack ssSel sp) := by
  obtain ⟨hcs, hss⟩ := onStack_quiet hquiet code stack (selWithRpl g.word1 (rightsDpl code.ar)) ssSel sp
  rw [onStack] at hss
  rw [callOnto, ensure_bind ((gateParamsReadable_iff s _).mpr h),
    ensure_bind (c := code.hasOffset g.word0) (decide_eq_true hoff), State.yields_quiet hquiet,
    State.yieldBus_quiet hcs]
  dsimp only
  rw [State.yieldBus_quiet hss]
  rfl

end

/-- What the call on the new stack leaves. -/
theorem calledInner_spec {s : State} {g code stack : Desc} (hquiet : s.Quiet)
    (hcode : s.byteAt (code.addr + 5) = code.ar) (hstack : s.byteAt (stack.addr + 5) = stack.ar) (ssSel sp : Word) :
    let n := g.high.toNat % 32
    let new := sp - 8 - BitVec.ofNat 16 (2 * n)
    ∃ t, calledInner s g code stack ssSel sp = t ∧
      t = { s.at g.word0 with
            cs := code.cached (withLevel g.word1 (rightsDpl code.ar)), ss := stack.cached ssSel
            regs := s.regs.set .sp new, mem := t.mem, writes := t.writes } ∧
      (s.LowDecoded →
        t.load .word t.ss new = s.ip ∧ t.load .word t.ss (new + 2) = s.cs.sel ∧
        (∀ k < n, t.load .word t.ss (new + 4 + BitVec.ofNat 16 (2 * k)) =
          s.load .word s.ss (s.regs.sp + BitVec.ofNat 16 (2 * k))) ∧
        t.load .word t.ss (sp - 4) = s.regs.sp ∧ t.load .word t.ss (sp - 2) = s.ss.sel) ∧
      (∀ d, d = code ∨ d = stack → s.physAddr (d.addr + 5) ∉ t.stackCells new (4 + n) →
        t.byteAt (d.addr + 5) = d.ar ||| 1#8) ∧
      s.MemoryKept t (s.physAddr (code.addr + 5) :: s.physAddr (stack.addr + 5) :: t.stackCells new (4 + n)) := by
  intro n new
  have hn : n < 32 := Nat.mod_lt _ (by norm_num)
  have h8 : (8 : Word).toNat = 8 := rfl
  have h4 : (4 : Word).toNat = 4 := rfl
  have h2 : (2 : Word).toNat = 2 := rfl
  have hnew : sp - BitVec.ofNat 16 (2 * (4 + n)) = new := by
    apply BitVec.eq_of_toNat_eq
    simp only [new, BitVec.toNat_sub, BitVec.toNat_ofNat, h8]
    omega
  have hlen : (gateWords s n).length = 4 + n := gateWords_length s n
  obtain ⟨hpushed, hwords, hbytes, hkept⟩ := onStack_pushList (selWithRpl g.word1 (rightsDpl code.ar)) ssSel sp
    hquiet hcode hstack (gateWords s n) (by omega)
  rw [hlen, hnew] at hpushed hbytes hkept
  obtain ⟨p, hp⟩ : ∃ p, (onStack s code (selWithRpl g.word1 (rightsDpl code.ar)) stack ssSel sp).pushList
      (gateWords s n) = p := ⟨_, rfl⟩
  rw [hp] at hpushed hbytes hkept hwords
  rw [selWithRpl_eq] at hpushed
  have hcells : (p.jumpTo g.word0).stackCells new (4 + n) = p.stackCells new (4 + n) :=
    State.stackCells_congr (s := p) (t := p.jumpTo g.word0) rfl (fun _ _ => rfl) rfl _ new
  refine ⟨p.jumpTo g.word0, congrArg (·.jumpTo g.word0) hp, congrArg (·.jumpTo g.word0) hpushed, ?_⟩
  rw [hcells]
  refine ⟨fun hd => ?_, hbytes, hkept⟩
  have hword : ∀ j w off, (gateWords s n)[j]? = some w → sp - BitVec.ofNat 16 (2 * (j + 1)) = off →
      p.load .word p.ss off = w := fun j w off hj hoff => by
    have h := hwords hd j w hj
    rwa [sub_two_mul, hoff] at h
  obtain ⟨hcs, hip⟩ := gateWords_last s n
  refine ⟨hword _ _ _ hip ?_, hword _ _ _ hcs ?_, fun k hk => hword _ _ _ (gateWords_param hquiet hk) ?_,
    hword 1 _ _ rfl rfl, hword 0 _ _ rfl rfl⟩
  all_goals
    apply BitVec.eq_of_toNat_eq
    simp only [new, BitVec.toNat_sub, BitVec.toNat_add, BitVec.toNat_ofNat, h8, h4, h2]
    omega

/-- Settles O33: the checks of the new stack, the parameters, the offset, then the words on it. -/
theorem callGateToInnerLevel : Obligations.CallGateToInnerLevel := by
  unfold Obligations.CallGateToInnerLevel
  intro i off sel gate code s hform hprot hquiet hgate hsys hcpl hrpl hcode level hruns hconf hlevel sp ssSel n new
  have htest : gateTestOf s true code = true :=
    (gateTestOf_iff s true code).mpr ⟨runsAt_code hruns, hlevel.le, fun h => Bool.noConfusion h⟩
  have hexec : exec i s = complete s (ontoInner s level (4 + n) false (callOnto gate code)) := by
    rw [exec_throughGate hform hprot hquiet hgate hsys.2.1 hsys.2.2 ⟨hcpl, hrpl⟩ hsys.1, gateCode_named hcode.1,
      orExc_ok (testSel_found hcode htest hruns.1), exe_bind_ok, gateEnter, notConforming hconf,
      decide_eq_false hlevel.ne]
    rfl
  rw [hexec]
  refine ⟨fun e hfault => ?_, fun stack htss hstack hof hroom => ?_⟩
  · exact (ontoInner_fails hquiet _ _ _ hfault).complete (innerStackFault_vector hfault)
  · rw [ontoInner_ok hquiet _ _ _ htss hstack hof hroom]
    refine ⟨fun hbad => ?_, fun hread => ⟨fun hoff => ?_, fun hoff => ?_⟩⟩
    · exact (fails_afterReads hquiet 3 (callOnto_params stack _ _ hbad)).complete (ss_vector _)
    · exact (fails_afterReads hquiet 3 (callOnto_offset stack _ _ hread hoff)).complete (gp_vector _)
    · obtain ⟨t, hcalled, ht, hwords, hbytes, hkept⟩ := calledInner_spec (g := gate) hquiet (fetchDesc_ar hcode.2)
        (fetchDesc_ar hstack.2) ssSel sp
      refine ⟨t, ?_, ht, hwords, hbytes, hkept⟩
      rw [afterReads_ok hquiet 3 (callOnto_ok stack _ _ hread hquiet hoff)]
      exact congrArg _ hcalled

end Sys2Proof.Proofs.Other
end

section
/-! Far RET and IRET. -/

namespace Sys2Proof.Proofs.Other

open Sys2Proof Sys2Proof.Machine

set_option Elab.async false

/-! ### The selectors a return reads from the stack -/

/-- A segment that must not be null and must pass a test; not present is #NP. -/
def selected (s : State) (sel : Word) (test : Desc → Bool) : Exe Desc :=
  ensure (!selNull sel) (Exc.gp 0) >>= fun _ =>
    orExc (s.testSel sel test) (Exc.gp (selCode sel false)) (Exc.np (selCode sel false))

theorem returnCode_eq (s : State) (sel : Word) : s.returnCode sel = selected s sel (codeTest (selRpl sel)) := rfl

theorem returnStack_eq (s : State) (level : Nat) (sel : Word) :
    s.returnStack level sel = selected s sel (stackTest level sel) := rfl

section
variable {s : State} {sel : Word} (test : Desc → Bool)

theorem selected_null (h : sel.toNat < 4) : Fails s (selected s sel test) (Exc.gp 0) :=
  fails_ensure s (congrArg (!·) (selNull_true h)) _ _

theorem selected_bad (hsel : 4 ≤ sel.toNat) (h : s.testSel sel test = .error .bad) :
    Fails s (selected s sel test) (Exc.gp (sel &&& 0xFFFC#16)) := by
  rw [selected, ensure_bind (congrArg (!·) (selNull_false hsel)), selCode_false]
  exact orExc_bad s h _ _

theorem selected_absent (hsel : 4 ≤ sel.toNat) (h : s.testSel sel test = .error .absent) :
    Fails s (selected s sel test) (Exc.np (sel &&& 0xFFFC#16)) := by
  rw [selected, ensure_bind (congrArg (!·) (selNull_false hsel)), selCode_false]
  exact orExc_absent s h _ _

theorem selected_ok (hsel : 4 ≤ sel.toNat) {d : Desc} (h : s.testSel sel test = .ok d) :
    selected s sel test = .ok d := by
  rw [selected, ensure_bind (congrArg (!·) (selNull_false hsel)), orExc_ok h]

end

/-! ### What is left once the frame has been checked -/

/-- A return to the same level, its code segment found. -/
def sameFinish (s : State) (iret : Bool) (sel n : Word) (d : Desc) : Exe State :=
  if iret then
    s.afterBus fun u => ensure (d.hasOffset (u.stackWord s.regs.sp)) (Exc.gp 0) >>= fun _ =>
      let t := (u.yieldBus.dropStack 6).setFlags
        (u.yieldBus.flags.pop u.yieldBus.prot u.yieldBus.cpl (u.yieldBus.stackWord (s.regs.sp + 4)))
      .ok ((t.yieldBus.enterCode d sel u.yieldBus.cpl (u.stackWord s.regs.sp)).endNmi)
  else
    check (s.readFault .ss s.regs.sp 2) >>= fun _ => s.afterBus fun u =>
      ensure (d.hasOffset (u.stackWord s.regs.sp)) (Exc.gp 0) >>= fun _ =>
        .ok ((u.dropStack (4 + n)).yieldBus.enterCode d sel u.cpl (u.stackWord s.regs.sp))

/-- A return to an outer level, its two segments found. -/
def outerLast (iret : Bool) (sel n sp : Word) (code stack : Desc) (ssSel : Word) (s : State) : Exe State :=
  ensure (code.hasOffset (s.stackWord sp)) (Exc.gp 0) >>= fun _ =>
    if iret then
      .ok ((((s.yields 2).setFlags (s.flags.pop s.prot s.cpl ((s.yields 1).stackWord (sp + 4)))).returnOuter code sel
        (s.stackWord sp) stack ssSel ((s.yields 2).stackWord (sp + 6))).endNmi)
    else
      .ok (s.yieldBus.returnOuter code sel (s.stackWord sp) stack ssSel
        (outerSp (s.yieldBus.stackWord (sp + 4 + n)) n))

/-- Either of them. -/
def returnFinish (s : State) (iret : Bool) (sel n : Word) (d : Desc) : Exe State :=
  if selRpl sel = s.cpl then sameFinish s iret sel n d
  else s.afterBus fun s => s.outerStack sel (s.regs.sp + 6 + n) fun stack ssSel u =>
    outerLast iret sel n s.regs.sp d stack ssSel u

/-- Whether the frame lies within the stack segment. -/
def frameHolds (s : State) (iret : Bool) (sel n : Word) : Bool :=
  if selRpl sel = s.cpl then !iret || s.stackHolds 6 else s.stackHolds (8 + n.toNat)

/-- Far RET and IRET in protected mode. -/
def returnBy (s : State) (iret : Bool) (n : Word) : Exe State :=
  check (s.readFault .ss (s.regs.sp + 2) 2) >>= fun _ =>
    let sel := s.stackWord (s.regs.sp + 2)
    ensure (decide (s.cpl ≤ selRpl sel)) (Exc.gp (selCode sel false)) >>= fun _ => s.afterBus fun s =>
      ensure (frameHolds s iret sel n) (Exc.ss 0) >>= fun _ =>
        s.returnCode sel >>= fun d => returnFinish s iret sel n d

/-- The frame's checks and the way of the level, from either form of return. -/
theorem returnBy_of {s : State} {iret : Bool} {n : Word} {same outer : State → Word → Exe State}
    (hsame : ∀ s sel, same s sel = ensure (!iret || s.stackHolds 6) (Exc.ss 0) >>= fun _ =>
      s.returnCode sel >>= fun d => sameFinish s iret sel n d)
    (houter : ∀ s sel, outer s sel = ensure (s.stackHolds (8 + n.toNat)) (Exc.ss 0) >>= fun _ =>
      s.returnCode sel >>= fun d => s.afterBus fun s => s.outerStack sel (s.regs.sp + 6 + n) fun stack ssSel u =>
        outerLast iret sel n s.regs.sp d stack ssSel u) :
    (check (s.readFault .ss (s.regs.sp + 2) 2) >>= fun _ =>
      let sel := s.stackWord (s.regs.sp + 2)
      ensure (decide (s.cpl ≤ selRpl sel)) (Exc.gp (selCode sel false)) >>= fun _ => s.afterBus fun s =>
        if selRpl sel = s.cpl then same s sel else outer s sel) = returnBy s iret n := by
  rw [returnBy]
  refine congrArg (check _ >>= ·) (funext fun _ => congrArg (ensure _ _ >>= ·) (funext fun _ =>
    congrArg s.afterBus (funext fun u => ?_)))
  rw [hsame, houter]
  simp only [frameHolds, returnFinish]
  split_ifs <;> rfl

theorem retFarBy_eq {s : State} (hprot : s.prot = true) (n : Word) : s.retFarBy n = returnBy s false n := by
  rw [State.retFarBy, if_pos hprot]
  exact returnBy_of (same := fun s sel => s.retSame sel n) (outer := fun s sel => s.retOuter sel n)
    (fun _ _ => rfl) (fun _ _ => rfl)

theorem iretProt_eq {s : State} (hnt : s.flags.nt = false) : s.iretProt = returnBy s true 2 := by
  have h8 : ∀ s : State, s.regs.sp + 8 = s.regs.sp + 6 + 2 := fun s => by
    rw [BitVec.add_assoc]
    rfl
  rw [State.iretProt, if_neg (Bool.eq_false_iff.mp hnt)]
  refine returnBy_of (same := State.iretSame) (outer := State.iretOuter) (fun _ _ => rfl) fun s sel => ?_
  rw [State.iretOuter]
  simp only [h8]
  rfl

/-! ### Where a return fails (44 R420, R421; 45 R455-R457) -/

/-- The selector of CS in the frame of a return. -/
def frameSel (s : State) : Word := s.load .word s.ss (s.regs.sp + 2)

theorem frameHolds_iff (s : State) (iret : Bool) (sel n : Word) : frameHolds s iret sel n = true ↔
    if sel.toNat % 4 = s.cpl then iret = true → s.readFault .ss s.regs.sp 6 = none
    else s.readFault .ss s.regs.sp (8 + n.toNat) = none := by
  show (if sel.toNat % 4 = s.cpl then _ else _ : Bool) = true ↔ _
  split_ifs
  · cases iret <;> simp [State.stackHolds]
  · exact Option.isNone_iff_eq_none

section
variable {s : State} {iret : Bool} {n : Word}

theorem returnBy_unread {e : Exc} (h : s.readFault .ss (s.regs.sp + 2) 2 = some e) : Fails s (returnBy s iret n) e := by
  rw [returnBy, h]
  exact fails_exc s e

variable (hread : s.readFault .ss (s.regs.sp + 2) 2 = none)
include hread

theorem returnBy_inward (h : (frameSel s).toNat % 4 < s.cpl) :
    Fails s (returnBy s iret n) (Exc.gp (frameSel s &&& 0xFFFC#16)) := by
  rw [returnBy, hread, ← selCode_false]
  exact fails_ensure s (decide_eq_false (Nat.not_le.mpr h)) _ _

variable (hlevel : s.cpl ≤ (frameSel s).toNat % 4)
include hlevel

theorem returnBy_outward : returnBy s iret n = s.afterBus fun s' =>
    ensure (frameHolds s' iret (frameSel s) n) (Exc.ss 0) >>= fun _ =>
      s'.returnCode (frameSel s) >>= fun d => returnFinish s' iret (frameSel s) n d := by
  rw [returnBy, hread]
  exact ensure_bind (c := decide (s.cpl ≤ selRpl (frameSel s))) (decide_eq_true hlevel) _ _

variable (hquiet : s.Quiet)
include hquiet

theorem returnBy_frame (h : ¬ frameHolds s iret (frameSel s) n = true) : Fails s (returnBy s iret n) (Exc.ss 0) := by
  rw [returnBy_outward hread hlevel]
  exact fails_afterBus hquiet (fails_ensure s (Bool.eq_false_iff.mpr h) _ _)

/-- What is left once the frame has been checked. -/
theorem complete_framed (h : frameHolds s iret (frameSel s) n = true) :
    complete s (returnBy s iret n) = complete s (selected s (frameSel s) (codeTest ((frameSel s).toNat % 4)) >>=
      fun d => returnFinish s iret (frameSel s) n d) := by
  rw [returnBy_outward hread hlevel, complete_afterBus hquiet, ensure_bind h]
  rfl

end

/-- The code segment a return names, once it has been found. -/
theorem complete_returnTo {s : State} {iret : Bool} {n : Word} (hread : s.readFault .ss (s.regs.sp + 2) 2 = none)
    (hlevel : s.cpl ≤ (frameSel s).toNat % 4) (hquiet : s.Quiet) (h : frameHolds s iret (frameSel s) n = true)
    {code : Desc} (hcode : s.Named (frameSel s) code) (hruns : code.RunsAt ((frameSel s).toNat % 4)) :
    complete s (returnBy s iret n) = complete s (returnFinish s iret (frameSel s) n code) := by
  obtain ⟨hp, hseg, hbit, hfits⟩ := hruns
  have htest : codeTest ((frameSel s).toNat % 4) code = true := (codeTest_iff _ _).mpr ⟨hseg, hbit, hfits⟩
  rw [complete_framed hread hlevel hquiet h, selected_ok _ hcode.1 (testSel_found hcode htest hp), exe_bind_ok]

theorem sameFinish_unread {s : State} {sel n : Word} {code : Desc} {e : Exc}
    (h : s.readFault .ss s.regs.sp 2 = some e) : Fails s (sameFinish s false sel n code) e := by
  rw [sameFinish, h]
  exact fails_exc s e

section
variable {s : State} (hquiet : s.Quiet) {iret : Bool} {n : Word} {code : Desc}
include hquiet

theorem sameFinish_offset {sel : Word} (h : iret = false → s.readFault .ss s.regs.sp 2 = none)
    (hoff : code.word0.toNat < (s.load .word s.ss s.regs.sp).toNat) :
    Fails s (sameFinish s iret sel n code) (Exc.gp 0) := by
  have hfalse : code.hasOffset (s.stackWord s.regs.sp) = false := decide_eq_false (Nat.not_le.mpr hoff)
  have hfails : ∀ g : State → Unit → Exe State, Fails s (s.afterBus fun u =>
      ensure (code.hasOffset (u.stackWord s.regs.sp)) (Exc.gp 0) >>= g u) (Exc.gp 0) := fun g =>
    fails_afterBus hquiet (fails_ensure s hfalse _ (g s))
  cases iret with
  | true =>
    rw [sameFinish, if_pos rfl]
    exact hfails _
  | false =>
    rw [sameFinish, if_neg Bool.false_ne_true, h rfl, check_none, exe_bind_ok]
    exact hfails _

theorem outerStack_fails {α : Type} {sel off : Word} {f : Desc → Word → State → Exe α} {e : Exc}
    (h : Fails s (selected s (s.load .word s.ss off) (stackTest (sel.toNat % 4) (s.load .word s.ss off))) e) :
    Fails s (s.outerStack sel off f) e :=
  fails_afterBus hquiet (h.bind _)

theorem outerStack_found {α : Type} {sel off : Word} {stack : Desc} (f : Desc → Word → State → Exe α)
    (h : selected s (s.load .word s.ss off) (stackTest (sel.toNat % 4) (s.load .word s.ss off)) = .ok stack) :
    s.outerStack sel off f = s.afterBus fun u => u.afterBus (f stack (s.load .word s.ss off)) := by
  rw [State.outerStack, State.afterBus, State.afterBus, State.afterReads_quiet hquiet, State.afterReads_quiet hquiet,
    returnStack_eq]
  exact congrArg (fun m : Exe Desc => keepBus s (m >>= fun stack => s.afterBus (f stack (s.load .word s.ss off)))) h

end

theorem exec_iret {s : State} (hprot : s.prot = true) : exec .iret s = complete s s.iretProt :=
  congrArg (complete s) (if_pos hprot)

/-- A return in protected mode: far RET, or IRET with NT = 0, whose frame holds the flags as well. -/
def ReturnForm (s : State) (i : Instr) (iret : Bool) (n : Word) : Prop :=
  (i = .retFar ∧ iret = false ∧ n = 0) ∨ (i = .retFarImm n ∧ iret = false) ∨
    (i = .iret ∧ iret = true ∧ n = 2 ∧ s.flags.nt = false)

theorem exec_return {s : State} {i : Instr} {iret : Bool} {n : Word} (h : ReturnForm s i iret n)
    (hprot : s.prot = true) :
    exec i s = complete s (returnBy s iret n) := by
  rcases h with ⟨rfl, rfl, rfl⟩ | ⟨rfl, rfl⟩ | ⟨rfl, rfl, rfl, hnt⟩
  · rw [exec_retFar (.inl ⟨rfl, rfl⟩), retFarBy_eq hprot]
  · rw [exec_retFar (.inr rfl), retFarBy_eq hprot]
  · rw [exec_iret hprot, iretProt_eq hnt]

section
variable {s : State} {iret : Bool} {n : Word} {code : Desc}

theorem returnFinish_same {sel : Word} (h : sel.toNat % 4 = s.cpl) :
    returnFinish s iret sel n code = sameFinish s iret sel n code := if_pos h

theorem returnFinish_outer {sel : Word} (h : s.cpl < sel.toNat % 4) : returnFinish s iret sel n code =
    s.afterBus fun s => s.outerStack sel (s.regs.sp + 6 + n) fun stack ssSel u =>
      outerLast iret sel n s.regs.sp code stack ssSel u := if_neg h.ne'

variable (hquiet : s.Quiet)
include hquiet

/-- The stack selector of a return to an outer level does not name a stack of that level. -/
theorem returnFinish_stack {sel : Word} (h : s.cpl < sel.toNat % 4) {e : Exc}
    (he : Fails s (selected s (s.load .word s.ss (s.regs.sp + 6 + n))
      (stackTest (sel.toNat % 4) (s.load .word s.ss (s.regs.sp + 6 + n)))) e) :
    Fails s (returnFinish s iret sel n code) e := by
  rw [returnFinish_outer h]
  exact fails_afterBus hquiet (outerStack_fails hquiet he)

/-- A return to an outer level whose segments have been found. -/
theorem returnFinish_found {sel : Word} (h : s.cpl < sel.toNat % 4) {stack : Desc}
    (hstack : s.Named (s.load .word s.ss (s.regs.sp + 6 + n)) stack)
    (hof : stack.StackOf (s.load .word s.ss (s.regs.sp + 6 + n)) (sel.toNat % 4)) :
    complete s (returnFinish s iret sel n code) =
      complete s (outerLast iret sel n s.regs.sp code stack (s.load .word s.ss (s.regs.sp + 6 + n)) s) := by
  obtain ⟨hp, hseg, hdata, hwrite, hdpl, hrpl⟩ := hof
  have htest := (stackTest_iff _ _ stack).mpr ⟨hrpl, hseg, hdata, hwrite, hdpl⟩
  rw [returnFinish_outer h, complete_afterBus hquiet,
    outerStack_found hquiet _ (selected_ok _ hstack.1 (testSel_found hstack htest hp)), complete_afterBus hquiet,
    complete_afterBus hquiet]

end

/-- IRET with NT = 1, the back link in reach. -/
theorem exec_iretTask {s : State} (hprot : s.prot = true) (hquiet : s.Quiet) (hnt : s.flags.nt = true)
    (hlimit : 1 ≤ s.tr.limit.toNat) :
    let link := s.wordAt s.tr.base.toNat
    exec .iret s = complete s (orExc (s.testSel link (tssTest true link)) (Exc.ts (link &&& 0xFFFC#16))
      (Exc.np (link &&& 0xFFFC#16)) >>= fun d => s.endNmi.switchTasks .iret link d s.ip false >>= fun t =>
        t.taskIpCheck false) := by
  intro link
  rw [exec_iret hprot, State.iretProt, if_pos hnt, State.iretTask, ensure_bind (decide_eq_true hlimit),
    complete_afterBus hquiet, selCode_false]

/-- Settles O36: the listing's checks one by one; for IRET with NT = 1 those of the back link. -/
theorem returnFaults : Obligations.ReturnFaults := by
  unfold Obligations.ReturnFaults
  refine ⟨fun i iret n s hform hprot hquiet => ?_, fun s hprot hquiet hnt hlimit => ?_⟩
  · intro sp ip sel level wrong
    rw [exec_return hform hprot]
    refine ⟨fun e he => (returnBy_unread he).complete (accessFault_vector he), fun hread => ?_⟩
    intro holds
    refine ⟨fun h => (returnBy_inward hread h).complete (gp_vector _), fun hlevel hnot => ?_, fun hlevel hholds => ?_⟩
    · exact (returnBy_frame hread hlevel hquiet fun h => hnot ((frameHolds_iff s iret sel n).mp h)).complete
        (ss_vector _)
    · have hframe := (frameHolds_iff s iret sel n).mpr hholds
      rw [complete_framed hread hlevel hquiet hframe]
      refine ⟨fun hnull => ?_, fun hsel hnone => ?_, fun code hcode => ?_⟩
      · exact ((selected_null _ hnull).bind _).complete (gp_vector _)
      · exact ((selected_bad _ hsel (testSel_unnamed (.inr hnone) _)).bind _).complete (gp_vector _)
      · intro fits
        have hfits : codeTest level code = true ↔ fits := codeTest_iff level code
        refine ⟨fun hnot => ?_, fun hyes hp => ?_, fun hruns hsame => ?_, fun hruns houter => ?_⟩
        · exact ((selected_bad _ hcode.1 (testSel_wrong hcode fun h => hnot (hfits.mp h))).bind _).complete
            (gp_vector _)
        · exact ((selected_absent _ hcode.1 (testSel_absent hcode (hfits.mpr hyes) hp)).bind _).complete (np_vector _)
        · rw [← complete_framed hread hlevel hquiet hframe,
            complete_returnTo hread hlevel hquiet hframe hcode hruns,
            returnFinish_same (sel := frameSel s) hsame]
          refine ⟨fun hret e he => ?_, fun hread' hoff => ?_⟩
          · subst hret
            exact (sameFinish_unread he).complete (accessFault_vector he)
          · exact (sameFinish_offset hquiet hread' hoff).complete (gp_vector _)
        · intro ssSel wrongStack
          rw [← complete_framed hread hlevel hquiet hframe, complete_returnTo hread hlevel hquiet hframe hcode hruns]
          refine ⟨fun hnull => ?_, fun hsel hnone => ?_, fun stack hstack => ?_⟩
          · exact (returnFinish_stack hquiet houter (selected_null _ hnull)).complete (gp_vector _)
          · exact (returnFinish_stack hquiet houter (selected_bad _ hsel (testSel_unnamed (.inr hnone) _))).complete
              (gp_vector _)
          · intro fitsStack
            have hfits : stackTest level ssSel stack = true ↔ fitsStack := stackTest_iff level ssSel stack
            refine ⟨fun hnot => ?_, fun hyes hp => ?_, fun hof hoff => ?_⟩
            · exact (returnFinish_stack hquiet houter (selected_bad _ hstack.1
                (testSel_wrong hstack fun h => hnot (hfits.mp h)))).complete (gp_vector _)
            · exact (returnFinish_stack hquiet houter (selected_absent _ hstack.1
                (testSel_absent hstack (hfits.mpr hyes) hp))).complete (np_vector _)
            · rw [returnFinish_found (sel := frameSel s) hquiet houter hstack hof]
              exact (fails_ensure s (decide_eq_false (Nat.not_le.mpr hoff)) _ _).complete (gp_vector _)
  · intro link wrong
    have hexec := exec_iretTask hprot hquiet hnt hlimit
    have hwrong : s.testSel link (tssTest true link) = .error .bad → exec .iret s = wrong := fun h => by
      rw [hexec]
      exact ((orExc_bad s h _ _).bind _).complete (ts_vector _)
    refine ⟨fun h => hwrong ?_, fun d hd hlocal => ⟨fun h => hwrong (testSel_wrong hd fun htest => ?_),
      fun hsys htype hp => ?_⟩⟩
    · by_cases hnamed : link.toNat < 4 ∨ s.fetchDesc link = none
      · exact testSel_unnamed hnamed _
      · obtain ⟨hsel, hsome⟩ := not_or.mp hnamed
        obtain ⟨d, hd⟩ := Option.ne_none_iff_exists'.mp hsome
        have hlocal : link.getLsbD 2 = true := (h.resolve_left hsel).resolve_right hsome
        exact testSel_wrong ⟨Nat.not_lt.mp hsel, hd⟩ fun htest =>
          Bool.eq_false_iff.mp ((tssTest_iff true link d).mp htest).1 hlocal
    · obtain ⟨-, hsys, htype⟩ := (tssTest_iff true link d).mp htest
      exact h.elim (Bool.eq_false_iff.mp hsys) fun hne => hne htype
    · rw [hexec]
      exact ((orExc_absent s (testSel_absent hd ((tssTest_iff true link d).mpr ⟨hlocal, hsys, htype⟩) hp) _ _).bind
        _).complete (np_vector _)

/-! ### What a return leaves (44 R420-R422, 45 R455-R457) -/

/-- A return to the same level. -/
def returnedSame (s : State) (iret : Bool) (sel n : Word) (d : Desc) : State :=
  if iret then
    ((((s.dropStack 6).setFlags (s.flags.pop s.prot s.cpl (s.stackWord (s.regs.sp + 4)))).enterCode d sel s.cpl
      (s.stackWord s.regs.sp))).endNmi
  else (s.dropStack (4 + n)).enterCode d sel s.cpl (s.stackWord s.regs.sp)

/-- A return to an outer level. -/
def returnedOuter (s : State) (iret : Bool) (sel n : Word) (code stack : Desc) (ssSel : Word) : State :=
  if iret then
    ((s.setFlags (s.flags.pop s.prot s.cpl (s.stackWord (s.regs.sp + 4)))).returnOuter code sel (s.stackWord s.regs.sp)
      stack ssSel (s.stackWord (s.regs.sp + 6))).endNmi
  else
    s.returnOuter code sel (s.stackWord s.regs.sp) stack ssSel (outerSp (s.stackWord (s.regs.sp + 4 + n)) n)

section
variable {s : State} (hquiet : s.Quiet) {iret : Bool} {n : Word} {code : Desc}
include hquiet

theorem sameFinish_ok {sel : Word} (h : iret = false → s.readFault .ss s.regs.sp 2 = none)
    (hoff : (s.load .word s.ss s.regs.sp).toNat ≤ code.word0.toNat) :
    sameFinish s iret sel n code = .ok (returnedSame s iret sel n code) := by
  have htrue : code.hasOffset (s.stackWord s.regs.sp) = true := decide_eq_true hoff
  have hdropped : ∀ k f, ((s.dropStack k).setFlags f).Quiet ∧ (s.dropStack k).Quiet := fun _ _ => ⟨hquiet, hquiet⟩
  cases iret with
  | true =>
    rw [sameFinish, if_pos rfl]
    refine afterBus_ok hquiet ?_
    rw [ensure_bind htrue, State.yieldBus_quiet hquiet]
    dsimp only
    rw [State.yieldBus_quiet (hdropped _ _).1]
    rfl
  | false =>
    rw [sameFinish, if_neg Bool.false_ne_true, h rfl, check_none, exe_bind_ok]
    refine afterBus_ok hquiet ?_
    rw [ensure_bind htrue, State.yieldBus_quiet (hdropped _ s.flags).2]
    rfl

theorem outerLast_ok {sel ssSel : Word} (stack : Desc) (hoff : (s.load .word s.ss s.regs.sp).toNat ≤ code.word0.toNat) :
    outerLast iret sel n s.regs.sp code stack ssSel s = .ok (returnedOuter s iret sel n code stack ssSel) := by
  have htrue : code.hasOffset (s.stackWord s.regs.sp) = true := decide_eq_true hoff
  rw [outerLast, ensure_bind htrue, State.yields_quiet hquiet, State.yields_quiet hquiet, State.yieldBus_quiet hquiet]
  cases iret <;> rfl

end

/-- A return that loads CS:IP on the same level. -/
theorem dropped_spec {s : State} {d : Desc} (hdesc : s.byteAt (d.addr + 5) = d.ar) {sel : Word}
    (hsame : sel.toNat % 4 = s.cpl) (n off : Word) :
    let t := (s.dropStack n).enterCode d sel s.cpl off
    t = { s.at off with cs := d.cached sel, regs := s.regs.set .sp (s.regs.sp + n), mem := t.mem, writes := t.writes } ∧
      t.byteAt (d.addr + 5) = d.ar ||| 1#8 ∧ s.MemoryKept t [s.physAddr (d.addr + 5)] := by
  have h := jumped_spec (s := s.dropStack n) hdesc sel s.cpl off
  rw [show withLevel sel s.cpl = sel from hsame ▸ withLevel_self sel] at h
  exact h

theorem keepsData_iff (s : State) (g : Segment) (level : Nat) : s.keepsData g level = true ↔ s.OuterMayUse g level := by
  rw [State.keepsData, Bool.and_eq_true, Bool.and_eq_true, Bool.and_eq_true, Bool.and_eq_true, Bool.or_eq_true,
    Bool.and_eq_true, decide_eq_true_iff, decide_eq_true_iff, rightsReadable_iff, rightsConforming_iff, and_assoc,
    and_assoc, and_assoc]
  rfl

/-- DS or ES after a return to an outer level. -/
def trimmed (s : State) (g : Segment) (level : Nat) : Segment := if s.keepsData g level then g else Segment.invalid 0

theorem trimData_eq (s : State) (r : SReg) (level : Nat) :
    s.trimData r level = s.setSeg r (trimmed s (s.seg r) level) := by
  rw [State.trimData, trimmed]
  split_ifs
  · cases r <;> rfl
  · rfl

theorem trimmed_spec (s : State) (g : Segment) (level : Nat) :
    (s.OuterMayUse g level → trimmed s g level = g) ∧
    (¬ s.OuterMayUse g level → (trimmed s g level).sel = 0 ∧ (trimmed s g level).valid = false) := by
  rw [← keepsData_iff, trimmed]
  refine ⟨fun h => if_pos h, fun h => ?_⟩
  rw [if_neg h]
  exact ⟨rfl, rfl⟩

/-- CS and SS loaded, then ES and DS kept or invalid. -/
theorem returnOuter_eq {s : State} (hquiet : s.Quiet) (code stack : Desc) (sel ip ssSel sp : Word) :
    s.returnOuter code sel ip stack ssSel sp = { (onStack s code sel stack ssSel sp).at ip with
      es := trimmed s s.es (sel.toNat % 4), ds := trimmed s s.ds (sel.toNat % 4) } := by
  have hcs : (s.loadSeg .cs code (selWithRpl sel (selRpl sel))).Quiet := hquiet
  rw [State.returnOuter, State.yieldBus_quiet hquiet, State.yieldBus_quiet hcs, selWithRpl_eq, trimData_eq, trimData_eq,
    show withLevel sel (selRpl sel) = sel from withLevel_self sel]
  obtain ⟨v, hv⟩ : ∃ v, onStack s code sel stack ssSel sp = v := ⟨_, rfl⟩
  have hveq := onStack_eq s code stack sel ssSel sp
  rw [hv] at hveq ⊢
  have htrim : ∀ g, trimmed v g (sel.toNat % 4) = trimmed s g (sel.toNat % 4) := fun g => by
    rw [hveq]
    rfl
  have hes : v.es = s.es := by rw [hveq]
  have hds : v.ds = s.ds := by rw [hveq]
  rw [← htrim, ← htrim, ← hes, ← hds, ← hv]
  rfl

theorem returnOuter_spec {s : State} (hquiet : s.Quiet) {code stack : Desc} (hcode : s.byteAt (code.addr + 5) = code.ar)
    (hstack : s.byteAt (stack.addr + 5) = stack.ar) (sel ip ssSel sp : Word) :
    s.ReturnedOuter (s.returnOuter code sel ip stack ssSel sp) code sel ip stack ssSel ∧
      (s.returnOuter code sel ip stack ssSel sp).regs.sp = sp := by
  have hloaded := onStack_eq s code stack sel ssSel sp
  have hbytes := onStack_byteAt (s := s) sel ssSel sp hcode hstack
  have hkept := onStack_kept s code stack sel ssSel sp
  rw [returnOuter_eq hquiet]
  obtain ⟨v, hv⟩ : ∃ v, onStack s code sel stack ssSel sp = v := ⟨_, rfl⟩
  rw [hv] at hloaded hbytes hkept ⊢
  have hsp : v.regs.sp = sp := by
    rw [hloaded]
    rfl
  refine ⟨⟨?_, ?_, hbytes code (.inl rfl), hbytes stack (.inr rfl), hkept⟩, hsp⟩
  · have hloaded' : v = { s with
        cs := code.cached sel, ss := stack.cached ssSel, regs := { s.regs with sp := v.regs.sp }
        mem := v.mem, writes := v.writes, fetch := v.fetch } := by
      rw [hsp]
      exact hloaded
    exact (congrArg (fun u : State => { u.at ip with
      es := trimmed s s.es (sel.toNat % 4), ds := trimmed s s.ds (sel.toNat % 4) }) hloaded' :)
  · rintro r (rfl | rfl)
    · exact trimmed_spec s s.es _
    · exact trimmed_spec s s.ds _

/-- The end of NMI's masking is no part of a return's own changes. -/
theorem returnedOuter_endNmi {s t : State} {code : Desc} {sel ip : Word} {stack : Desc} {ssSel : Word}
    (h : s.ReturnedOuter t code sel ip stack ssSel) :
    ({ s with nmiInService := false } : State).ReturnedOuter t.endNmi code sel ip stack ssSel := by
  obtain ⟨ht, hdata, hcode, hstack, hkept⟩ := h
  exact ⟨congrArg State.endNmi ht, hdata, hcode, hstack, hkept⟩

theorem inLimit_inside {g : Segment} {off : Word} {k m n : Nat} (h : g.inLimit off n = true) (hk : k + m ≤ n)
    (hm : 0 < m) : g.inLimit (off + BitVec.ofNat 16 k) m = true := by
  have hlimit := g.limit.isLt
  cases hdown : rightsExpandDown g.rights
  · rw [inLimit_up hdown] at h ⊢
    rw [BitVec.toNat_add, BitVec.toNat_ofNat]
    omega
  · rw [inLimit_down hdown] at h ⊢
    rw [BitVec.toNat_add, BitVec.toNat_ofNat]
    omega

/-- In protected mode each part of a range that can be read can be read. -/
theorem readFault_inside {s : State} (hprot : s.prot = true) {r : SReg} {off : Word} {k m n : Nat}
    (h : s.readFault r off n = none) (hk : k + m ≤ n) (hm : 0 < m) :
    s.readFault r (off + BitVec.ofNat 16 k) m = none := by
  rw [State.readFault, accessFault_prot hprot] at h ⊢
  split_ifs at h with hallowed hin
  rw [if_pos hallowed, if_pos (inLimit_inside hin hk hm)]

theorem outerSp_cases (saved n : Word) : outerSp saved n = saved ∨ outerSp saved n = saved + n := by
  rw [outerSp]
  split_ifs
  · exact .inr rfl
  · exact .inl rfl

/-- Settles O35: the frame, the segments, then what the return leaves. -/
theorem farReturnProtected : Obligations.FarReturnProtected := by
  unfold Obligations.FarReturnProtected
  intro i n code s hi hprot hquiet sp ip sel hcode hruns hoff
  have hexec : exec i s = complete s (returnBy s false n) := by
    rw [exec_retFar hi, retFarBy_eq hprot]
  refine ⟨fun hsame hread hread2 => ?_, fun stack houter hread => ?_⟩
  · have hframe : frameHolds s false sel n = true := by
      rw [frameHolds_iff, if_pos hsame]
      exact fun h => Bool.noConfusion h
    rw [hexec, complete_returnTo hread2 hsame.ge hquiet hframe hcode hruns, returnFinish_same (sel := frameSel s) hsame,
      sameFinish_ok hquiet (fun _ => hread) hoff]
    have hspec := dropped_spec (fetchDesc_ar hcode.2) hsame (4 + n) ip
    rw [← BitVec.add_assoc] at hspec
    exact ⟨_, rfl, hspec⟩
  · intro ssSel hstack hof
    have hframe : frameHolds s false sel n = true := by
      rw [frameHolds_iff, if_neg houter.ne']
      exact hread
    have hread2 := readFault_inside hprot (k := 2) (m := 2) hread (by omega) (by norm_num)
    obtain ⟨hspec, hsp⟩ := returnOuter_spec hquiet (fetchDesc_ar hcode.2) (fetchDesc_ar hstack.2) sel ip ssSel
      (outerSp (s.stackWord (s.regs.sp + 4 + n)) n)
    rw [hexec, complete_returnTo hread2 houter.le hquiet hframe hcode hruns,
      returnFinish_found (sel := frameSel s) hquiet houter hstack hof, outerLast_ok hquiet stack hoff]
    refine ⟨_, rfl, hspec, ?_⟩
    exact (outerSp_cases (s.stackWord (s.regs.sp + 4 + n)) n).imp hsp.trans hsp.trans

/-- Settles O42: the three words in real mode; in protected mode the returns of far RET with the flags. -/
theorem interruptReturn : Obligations.InterruptReturn := by
  unfold Obligations.InterruptReturn
  intro s hquiet sp ip sel v f s'
  have hflags : s.flags.pop s.prot s.cpl v = f := flags_pop s.flags s.prot s.cpl v
  refine ⟨fun hreal h₀ h₂ h₄ => ?_, fun hreal hsp => ?_, fun hprot hnt code hcode hruns hoff =>
    ⟨fun hsame hread hread2 => ?_, fun stack houter hread hread2 => ?_⟩⟩
  · have hexec : exec .iret s = complete s s.iretReal := congrArg (complete s) (if_neg (Bool.eq_false_iff.mp hreal))
    rw [hexec, State.iretReal]
    dsimp only
    rw [s.popCheck_ok _ h₀, s.popCheck_ok _ h₂, s.popCheck_ok _ h₄, State.yields_quiet hquiet,
      State.yields_quiet hquiet, show s.flags.pop s.prot s.cpl (s.stackWord (s.regs.sp + 4)) = f from hflags]
    exact ⟨_, rfl, realLoad_ofReal sel⟩
  · have hexec : exec .iret s = complete s s.iretReal := congrArg (complete s) (if_neg (Bool.eq_false_iff.mp hreal))
    rw [hexec, State.iretReal]
    dsimp only
    rcases hsp with h | h | h
    · rw [show s.regs.sp = 0xFFFF#16 from h]
      exact complete_popCheck_wraps hreal _
    · rw [show s.regs.sp = 0xFFFD#16 from h, popCheck_real_ok hreal (by decide)]
      exact complete_popCheck_wraps hreal _
    · rw [show s.regs.sp = 0xFFFB#16 from h, popCheck_real_ok hreal (by decide), popCheck_real_ok hreal (by decide)]
      exact complete_popCheck_wraps hreal _
  · have hframe : frameHolds s true sel 2 = true := by
      rw [frameHolds_iff, if_pos hsame]
      exact fun _ => hread
    rw [exec_iret hprot, iretProt_eq hnt, complete_returnTo hread2 hsame.ge hquiet hframe hcode hruns,
      returnFinish_same (sel := frameSel s) hsame, sameFinish_ok hquiet (fun h => Bool.noConfusion h) hoff]
    obtain ⟨ht, hbyte, hkept⟩ := dropped_spec (s := s) (fetchDesc_ar hcode.2) hsame 6 ip
    have hreturned : returnedSame s true sel 2 code =
        { (s.dropStack 6).enterCode code sel s.cpl ip with flags := f, nmiInService := false } :=
      (congrArg (fun g : Flags => (((s.dropStack 6).setFlags g).enterCode code sel s.cpl ip).endNmi) hflags :)
    refine ⟨_, congrArg Host.Outcome.next hreturned, ?_, hbyte, hkept⟩
    exact (congrArg (fun u : State => { u with flags := f, nmiInService := false }) ht :)
  · intro ssSel hstack hof
    have hframe : frameHolds s true sel 2 = true := by
      rw [frameHolds_iff, if_neg houter.ne']
      exact hread
    have h8 : s.regs.sp + 8 = s.regs.sp + 6 + 2 := by
      rw [BitVec.add_assoc]
      rfl
    obtain ⟨hspec, hsp⟩ := returnOuter_spec (s := s.setFlags f) hquiet (fetchDesc_ar hcode.2) (fetchDesc_ar hstack.2)
      sel ip ssSel (s.stackWord (s.regs.sp + 6))
    have hexec : exec .iret s = complete s (outerLast true sel 2 s.regs.sp code stack ssSel s) := by
      have hsel : ssSel = s.load .word s.ss (s.regs.sp + 6 + 2) := congrArg (s.load .word s.ss) h8
      rw [hsel] at hstack hof ⊢
      rw [exec_iret hprot, iretProt_eq hnt, complete_returnTo hread2 houter.le hquiet hframe hcode hruns]
      exact returnFinish_found (sel := frameSel s) hquiet houter hstack hof
    rw [hexec, outerLast_ok hquiet stack hoff]
    have hreturned : returnedOuter s true sel 2 code stack ssSel =
        ((s.setFlags f).returnOuter code sel ip stack ssSel (s.stackWord (s.regs.sp + 6))).endNmi :=
      (congrArg (fun g : Flags =>
        ((s.setFlags g).returnOuter code sel ip stack ssSel (s.stackWord (s.regs.sp + 6))).endNmi) hflags :)
    exact ⟨_, congrArg Host.Outcome.next hreturned, returnedOuter_endNmi hspec, hsp⟩

end Sys2Proof.Proofs.Other
end

section
/-! The commit of a task switch: what is saved, marked and loaded (44 R440, R441). -/

namespace Sys2Proof.Proofs.Other

open Sys2Proof Sys2Proof.Machine

set_option Elab.async false

/-! ### Words of memory -/

theorem physAddr_near_ne (s : State) (hd : s.LowDecoded) {a b : Nat} (hlt : a < b) (hnear : b < a + 2 ^ 16) :
    s.physAddr a ≠ s.physAddr b := by
  intro h
  have ha := s.physAddr_low hd a
  have hb := s.physAddr_low hd b
  rw [h] at ha
  omega

theorem wordAt_kept {s t : State} {l : List Nat} (h : s.MemoryKept t l) {a : Nat} (h₀ : s.physAddr a ∉ l)
    (h₁ : s.physAddr (a + 1) ∉ l) : t.wordAt a = s.wordAt a := by
  rw [State.wordAt, State.wordAt, h _ h₀, h _ h₁]

theorem putWord_eq (s : State) (a : Nat) (v : Word) : s.putWord a v = { s with
    mem := (s.putWord a v).mem, writes := (s.putWord a v).writes, fetch := (s.putWord a v).fetch } := rfl

/-- Words stored at offsets from a base, the first of the list first. -/
def storeWords (b : Nat) (l : List (Nat × Word)) (s : State) : State :=
  l.foldl (fun t x => t.putWord (b + x.1) x.2) s

theorem storeWords_eq (b : Nat) : ∀ (l : List (Nat × Word)) (s : State), storeWords b l s = { s with
    mem := (storeWords b l s).mem, writes := (storeWords b l s).writes, fetch := (storeWords b l s).fetch }
  | [], _ => rfl
  | x :: l, s => storeWords_eq b l (s.putWord (b + x.1) x.2)

/-- The cells of such words. -/
def wordCells (s : State) (b : Nat) (l : List (Nat × Word)) : List Nat :=
  l.flatMap fun x => [s.physAddr (b + x.1), s.physAddr (b + x.1 + 1)]

theorem storeWords_kept (b : Nat) : ∀ (l : List (Nat × Word)) (s : State),
    s.MemoryKept (storeWords b l s) (wordCells s b l)
  | [], _ => fun _ _ => rfl
  | x :: l, s => by
    have h := (s.putWord_kept (b + x.1) x.2).trans (storeWords_kept b l (s.putWord (b + x.1) x.2))
    exact h

/-- Each word can be read back, none overlapping a later one. -/
theorem storeWords_word (b : Nat) : ∀ (l : List (Nat × Word)) (s : State), s.LowDecoded →
    l.Pairwise (fun x y => x.1 + 2 ≤ y.1) → (∀ x ∈ l, x.1 < 2 ^ 15) →
    ∀ x ∈ l, (storeWords b l s).wordAt (b + x.1) = x.2
  | [], _, _, _, _, _, hx => absurd hx List.not_mem_nil
  | y :: l, s, hd, hsorted, hsmall, x, hx => by
    rw [List.pairwise_cons] at hsorted
    obtain ⟨hfirst, hrest⟩ := hsorted
    rcases List.mem_cons.mp hx with rfl | hin
    · have hkept := storeWords_kept b l (s.putWord (b + x.1) x.2)
      have apart : ∀ i < 2, s.physAddr (b + x.1 + i) ∉ wordCells s b l := fun i hi hin => by
        obtain ⟨y, hy, hcell⟩ := List.mem_flatMap.mp hin
        have hge := hfirst y hy
        have hlt := hsmall y (List.mem_cons_of_mem _ hy)
        simp only [List.mem_cons, List.not_mem_nil, or_false] at hcell
        rcases hcell with h | h
        · exact physAddr_near_ne s hd (by omega) (by omega) h
        · exact physAddr_near_ne s hd (by omega) (by omega) h
      exact (wordAt_kept hkept (apart 0 (by norm_num)) (apart 1 (by norm_num))).trans (s.wordAt_putWord hd _ _)
    · exact storeWords_word b l (s.putWord (b + y.1) y.2) hd hrest
        (fun z hz => hsmall z (List.mem_cons_of_mem _ hz)) x hin

theorem foldl_yield_eq (b : Nat) : ∀ (l : List (Nat × Word)) (s : State), s.Quiet →
    l.foldl (fun t x => (t.putWord (b + x.1) x.2).yieldBus) s = storeWords b l s
  | [], _, _ => rfl
  | x :: l, s, h => by
    have hq : (s.putWord (b + x.1) x.2).Quiet := h
    rw [List.foldl_cons, State.yieldBus_quiet hq]
    exact foldl_yield_eq b l _ hq

/-! ### The old task's image (44 R440 step 2) -/

/-- The fields saved, with their offsets in the task state segment. -/
def savedFields (s : State) (ret flags : Word) : List (Nat × Word) :=
  [(14, ret), (16, flags), (18, s.regs.ax), (20, s.regs.cx), (22, s.regs.dx), (24, s.regs.bx), (26, s.regs.sp),
    (28, s.regs.bp), (30, s.regs.si), (32, s.regs.di), (34, s.es.sel), (36, s.cs.sel), (38, s.ss.sel), (40, s.ds.sel)]

theorem saveTask_eq {s : State} (hquiet : s.Quiet) (ret flags : Word) :
    s.saveTask ret flags = storeWords s.tr.base.toNat (savedFields s ret flags) s :=
  foldl_yield_eq _ _ s hquiet

/-- The 28 bytes saved. -/
def savedCells (s : State) : List Nat := (List.range 28).map fun k => s.physAddr (s.tr.base.toNat + 14 + k)

theorem wordCells_saved (s : State) (ret flags : Word) :
    wordCells s s.tr.base.toNat (savedFields s ret flags) = savedCells s := rfl

theorem savedFields_sorted (s : State) (ret flags : Word) :
    (savedFields s ret flags).Pairwise (fun x y => x.1 + 2 ≤ y.1) := by
  simp [savedFields]

theorem savedFields_small (s : State) (ret flags : Word) : ∀ x ∈ savedFields s ret flags, x.1 < 2 ^ 15 := by
  simp [savedFields]

/-! ### The marks and the links (44 R441) -/

/-- Where the access byte of a descriptor of the GDT lies. -/
def arAddr (s : State) (sel : Word) : Nat := s.gdtr.base.toNat + sel.toNat / 8 * 8 + 5

theorem setBusy_eq (s : State) (sel : Word) (busy : Bool) : s.setBusy sel busy = { s with
    mem := (s.setBusy sel busy).mem, writes := (s.setBusy sel busy).writes, fetch := (s.setBusy sel busy).fetch } := rfl

theorem setBusy_kept (s : State) (sel : Word) (busy : Bool) :
    s.MemoryKept (s.setBusy sel busy) [s.physAddr (arAddr s sel)] := s.putByte_kept _ _

theorem setBusy_byteAt (s : State) (sel : Word) (busy : Bool) :
    (s.setBusy sel busy).byteAt (arAddr s sel) =
      if busy then s.byteAt (arAddr s sel) ||| 2#8 else s.byteAt (arAddr s sel) &&& 0xFD#8 := by
  rw [State.setBusy, State.byteAt_putByte]
  exact if_pos rfl

/-- JMP and IRET clear the old task's busy bit. -/
def clearOld (kind : SwitchKind) (old : Word) (s : State) : State := if kind = .nest then s else s.setBusy old false

/-- JMP, CALL and interrupts set the new task's busy bit. -/
def setNew (kind : SwitchKind) (sel : Word) (s : State) : State := if kind = .iret then s else s.setBusy sel true

/-- TR, MSW.TS and, for a nested task, the back link. -/
def linkTask (kind : SwitchKind) (sel : Word) (d : Desc) (old : Word) (s : State) : State :=
  let t := { s with tr := { sel := sel, base := d.base, limit := d.word0 } }.setTaskSwitched true
  if kind = .nest then t.putWord d.base.toNat old else t

/-- The flags word saved. -/
def savedImage (s : State) (kind : SwitchKind) : Word :=
  ({ s.flags with nt := s.flags.nt && decide (kind ≠ .iret) } : Flags).image s.platform.flagReserved

/-- The state before the new task's image is loaded. -/
def committed (s : State) (kind : SwitchKind) (sel : Word) (d : Desc) (ret : Word) : State :=
  linkTask kind sel d s.tr.sel (setNew kind sel (clearOld kind s.tr.sel
    (storeWords s.tr.base.toNat (savedFields s ret (savedImage s kind)) s)))

theorem clearOld_eq (kind : SwitchKind) (old : Word) (s : State) : clearOld kind old s = { s with
    mem := (clearOld kind old s).mem, writes := (clearOld kind old s).writes
    fetch := (clearOld kind old s).fetch } := by
  rw [clearOld]
  split_ifs <;> rfl

theorem setNew_eq (kind : SwitchKind) (sel : Word) (s : State) : setNew kind sel s = { s with
    mem := (setNew kind sel s).mem, writes := (setNew kind sel s).writes, fetch := (setNew kind sel s).fetch } := by
  rw [setNew]
  split_ifs <;> rfl

theorem mswSwitched (m : Word) : (m &&& 0xFFF7#16) ||| 8#16 = m ||| 8#16 := by
  ext i hi
  interval_cases i <;> simp

theorem linkTask_eq (kind : SwitchKind) (sel : Word) (d : Desc) (old : Word) (s : State) :
    linkTask kind sel d old s = { s with
      tr := { sel := sel, base := d.base, limit := d.word0 }, msw := s.msw ||| 8#16
      mem := (linkTask kind sel d old s).mem, writes := (linkTask kind sel d old s).writes
      fetch := (linkTask kind sel d old s).fetch } := by
  rw [← mswSwitched, linkTask]
  split_ifs <;> rfl

theorem committed_eq (s : State) (kind : SwitchKind) (sel : Word) (d : Desc) (ret : Word) :
    let p := committed s kind sel d ret
    p = { s with
      tr := { sel := sel, base := d.base, limit := d.word0 }, msw := s.msw ||| 8#16
      mem := p.mem, writes := p.writes, fetch := p.fetch } := by
  intro p
  obtain ⟨saved, hsaved⟩ : ∃ u, storeWords s.tr.base.toNat (savedFields s ret (savedImage s kind)) s = u := ⟨_, rfl⟩
  obtain ⟨cleared, hcleared⟩ : ∃ u, clearOld kind s.tr.sel saved = u := ⟨_, rfl⟩
  obtain ⟨marked, hmarked⟩ : ∃ u, setNew kind sel cleared = u := ⟨_, rfl⟩
  have hp : linkTask kind sel d s.tr.sel marked = p := by rw [← hmarked, ← hcleared, ← hsaved, ← committed]
  have hsavedEq := storeWords_eq s.tr.base.toNat (savedFields s ret (savedImage s kind)) s
  have hclearedEq := clearOld_eq kind s.tr.sel saved
  have hmarkedEq := setNew_eq kind sel cleared
  have hlinkedEq := linkTask_eq kind sel d s.tr.sel marked
  rw [hsaved] at hsavedEq
  rw [hcleared] at hclearedEq
  rw [hmarked] at hmarkedEq
  rw [hp] at hlinkedEq
  clear_value p
  let linked (u : State) : State := { u with
    tr := { sel := sel, base := d.base, limit := d.word0 }, msw := u.msw ||| 8#16
    mem := p.mem, writes := p.writes, fetch := p.fetch }
  calc p = linked marked := hlinkedEq
    _ = linked cleared := (congrArg linked hmarkedEq :)
    _ = linked saved := (congrArg linked hclearedEq :)
    _ = linked s := (congrArg linked hsavedEq :)

/-! ### The new task's image (44 R440 step 6) -/

/-- The state with the registers of the image at the base of TR. -/
def withImage (s : State) (nest : Bool) : State :=
  let w := fun k => s.wordAt (s.tr.base.toNat + k)
  { s with
    ip := w 14
    flags := { Flags.ofImage (w 16) with nt := (Flags.ofImage (w 16)).nt || nest }
    regs := { ax := w 18, cx := w 20, dx := w 22, bx := w 24, sp := w 26, bp := w 28, si := w 30, di := w 32 }
    es := Segment.invalid (w 34), cs := Segment.invalid (w 36), ss := Segment.invalid (w 38)
    ds := Segment.invalid (w 40), ldtr := { sel := w 42, base := 0, limit := 0, valid := false }
    fetch := FetchState.empty, inst := { s.inst with ipInst := w 14 } }

theorem loadTask_eq {s : State} (hquiet : s.Quiet) (nest : Bool) : s.loadTask nest = withImage s nest := by
  rw [State.loadTask]
  simp only [State.yields_quiet hquiet]
  rfl

theorem clearOld_yield {s : State} (hquiet : s.Quiet) (kind : SwitchKind) (old : Word) :
    (if kind = .nest then s else (s.setBusy old false).yieldBus) = clearOld kind old s := by
  have hq : (s.setBusy old false).Quiet := hquiet
  rw [clearOld, State.yieldBus_quiet hq]

theorem setNew_yield {s : State} (hquiet : s.Quiet) (kind : SwitchKind) (sel : Word) :
    (if kind = .iret then s else (s.setBusy sel true).yieldBus) = setNew kind sel s := by
  have hq : (s.setBusy sel true).Quiet := hquiet
  rw [setNew, State.yieldBus_quiet hq]

theorem clearOld_quiet {s : State} (hquiet : s.Quiet) (kind : SwitchKind) (old : Word) :
    (clearOld kind old s).Quiet := by
  rw [clearOld_eq]
  exact hquiet

theorem setNew_quiet {s : State} (hquiet : s.Quiet) (kind : SwitchKind) (sel : Word) : (setNew kind sel s).Quiet := by
  rw [setNew_eq]
  exact hquiet

theorem committed_quiet {s : State} (hquiet : s.Quiet) (kind : SwitchKind) (sel : Word) (d : Desc) (ret : Word) :
    (committed s kind sel d ret).Quiet := by
  rw [committed_eq]
  exact hquiet

theorem commitSwitch_eq {s : State} (hquiet : s.Quiet) (kind : SwitchKind) (sel : Word) (d : Desc) (ret : Word) :
    s.commitSwitch kind sel d ret = withImage (committed s kind sel d ret) (decide (kind = .nest)) := by
  have hsaved : (storeWords s.tr.base.toNat (savedFields s ret (savedImage s kind)) s).Quiet := by
    rw [storeWords_eq]
    exact hquiet
  let old := s.yieldBus.saveTask ret (savedImage s kind)
  let cleared := if kind = .nest then old else (old.setBusy s.tr.sel false).yieldBus
  let marked := if kind = .iret then cleared else (cleared.setBusy sel true).yieldBus
  have hold : old = storeWords s.tr.base.toNat (savedFields s ret (savedImage s kind)) s := by
    simp only [old]
    rw [State.yieldBus_quiet hquiet, saveTask_eq hquiet]
  have hcleared : cleared = clearOld kind s.tr.sel old := clearOld_yield (hold ▸ hsaved) kind s.tr.sel
  have hmarked : marked = setNew kind sel cleared :=
    setNew_yield (hcleared ▸ clearOld_quiet (hold ▸ hsaved) kind s.tr.sel) kind sel
  have hcommitted : linkTask kind sel d s.tr.sel marked = committed s kind sel d ret := by
    rw [hmarked, hcleared, hold, committed]
  show (linkTask kind sel d s.tr.sel marked).yieldBus.loadTask (decide (kind = .nest)) = _
  rw [hcommitted, State.yieldBus_quiet (committed_quiet hquiet kind sel d ret),
    loadTask_eq (committed_quiet hquiet kind sel d ret)]

/-! ### What the commit leaves in memory (44 R441) -/

theorem named_arAddr {s : State} {sel : Word} {d : Desc} (h : s.Named sel d) (hlocal : sel.getLsbD 2 = false) :
    d.addr + 5 = arAddr s sel := by
  obtain ⟨-, hfetch⟩ := h
  rw [State.fetchDesc, Option.map_eq_some_iff] at hfetch
  obtain ⟨a, ha, rfl⟩ := hfetch
  rw [State.descAddr, State.tableOf, show selLocal sel = false from hlocal] at ha
  simp only [Bool.false_eq_true, if_false] at ha
  split_ifs at ha
  cases ha
  rfl

/-- The cells of the back link. -/
def linkCells (s : State) (kind : SwitchKind) (d : Desc) : List Nat :=
  if kind = .nest then [s.physAddr d.base.toNat, s.physAddr (d.base.toNat + 1)] else []

/-- The cell of the old task's busy bit, where it is cleared. -/
def oldMark (s : State) (kind : SwitchKind) : List Nat :=
  if kind = .nest then [] else [s.physAddr (arAddr s s.tr.sel)]

/-- The cell of the new task's busy bit, where it is set. -/
def newMark (s : State) (kind : SwitchKind) (sel : Word) : List Nat :=
  if kind = .iret then [] else [s.physAddr (arAddr s sel)]

theorem clearOld_kept (kind : SwitchKind) (s : State) : s.MemoryKept (clearOld kind s.tr.sel s) (oldMark s kind) := by
  rw [clearOld, oldMark]
  split_ifs
  · exact fun _ _ => rfl
  · exact setBusy_kept s s.tr.sel false

theorem clearOld_byteAt (kind : SwitchKind) (s : State) : (clearOld kind s.tr.sel s).byteAt (arAddr s s.tr.sel) =
    if kind = .nest then s.byteAt (arAddr s s.tr.sel) else s.byteAt (arAddr s s.tr.sel) &&& 0xFD#8 := by
  rw [clearOld]
  split_ifs
  · rfl
  · exact setBusy_byteAt s s.tr.sel false

theorem setNew_kept (kind : SwitchKind) (sel : Word) (s : State) :
    s.MemoryKept (setNew kind sel s) (newMark s kind sel) := by
  rw [setNew, newMark]
  split_ifs
  · exact fun _ _ => rfl
  · exact setBusy_kept s sel true

theorem setNew_byteAt (kind : SwitchKind) (sel : Word) (s : State) : (setNew kind sel s).byteAt (arAddr s sel) =
    if kind = .iret then s.byteAt (arAddr s sel) else s.byteAt (arAddr s sel) ||| 2#8 := by
  rw [setNew]
  split_ifs
  · rfl
  · exact setBusy_byteAt s sel true

theorem linkTask_kept (kind : SwitchKind) (sel : Word) (d : Desc) (old : Word) (s : State) :
    s.MemoryKept (linkTask kind sel d old s) (linkCells s kind d) := by
  rw [linkTask, linkCells]
  split_ifs
  · exact State.putWord_kept _ d.base.toNat old
  · exact fun _ _ => rfl

theorem linkTask_word (sel : Word) (d : Desc) (old : Word) (s : State) (hd : s.LowDecoded) :
    (linkTask .nest sel d old s).wordAt d.base.toNat = old := State.wordAt_putWord _ hd _ _

/-- The stages of the commit, each a change of memory and of TR and MSW alone. -/
theorem committed_stages (s : State) (kind : SwitchKind) (sel : Word) (d : Desc) (ret : Word) :
    ∃ saved cleared marked : State,
      saved = storeWords s.tr.base.toNat (savedFields s ret (savedImage s kind)) s ∧
      saved.platform = s.platform ∧ cleared.platform = s.platform ∧ marked.platform = s.platform ∧
      s.MemoryKept saved (savedCells s) ∧
      saved.MemoryKept cleared (oldMark s kind) ∧
      cleared.byteAt (arAddr s s.tr.sel) =
        (if kind = .nest then saved.byteAt (arAddr s s.tr.sel) else saved.byteAt (arAddr s s.tr.sel) &&& 0xFD#8) ∧
      cleared.MemoryKept marked (newMark s kind sel) ∧
      marked.byteAt (arAddr s sel) =
        (if kind = .iret then cleared.byteAt (arAddr s sel) else cleared.byteAt (arAddr s sel) ||| 2#8) ∧
      marked.MemoryKept (committed s kind sel d ret) (linkCells s kind d) ∧
      (kind = .nest → s.LowDecoded → (committed s kind sel d ret).wordAt d.base.toNat = s.tr.sel) := by
  obtain ⟨saved, hsaved⟩ : ∃ u, u = storeWords s.tr.base.toNat (savedFields s ret (savedImage s kind)) s := ⟨_, rfl⟩
  obtain ⟨cleared, hcleared⟩ : ∃ u, clearOld kind s.tr.sel saved = u := ⟨_, rfl⟩
  obtain ⟨marked, hmarked⟩ : ∃ u, setNew kind sel cleared = u := ⟨_, rfl⟩
  have hp : committed s kind sel d ret = linkTask kind sel d s.tr.sel marked := by
    rw [← hmarked, ← hcleared, hsaved, ← committed]
  have hsavedEq := storeWords_eq s.tr.base.toNat (savedFields s ret (savedImage s kind)) s
  have hclearedEq := clearOld_eq kind s.tr.sel saved
  have hmarkedEq := setNew_eq kind sel cleared
  rw [← hsaved] at hsavedEq
  rw [hcleared] at hclearedEq
  rw [hmarked] at hmarkedEq
  have hplat₁ : saved.platform = s.platform := by rw [hsavedEq]
  have hplat₂ : cleared.platform = s.platform := by rw [hclearedEq, ← hplat₁]
  have hplat₃ : marked.platform = s.platform := by rw [hmarkedEq, ← hplat₂]
  have hgdtr₁ : saved.gdtr = s.gdtr := by rw [hsavedEq]
  have hgdtr₂ : cleared.gdtr = s.gdtr := by rw [hclearedEq, ← hgdtr₁]
  have htr₁ : saved.tr = s.tr := by rw [hsavedEq]
  have hclearKept := clearOld_kept kind saved
  have hclearByte := clearOld_byteAt kind saved
  have hmarkKept := setNew_kept kind sel cleared
  have hmarkByte := setNew_byteAt kind sel cleared
  have hlinkKept := linkTask_kept kind sel d s.tr.sel marked
  rw [htr₁, hcleared] at hclearKept hclearByte
  rw [hmarked] at hmarkKept hmarkByte
  rw [oldMark, State.physAddr_congr hplat₁, arAddr, hgdtr₁, htr₁] at hclearKept
  rw [arAddr, hgdtr₁] at hclearByte
  rw [newMark, State.physAddr_congr hplat₂, arAddr, hgdtr₂] at hmarkKept
  rw [arAddr, hgdtr₂] at hmarkByte
  rw [linkCells, State.physAddr_congr hplat₃, State.physAddr_congr hplat₃] at hlinkKept
  rw [hp]
  refine ⟨saved, cleared, marked, hsaved, hplat₁, hplat₂, hplat₃, ?_, hclearKept, hclearByte, hmarkKept, hmarkByte,
    hlinkKept, ?_⟩
  · rw [hsaved]
    exact storeWords_kept _ _ s
  · rintro rfl hd
    refine linkTask_word sel d s.tr.sel marked ?_
    rw [State.LowDecoded, hplat₃]
    exact hd

/-- What the commit leaves unchanged. -/
theorem committed_kept (s : State) (kind : SwitchKind) (sel : Word) (d : Desc) (ret : Word) :
    s.MemoryKept (committed s kind sel d ret)
      (savedCells s ++ linkCells s kind d ++ oldMark s kind ++ newMark s kind sel) := by
  obtain ⟨saved, cleared, marked, -, hplat₁, hplat₂, hplat₃, hsave, hclear, -, hmark, -, hlink, -⟩ :=
    committed_stages s kind sel d ret
  have h := ((hsave.trans hclear hplat₁).trans hmark hplat₂).trans hlink hplat₃
  refine h.mono fun a ha => ?_
  simp only [List.mem_append] at ha ⊢
  tauto

/-- The fields saved, where no mark and no link lies among them. -/
theorem committed_field (s : State) (kind : SwitchKind) (sel : Word) (d : Desc) (ret : Word) (hd : s.LowDecoded)
    (hold : s.physAddr (arAddr s s.tr.sel) ∉ savedCells s) (hnew : s.physAddr (arAddr s sel) ∉ savedCells s)
    (hlink : ∀ a ∈ linkCells s kind d, a ∉ savedCells s) :
    ∀ x ∈ savedFields s ret (savedImage s kind),
      (committed s kind sel d ret).wordAt (s.tr.base.toNat + x.1) = x.2 := by
  intro x hx
  obtain ⟨saved, cleared, marked, hsaved, hplat₁, hplat₂, hplat₃, -, hclear, -, hmark, -, hlinked, -⟩ :=
    committed_stages s kind sel d ret
  have hkept : saved.MemoryKept (committed s kind sel d ret)
      (oldMark s kind ++ newMark s kind sel ++ linkCells s kind d) :=
    (hclear.trans hmark (hplat₂.trans hplat₁.symm)).trans hlinked (hplat₃.trans hplat₁.symm)
  have hout : ∀ a ∈ savedCells s, a ∉ oldMark s kind ++ newMark s kind sel ++ linkCells s kind d := by
    intro a ha hin
    rw [List.mem_append, List.mem_append, oldMark, newMark] at hin
    rcases hin with (h | h) | h
    · split_ifs at h
      · exact absurd h List.not_mem_nil
      · exact hold (List.mem_singleton.mp h ▸ ha)
    · split_ifs at h
      · exact absurd h List.not_mem_nil
      · exact hnew (List.mem_singleton.mp h ▸ ha)
    · exact hlink a h ha
  have hcells : ∀ i < 2, saved.physAddr (s.tr.base.toNat + x.1 + i) ∈ savedCells s := fun i hi => by
    rw [State.physAddr_congr hplat₁, ← wordCells_saved s ret (savedImage s kind)]
    refine List.mem_flatMap.mpr ⟨x, hx, ?_⟩
    interval_cases i
    · exact List.mem_cons_self
    · exact List.mem_cons_of_mem _ List.mem_cons_self
  refine (wordAt_kept hkept (a := s.tr.base.toNat + x.1) (hout _ (hcells 0 (by norm_num)))
    (hout _ (hcells 1 (by norm_num)))).trans ?_
  rw [hsaved]
  exact storeWords_word _ _ s hd (savedFields_sorted s ret _) (savedFields_small s ret _) x hx

/-- The two busy bits, where they lie apart from each other and from the fields and the link. -/
theorem committed_marks (s : State) (kind : SwitchKind) (sel : Word) (d : Desc) (ret : Word)
    (hne : s.physAddr (arAddr s s.tr.sel) ≠ s.physAddr (arAddr s sel))
    (hold : s.physAddr (arAddr s s.tr.sel) ∉ savedCells s ++ linkCells s kind d)
    (hnew : s.physAddr (arAddr s sel) ∉ savedCells s ++ linkCells s kind d) :
    let p := committed s kind sel d ret
    p.byteAt (arAddr s s.tr.sel) =
        (if kind = .nest then s.byteAt (arAddr s s.tr.sel) else s.byteAt (arAddr s s.tr.sel) &&& 0xFD#8) ∧
      p.byteAt (arAddr s sel) =
        (if kind = .iret then s.byteAt (arAddr s sel) else s.byteAt (arAddr s sel) ||| 2#8) := by
  intro p
  obtain ⟨saved, cleared, marked, -, hplat₁, hplat₂, hplat₃, hsave, hclear, hold', hmark, hnew', hlinked, -⟩ :=
    committed_stages s kind sel d ret
  rw [List.mem_append, not_or] at hold hnew
  have hnotNew : s.physAddr (arAddr s s.tr.sel) ∉ newMark s kind sel := by
    rw [newMark]
    split_ifs
    · exact List.not_mem_nil
    · exact fun h => hne (List.mem_singleton.mp h)
  have hnotOld : s.physAddr (arAddr s sel) ∉ oldMark s kind := by
    rw [oldMark]
    split_ifs
    · exact List.not_mem_nil
    · exact fun h => hne (List.mem_singleton.mp h).symm
  have hphys₁ := State.physAddr_congr hplat₁
  have hphys₂ := State.physAddr_congr hplat₂
  have hphys₃ := State.physAddr_congr hplat₃
  refine ⟨?_, ?_⟩
  · rw [hlinked _ (by rw [hphys₃]; exact hold.2), hmark _ (by rw [hphys₂]; exact hnotNew), hold', hsave _ hold.1]
  · rw [hlinked _ (by rw [hphys₃]; exact hnew.2), hnew', hclear _ (by rw [hphys₁]; exact hnotOld), hsave _ hnew.1]

end Sys2Proof.Proofs.Other
end

section
/-! The selectors of a new task (44 R440 step 7). -/

namespace Sys2Proof.Proofs.Other

open Sys2Proof Sys2Proof.Machine

set_option Elab.async false

/-! ### One selector -/

theorem testSel_ok_iff {s : State} {sel : Word} {test : Desc → Bool} {d : Desc} :
    s.testSel sel test = .ok d ↔ s.Named sel d ∧ test d = true ∧ d.ar.getLsbD 7 = true := by
  constructor
  · intro h
    by_cases hnamed : sel.toNat < 4 ∨ s.fetchDesc sel = none
    · rw [testSel_unnamed hnamed] at h
      cases h
    · obtain ⟨hsel, hsome⟩ := not_or.mp hnamed
      obtain ⟨d', hd'⟩ := Option.ne_none_iff_exists'.mp hsome
      have hnamed : s.Named sel d' := ⟨Nat.not_lt.mp hsel, hd'⟩
      rw [s.testSel_named sel d' test hnamed] at h
      split_ifs at h with htest hp
      cases h
      exact ⟨hnamed, htest, hp⟩
  · rintro ⟨hnamed, htest, hp⟩
    exact testSel_found hnamed htest hp

theorem orExcAt_ok_iff {α β : Type} (s : State) (m : Except SelError α) (e₁ e₂ : Exc) (f : α → β) (b : β) :
    (orExcAt s m e₁ e₂ >>= fun a => .ok (f a)) = .ok b ↔ ∃ a, m = .ok a ∧ b = f a := by
  constructor
  · intro h
    match m, h with
    | .ok a, h => exact ⟨a, rfl, (Except.ok.inj h).symm⟩
    | .error .bad, h => cases h
    | .error .absent, h => cases h
  · rintro ⟨a, rfl, rfl⟩
    rfl

/-- A selector of the new task that fails its test. -/
theorem orExcAt_fault {α : Type} {s : State} {ext : Bool} {sel : Word} {fits : Desc → Prop} {absent : Word → Exc}
    {e : Exc} {test : Desc → Bool} (htest : ∀ d, test d = true ↔ fits d) (h : s.NewSelFault ext sel fits absent e)
    (f : Desc → Exe α) :
    (orExcAt s (s.testSel sel test) (Exc.ts (selCode sel ext)) (absent (selCode sel ext)) >>= f) =
      .error (.excAt e s) := by
  rw [errorCode_eq]
  rcases h with ⟨hunnamed, rfl⟩ | ⟨d, hd, ⟨hnot, rfl⟩ | ⟨hyes, hp, rfl⟩⟩
  · rw [testSel_unnamed hunnamed]
    rfl
  · rw [testSel_wrong hd fun h => hnot ((htest d).mp h)]
    rfl
  · rw [testSel_absent hd ((htest d).mpr hyes) hp]
    rfl

/-! ### The five checks -/

/-- The LDT of the new task, null or loaded. -/
def LdtEnters (c c' : State) : Prop :=
  (c.ldtr.sel.toNat < 4 ∧ c' = c) ∨
    ∃ d, c.Named c.ldtr.sel d ∧ d.LdtFits c.ldtr.sel ∧ d.ar.getLsbD 7 = true ∧
      c' = { c with ldtr := { sel := c.ldtr.sel, base := d.high ++ d.word1, limit := d.word0, valid := true } }

section
variable {s t : State} (ext : Bool)

theorem newSelLoads_iff {r : SReg} {fits : Desc → Prop} {test : Desc → Bool} (htest : ∀ d, test d = true ↔ fits d)
    (e₁ e₂ : Exc) :
    (orExcAt s (s.testSel (s.seg r).sel test) e₁ e₂ >>= fun d => .ok (s.loadSeg r d (s.seg r).sel)) = .ok t ↔
      s.NewSelLoads r fits t := by
  rw [orExcAt_ok_iff]
  refine exists_congr fun d => ?_
  rw [testSel_ok_iff, htest, and_assoc, and_assoc]

theorem enterLdt_iff : s.enterLdt ext = .ok t ↔ LdtEnters s t := by
  rw [State.enterLdt]
  split_ifs with hnull
  · have hlt := (selNull_iff _).mp hnull
    refine ⟨fun h => .inl ⟨hlt, (Except.ok.inj h).symm⟩, fun h => ?_⟩
    rcases h with ⟨-, rfl⟩ | ⟨d, ⟨hge, -⟩, -⟩
    · rfl
    · omega
  · have hge : ¬ s.ldtr.sel.toNat < 4 := fun h => hnull ((selNull_iff _).mpr h)
    rw [orExcAt_ok_iff]
    refine ⟨fun ⟨d, hd, ht⟩ => .inr ⟨d, ?_⟩, fun h => ?_⟩
    · obtain ⟨hnamed, htest, hp⟩ := testSel_ok_iff.mp hd
      exact ⟨hnamed, (ldtTest_iff _ d).mp htest, hp, ht⟩
    · obtain ⟨d, hnamed, hfits, hp, ht⟩ := h.resolve_left fun h => hge h.1
      exact ⟨d, testSel_ok_iff.mpr ⟨hnamed, (ldtTest_iff _ d).mpr hfits, hp⟩, ht⟩

theorem enterTaskCs_iff : s.enterTaskCs ext = .ok t ↔ s.NewSelLoads .cs (Desc.CodeFits (s.cs.sel.toNat % 4)) t :=
  newSelLoads_iff (r := .cs) (codeTest_iff _) _ _

theorem enterTaskSs_iff {level : Nat} (h : s.cpl = level) :
    s.enterTaskSs ext = .ok t ↔ s.NewSelLoads .ss (Desc.StackFits level s.ss.sel) t := by
  subst h
  exact newSelLoads_iff (r := .ss) (stackTest_iff _ _) _ _

theorem enterTaskData_iff {level : Nat} (h : s.cpl = level) (r : SReg) :
    s.enterTaskData r ext = .ok t ↔ s.NewDataLoads r level t := by
  subst h
  rw [State.enterTaskData, State.NewDataLoads]
  split_ifs with hnull
  · have hlt := (selNull_iff _).mp hnull
    refine ⟨fun h => .inl ⟨hlt, (Except.ok.inj h).symm⟩, fun h => ?_⟩
    rcases h with ⟨-, rfl⟩ | ⟨d, ⟨hge, -⟩, -⟩
    · rfl
    · omega
  · have hge : ¬ (s.seg r).sel.toNat < 4 := fun h => hnull ((selNull_iff _).mpr h)
    rw [newSelLoads_iff (dataTest_iff _ _)]
    exact ⟨.inr, fun h => h.resolve_left fun h => hge h.1⟩

theorem enterLdt_fault {e : Exc} (hsel : 4 ≤ s.ldtr.sel.toNat)
    (h : s.NewSelFault ext s.ldtr.sel (Desc.LdtFits s.ldtr.sel) Exc.ts e) : s.enterLdt ext = .error (.excAt e s) := by
  rw [State.enterLdt, if_neg (Bool.eq_false_iff.mp (selNull_false hsel))]
  exact orExcAt_fault (ldtTest_iff _) h _

theorem enterTaskCs_fault {e : Exc}
    (h : s.NewSelFault ext s.cs.sel (Desc.CodeFits (s.cs.sel.toNat % 4)) Exc.np e) :
    s.enterTaskCs ext = .error (.excAt e s) := orExcAt_fault (codeTest_iff _) h _

theorem enterTaskSs_fault {level : Nat} (hlevel : s.cpl = level) {e : Exc}
    (h : s.NewSelFault ext s.ss.sel (Desc.StackFits level s.ss.sel) Exc.ss e) :
    s.enterTaskSs ext = .error (.excAt e s) := by
  subst hlevel
  exact orExcAt_fault (stackTest_iff _ _) h _

theorem enterTaskData_fault {level : Nat} (hlevel : s.cpl = level) {r : SReg} {e : Exc} (hsel : 4 ≤ (s.seg r).sel.toNat)
    (h : s.NewSelFault ext (s.seg r).sel (Desc.DataFits level (s.seg r).sel) Exc.np e) :
    s.enterTaskData r ext = .error (.excAt e s) := by
  subst hlevel
  rw [State.enterTaskData, if_neg (Bool.eq_false_iff.mp (selNull_false hsel))]
  exact orExcAt_fault (dataTest_iff _ _) h _

end

/-! ### What a check changes -/

theorem setSeg_seg (s : State) (r : SReg) (g : Segment) (q : SReg) :
    (s.setSeg r g).seg q = if q = r then g else s.seg q := by
  cases q <;> cases r <;> rfl

/-- A segment register loaded, or left as it is: the rest stays, selectors and all, and of memory only the accessed
bit of the selector's descriptor changes. -/
structure SelLoad (x y : State) (sel : Word) : Prop where
  rest : y = { x with
    es := y.es, cs := y.cs, ss := y.ss, ds := y.ds, mem := y.mem, writes := y.writes, fetch := y.fetch }
  sels : ∀ r, (y.seg r).sel = (x.seg r).sel
  real : x.cs.real = false → y.cs.real = false
  bytes : ∀ a, y.byteAt a = x.byteAt a ∨ y.byteAt a = x.byteAt a ||| 1#8
  kept : x.MemoryKept y ((x.descAddr sel).map fun a => x.physAddr (a + 5)).toList
  marked : 4 ≤ sel.toNat → ∀ a, x.descAddr sel = some a → (y.byteAt (a + 5)).getLsbD 0 = true

theorem selLoad_refl (x : State) {sel : Word} (h : sel.toNat < 4) : SelLoad x x sel where
  rest := rfl
  sels := fun _ => rfl
  real := id
  bytes := fun _ => .inl rfl
  kept := fun _ _ => rfl
  marked := fun hge => absurd h (by omega)

theorem selLoad_of_loads {x y : State} {r : SReg} {fits : Desc → Prop} (h : x.NewSelLoads r fits y) :
    SelLoad x y (x.seg r).sel := by
  obtain ⟨d, ⟨hsel, hfetch⟩, -, -, rfl⟩ := h
  rw [State.fetchDesc, Option.map_eq_some_iff] at hfetch
  obtain ⟨a, ha, rfl⟩ := hfetch
  exact
    { rest := by cases r <;> rfl
      sels := fun q => by
        have hseg := congrArg Segment.sel (setSeg_seg x r ((x.descAt a).cached (x.seg r).sel) q)
        refine Eq.trans (b := ((x.setSeg r ((x.descAt a).cached (x.seg r).sel)).seg q).sel) ?_ (hseg.trans ?_)
        · cases q <;> rfl
        · split_ifs with h
          · rw [h]
            rfl
          · rfl
      real := fun h => by
        cases r
        case cs => rfl
        all_goals exact h
      bytes := fun b => by
        rw [loadSeg_byteAt_eq]
        split_ifs
        · exact .inr rfl
        · exact .inl rfl
      kept := by
        rw [ha]
        exact loadSeg_kept x r (x.descAt a) _
      marked := fun _ b hb => by
        rw [ha] at hb
        cases hb
        have h := loadSeg_byteAt_self x r (x.descAt a) (x.seg r).sel
        rw [show a + 5 = (x.descAt a).addr + 5 from rfl, h]
        exact getLsbD_accessed _ }

theorem selLoad_of_data {x y : State} {r : SReg} {level : Nat} (h : x.NewDataLoads r level y) :
    SelLoad x y (x.seg r).sel := by
  rcases h with ⟨hnull, rfl⟩ | h
  · exact selLoad_refl _ hnull
  · exact selLoad_of_loads h

/-- A state on the way from the new task's image to the new task: the selectors are those of the image. -/
structure Midway (c x : State) : Prop where
  quiet : x.Quiet
  prot : x.prot = true
  real : x.cs.real = false
  sels : ∀ r, (x.seg r).sel = (c.seg r).sel
  inst : x.inst = c.inst

section
variable {c x y : State}

theorem Midway.cpl (h : Midway c x) : x.cpl = c.cs.sel.toNat % 4 := by
  have hsel : x.cs.sel = c.cs.sel := h.sels .cs
  rw [State.cpl, h.prot, h.real, hsel]
  rfl

theorem Midway.ldt (h : Midway c x) (hldt : LdtEnters x y) : Midway c y := by
  rcases hldt with ⟨-, rfl⟩ | ⟨d, -, -, -, rfl⟩
  · exact h
  · exact ⟨h.quiet, h.prot, h.real, fun r => (by cases r <;> rfl : _ = (x.seg r).sel).trans (h.sels r), h.inst⟩

theorem Midway.load (h : Midway c x) {sel : Word} (hload : SelLoad x y sel) : Midway c y where
  quiet := by
    rw [hload.rest]
    exact h.quiet
  prot := by
    rw [hload.rest]
    exact h.prot
  real := hload.real h.real
  sels := fun r => (hload.sels r).trans (h.sels r)
  inst := by
    rw [hload.rest]
    exact h.inst

end

/-- The states between the checks of a new task that passes them. -/
structure TaskPath (c c₁ c₂ c₃ c₄ t : State) : Prop where
  ldt : LdtEnters c c₁
  cs : c₁.NewSelLoads .cs (Desc.CodeFits (c.cs.sel.toNat % 4)) c₂
  ss : c₂.NewSelLoads .ss (Desc.StackFits (c.cs.sel.toNat % 4) c.ss.sel) c₃
  ds : c₃.NewDataLoads .ds (c.cs.sel.toNat % 4) c₄
  es : c₄.NewDataLoads .es (c.cs.sel.toNat % 4) t

section
variable {c x y : State} (h : Midway c x) (ext : Bool)
include h

theorem Midway.enterCs :
    x.enterTaskCs ext = .ok y ↔ x.NewSelLoads .cs (Desc.CodeFits (c.cs.sel.toNat % 4)) y := by
  rw [enterTaskCs_iff, show x.cs.sel = c.cs.sel from h.sels .cs]

theorem Midway.enterSs :
    x.enterTaskSs ext = .ok y ↔ x.NewSelLoads .ss (Desc.StackFits (c.cs.sel.toNat % 4) c.ss.sel) y := by
  rw [enterTaskSs_iff ext h.cpl, show x.ss.sel = c.ss.sel from h.sels .ss]

theorem Midway.enterData (r : SReg) :
    x.enterTaskData r ext = .ok y ↔ x.NewDataLoads r (c.cs.sel.toNat % 4) y := enterTaskData_iff ext h.cpl r

theorem Midway.faultCs {e : Exc} (he : x.NewSelFault ext c.cs.sel (Desc.CodeFits (c.cs.sel.toNat % 4)) Exc.np e) :
    x.enterTaskCs ext = .error (.excAt e x) := by
  rw [← show x.cs.sel = c.cs.sel from h.sels .cs] at he
  exact enterTaskCs_fault ext he

theorem Midway.faultSs {e : Exc}
    (he : x.NewSelFault ext c.ss.sel (Desc.StackFits (c.cs.sel.toNat % 4) c.ss.sel) Exc.ss e) :
    x.enterTaskSs ext = .error (.excAt e x) := by
  rw [← show x.ss.sel = c.ss.sel from h.sels .ss] at he
  exact enterTaskSs_fault ext h.cpl he

theorem Midway.faultData {r : SReg} {e : Exc} (hsel : 4 ≤ (c.seg r).sel.toNat)
    (he : x.NewSelFault ext (c.seg r).sel (Desc.DataFits (c.cs.sel.toNat % 4) (c.seg r).sel) Exc.np e) :
    x.enterTaskData r ext = .error (.excAt e x) := by
  rw [← h.sels r] at he hsel
  exact enterTaskData_fault ext h.cpl hsel he

end

theorem TaskPath.midway {c c₁ c₂ c₃ c₄ t : State} (hc : Midway c c) (h : TaskPath c c₁ c₂ c₃ c₄ t) :
    Midway c c₁ ∧ Midway c c₂ ∧ Midway c c₃ ∧ Midway c c₄ ∧ Midway c t := by
  have h₁ := hc.ldt h.ldt
  have h₂ := h₁.load (selLoad_of_loads h.cs)
  have h₃ := h₂.load (selLoad_of_loads h.ss)
  have h₄ := h₃.load (selLoad_of_data h.ds)
  exact ⟨h₁, h₂, h₃, h₄, h₄.load (selLoad_of_data h.es)⟩

theorem enterTask_ok_iff {c : State} (hc : Midway c c) (ext : Bool) (t : State) :
    c.enterTask ext = .ok t ↔ ∃ c₁ c₂ c₃ c₄, TaskPath c c₁ c₂ c₃ c₄ t := by
  rw [State.enterTask, State.yieldBus_quiet hc.quiet]
  constructor
  · intro h
    obtain ⟨c₁, h₁, h⟩ := (exe_bind_eq_ok _ _ _).mp h
    have hldt := (enterLdt_iff ext).mp h₁
    have m₁ := hc.ldt hldt
    rw [State.yieldBus_quiet m₁.quiet] at h
    obtain ⟨c₂, h₂, h⟩ := (exe_bind_eq_ok _ _ _).mp h
    have hcs := (m₁.enterCs ext).mp h₂
    have m₂ := m₁.load (selLoad_of_loads hcs)
    rw [State.yieldBus_quiet m₂.quiet] at h
    obtain ⟨c₃, h₃, h⟩ := (exe_bind_eq_ok _ _ _).mp h
    have hss := (m₂.enterSs ext).mp h₃
    have m₃ := m₂.load (selLoad_of_loads hss)
    rw [State.yieldBus_quiet m₃.quiet] at h
    obtain ⟨c₄, h₄, h⟩ := (exe_bind_eq_ok _ _ _).mp h
    have hds := (m₃.enterData ext .ds).mp h₄
    have m₄ := m₃.load (selLoad_of_data hds)
    rw [State.yieldBus_quiet m₄.quiet] at h
    exact ⟨c₁, c₂, c₃, c₄, hldt, hcs, hss, hds, (m₄.enterData ext .es).mp h⟩
  · rintro ⟨c₁, c₂, c₃, c₄, h⟩
    obtain ⟨m₁, m₂, m₃, m₄, -⟩ := h.midway hc
    rw [(enterLdt_iff ext).mpr h.ldt, exe_bind_ok, State.yieldBus_quiet m₁.quiet, (m₁.enterCs ext).mpr h.cs,
      exe_bind_ok, State.yieldBus_quiet m₂.quiet, (m₂.enterSs ext).mpr h.ss, exe_bind_ok, State.yieldBus_quiet m₃.quiet,
      (m₃.enterData ext .ds).mpr h.ds, exe_bind_ok, State.yieldBus_quiet m₄.quiet]
    exact (m₄.enterData ext .es).mpr h.es

/-- The first check that fails is an exception of the new task. -/
theorem enterTask_fault {c : State} (hc : Midway c c) {ext : Bool} {e : Exc} {u : State} (h : c.NewTaskFault ext e u) :
    c.enterTask ext = .error (.excAt e u) ∧ u.inst = c.inst := by
  rw [State.enterTask, State.yieldBus_quiet hc.quiet]
  rcases h with ⟨hsel, hfault, rfl⟩ | ⟨c₁, hldt, h⟩
  · rw [enterLdt_fault ext hsel hfault]
    exact ⟨rfl, rfl⟩
  have hldt : LdtEnters c c₁ := hldt
  have m₁ := hc.ldt hldt
  rw [(enterLdt_iff ext).mpr hldt, exe_bind_ok, State.yieldBus_quiet m₁.quiet]
  rcases h with ⟨hfault, rfl⟩ | ⟨c₂, hcs, h⟩
  · rw [m₁.faultCs ext hfault]
    exact ⟨rfl, m₁.inst⟩
  have m₂ := m₁.load (selLoad_of_loads hcs)
  rw [(m₁.enterCs ext).mpr hcs, exe_bind_ok, State.yieldBus_quiet m₂.quiet]
  rcases h with ⟨hfault, rfl⟩ | ⟨c₃, hss, h⟩
  · rw [m₂.faultSs ext hfault]
    exact ⟨rfl, m₂.inst⟩
  have m₃ := m₂.load (selLoad_of_loads hss)
  rw [(m₂.enterSs ext).mpr hss, exe_bind_ok, State.yieldBus_quiet m₃.quiet]
  rcases h with ⟨hsel, hfault, rfl⟩ | ⟨c₄, hds, hsel, hfault, rfl⟩
  · rw [m₃.faultData ext (r := .ds) hsel hfault]
    exact ⟨rfl, m₃.inst⟩
  have m₄ := m₃.load (selLoad_of_data hds)
  rw [(m₃.enterData ext .ds).mpr hds, exe_bind_ok, State.yieldBus_quiet m₄.quiet,
    m₄.faultData ext (r := .es) hsel hfault]
  exact ⟨rfl, m₄.inst⟩

/-! ### What the checks leave -/

theorem ldtEnters_spec {c x : State} (h : LdtEnters c x) :
    x = { c with ldtr := x.ldtr } ∧ x.ldtr.sel = c.ldtr.sel := by
  rcases h with ⟨-, rfl⟩ | ⟨d, -, -, -, rfl⟩ <;> exact ⟨rfl, rfl⟩

theorem selLoad_descAddr {x y : State} {sel : Word} (h : SelLoad x y sel) : y.descAddr = x.descAddr := by
  rw [h.rest]
  rfl

theorem selLoad_platform {x y : State} {sel : Word} (h : SelLoad x y sel) : y.platform = x.platform := by
  rw [h.rest]

/-- A bit set stays set where a byte stays or has its lowest bit set. -/
theorem getLsbD_kept {a b : Byte} (h : b = a ∨ b = a ||| 1#8) (ha : a.getLsbD 0 = true) : b.getLsbD 0 = true := by
  rcases h with rfl | rfl
  · exact ha
  · exact getLsbD_accessed _

theorem bytes_trans {a b c : Byte} (hb : b = a ∨ b = a ||| 1#8) (hc : c = b ∨ c = b ||| 1#8) :
    c = a ∨ c = a ||| 1#8 := by
  rcases hb with rfl | rfl
  · exact hc
  · rcases hc with rfl | rfl
    · exact .inr rfl
    · exact .inr (or_one_or_one a)

/-- The loads of a task that passes its checks, in their order. -/
theorem enterTask_loads {c t : State} (hc : Midway c c) {ext : Bool} (h : c.enterTask ext = .ok t) :
    Midway c t ∧ ∃ c₁ c₂ c₃ c₄ : State, (c₁ = { c with ldtr := c₁.ldtr } ∧ c₁.ldtr.sel = c.ldtr.sel) ∧
      SelLoad c₁ c₂ t.cs.sel ∧ SelLoad c₂ c₃ t.ss.sel ∧ SelLoad c₃ c₄ t.ds.sel ∧ SelLoad c₄ t t.es.sel := by
  obtain ⟨c₁, c₂, c₃, c₄, path⟩ := (enterTask_ok_iff hc ext t).mp h
  obtain ⟨m₁, m₂, m₃, m₄, m₅⟩ := path.midway hc
  have hcs := selLoad_of_loads path.cs
  have hss := selLoad_of_loads path.ss
  have hds := selLoad_of_data path.ds
  have hes := selLoad_of_data path.es
  rw [show (c₁.seg .cs).sel = t.cs.sel from (m₁.sels .cs).trans (m₅.sels .cs).symm] at hcs
  rw [show (c₂.seg .ss).sel = t.ss.sel from (m₂.sels .ss).trans (m₅.sels .ss).symm] at hss
  rw [show (c₃.seg .ds).sel = t.ds.sel from (m₃.sels .ds).trans (m₅.sels .ds).symm] at hds
  rw [show (c₄.seg .es).sel = t.es.sel from (m₄.sels .es).trans (m₅.sels .es).symm] at hes
  exact ⟨m₅, c₁, c₂, c₃, c₄, ldtEnters_spec path.ldt, hcs, hss, hds, hes⟩

section
variable {c t : State} (hc : Midway c c) {ext : Bool} (h : c.enterTask ext = .ok t)
include hc h

theorem enterTask_midway : Midway c t := (enterTask_loads hc h).1

theorem enterTask_eq : t = { c with
    es := t.es, cs := t.cs, ss := t.ss, ds := t.ds, ldtr := t.ldtr, mem := t.mem, writes := t.writes
    fetch := t.fetch } := by
  obtain ⟨-, c₁, c₂, c₃, c₄, ⟨hldt, -⟩, hcs, hss, hds, hes⟩ := enterTask_loads hc h
  let fill (u : State) : State := { u with
    es := t.es, cs := t.cs, ss := t.ss, ds := t.ds, ldtr := t.ldtr, mem := t.mem, writes := t.writes
    fetch := t.fetch }
  calc t = fill t := rfl
    _ = fill c₄ := (congrArg fill hes.rest :)
    _ = fill c₃ := (congrArg fill hds.rest :)
    _ = fill c₂ := (congrArg fill hss.rest :)
    _ = fill c₁ := (congrArg fill hcs.rest :)
    _ = fill c := (congrArg fill hldt :)

theorem enterTask_ldtr : t.ldtr.sel = c.ldtr.sel := by
  obtain ⟨-, c₁, c₂, c₃, c₄, ⟨-, hldt⟩, hcs, hss, hds, hes⟩ := enterTask_loads hc h
  have hstep : ∀ {x y : State} {sel}, SelLoad x y sel → y.ldtr = x.ldtr := fun h => by rw [h.rest]
  rw [hstep hes, hstep hds, hstep hss, hstep hcs, hldt]

theorem enterTask_bytes (a : Nat) : t.byteAt a = c.byteAt a ∨ t.byteAt a = c.byteAt a ||| 1#8 := by
  obtain ⟨-, c₁, c₂, c₃, c₄, ⟨hldt, -⟩, hcs, hss, hds, hes⟩ := enterTask_loads hc h
  have hfirst : c₁.byteAt a = c.byteAt a := by
    rw [hldt]
    rfl
  rw [← hfirst]
  exact bytes_trans (bytes_trans (bytes_trans (hcs.bytes a) (hss.bytes a)) (hds.bytes a)) (hes.bytes a)

theorem enterTask_kept : c.MemoryKept t ([t.cs.sel, t.ss.sel, t.ds.sel, t.es.sel].filterMap fun sel =>
    (t.descAddr sel).map fun a => c.physAddr (a + 5)) := by
  obtain ⟨-, c₁, c₂, c₃, c₄, ⟨hldt, -⟩, hcs, hss, hds, hes⟩ := enterTask_loads hc h
  have hplat₁ : c₁.platform = c.platform := by rw [hldt]
  have hplat₂ := (selLoad_platform hcs).trans hplat₁
  have hplat₃ := (selLoad_platform hss).trans hplat₂
  have hplat₄ := (selLoad_platform hds).trans hplat₃
  have haddr₄ := (selLoad_descAddr hes).symm
  have haddr₃ := (selLoad_descAddr hds).symm.trans haddr₄
  have haddr₂ := (selLoad_descAddr hss).symm.trans haddr₃
  have haddr₁ := (selLoad_descAddr hcs).symm.trans haddr₂
  have hfirst : c.MemoryKept c₁ [] := fun a _ => by
    rw [hldt]
    rfl
  have hcsKept := hcs.kept
  have hssKept := hss.kept
  have hdsKept := hds.kept
  have hesKept := hes.kept
  simp only [haddr₁, haddr₂, haddr₃, haddr₄, State.physAddr_congr hplat₁, State.physAddr_congr hplat₂,
    State.physAddr_congr hplat₃, State.physAddr_congr hplat₄] at hcsKept hssKept hdsKept hesKept
  refine ((((hfirst.trans hcsKept hplat₁).trans hssKept hplat₂).trans hdsKept hplat₃).trans hesKept hplat₄).mono ?_
  intro a ha
  simp only [List.mem_append, List.not_mem_nil, false_or, Option.mem_toList] at ha
  simp only [List.mem_filterMap, List.mem_cons, List.not_mem_nil, or_false]
  rcases ha with ((ha | ha) | ha) | ha
  · exact ⟨_, .inl rfl, ha⟩
  · exact ⟨_, .inr (.inl rfl), ha⟩
  · exact ⟨_, .inr (.inr (.inl rfl)), ha⟩
  · exact ⟨_, .inr (.inr (.inr rfl)), ha⟩

theorem enterTask_marked : ∀ sel ∈ [t.cs.sel, t.ss.sel, t.ds.sel, t.es.sel], 4 ≤ sel.toNat →
    ∀ a, t.descAddr sel = some a → (t.byteAt (a + 5)).getLsbD 0 = true := by
  obtain ⟨-, c₁, c₂, c₃, c₄, -, hcs, hss, hds, hes⟩ := enterTask_loads hc h
  have haddr₄ := (selLoad_descAddr hes).symm
  have haddr₃ := (selLoad_descAddr hds).symm.trans haddr₄
  have haddr₂ := (selLoad_descAddr hss).symm.trans haddr₃
  have haddr₁ := (selLoad_descAddr hcs).symm.trans haddr₂
  intro sel hmem hsel a ha
  simp only [List.mem_cons, List.not_mem_nil, or_false] at hmem
  rcases hmem with rfl | rfl | rfl | rfl
  · exact getLsbD_kept (hes.bytes _) (getLsbD_kept (hds.bytes _) (getLsbD_kept (hss.bytes _)
      (hcs.marked hsel a (haddr₁ ▸ ha))))
  · exact getLsbD_kept (hes.bytes _) (getLsbD_kept (hds.bytes _) (hss.marked hsel a (haddr₂ ▸ ha)))
  · exact getLsbD_kept (hes.bytes _) (hds.marked hsel a (haddr₃ ▸ ha))
  · exact hes.marked hsel a (haddr₄ ▸ ha)

end

/-- Whether a task passes its checks does not depend on EXT. -/
theorem enterTask_ext {c t : State} (hc : Midway c c) {ext : Bool} (h : c.enterTask ext = .ok t) (ext' : Bool) :
    c.enterTask ext' = .ok t :=
  (enterTask_ok_iff hc ext' t).mpr ((enterTask_ok_iff hc ext t).mp h)

end Sys2Proof.Proofs.Other
end

section
/-! Task switches by instructions and by events. -/

namespace Sys2Proof.Proofs.Other

open Sys2Proof Sys2Proof.Machine

set_option Elab.async false

/-! ### The switch itself (44 R440) -/

theorem withImage_midway {p : State} (hquiet : p.Quiet) (hprot : p.prot = true) (nest : Bool) :
    Midway (withImage p nest) (withImage p nest) :=
  ⟨hquiet, hprot, rfl, fun _ => rfl, rfl⟩

theorem committed_prot {s : State} (hprot : s.prot = true) (kind : SwitchKind) (sel : Word) (d : Desc) (ret : Word) :
    (committed s kind sel d ret).prot = true := by
  have hpe : (s.msw ||| 8#16).getLsbD 0 = s.msw.getLsbD 0 := by
    rw [BitVec.getLsbD_or]
    exact Bool.or_false _
  have h : (committed s kind sel d ret).prot = ((s.msw ||| 8#16).getLsbD 0 && !s.inst.realRules) := by
    rw [committed_eq]
    rfl
  rw [h, hpe]
  exact hprot

theorem commit_midway {s : State} (hquiet : s.Quiet) (hprot : s.prot = true) (kind : SwitchKind) (sel : Word) (d : Desc)
    (ret : Word) : Midway (s.commitSwitch kind sel d ret) (s.commitSwitch kind sel d ret) := by
  rw [commitSwitch_eq hquiet]
  exact withImage_midway (committed_quiet hquiet kind sel d ret) (committed_prot hprot kind sel d ret) _

theorem commit_ipInst {s : State} (hquiet : s.Quiet) (kind : SwitchKind) (sel : Word) (d : Desc) (ret : Word) :
    (s.commitSwitch kind sel d ret).inst.ipInst = (s.commitSwitch kind sel d ret).ip := by
  rw [commitSwitch_eq hquiet]
  rfl

theorem commit_platform {s : State} (hquiet : s.Quiet) (kind : SwitchKind) (sel : Word) (d : Desc) (ret : Word) :
    (s.commitSwitch kind sel d ret).platform = s.platform := by
  rw [commitSwitch_eq hquiet]
  show (committed s kind sel d ret).platform = s.platform
  rw [committed_eq]

theorem enterTask_platform {c t : State} {ext : Bool} (hmid : Midway c c) (h : c.enterTask ext = .ok t) :
    t.platform = c.platform := by
  rw [enterTask_eq hmid h]

/-- What a task switch leaves. -/
theorem switched_spec {s : State} (hquiet : s.Quiet) (hprot : s.prot = true) (kind : SwitchKind) {tss : Word} {d : Desc}
    (hnamed : s.Named tss d) (hlocal : tss.getLsbD 2 = false) (ret : Word) {ext : Bool} {t : State}
    (h : (s.commitSwitch kind tss d ret).enterTask ext = .ok t) :
    s.Switched (s.commitSwitch kind tss d ret) t kind tss d ret := by
  have hmid := commit_midway hquiet hprot kind tss d ret
  obtain ⟨p, hp⟩ : ∃ p, committed s kind tss d ret = p := ⟨_, rfl⟩
  have hpeq := committed_eq s kind tss d ret
  have hkept := committed_kept s kind tss d ret
  have hfield := committed_field s kind tss d ret
  have hmarks := committed_marks s kind tss d ret
  obtain ⟨-, -, -, -, -, -, -, -, -, -, -, -, -, hlink⟩ := committed_stages s kind tss d ret
  have hnewAr : d.addr + 5 = arAddr s tss := named_arAddr hnamed hlocal
  have hdesc := fetchDesc_ar hnamed.2
  rw [commitSwitch_eq hquiet] at h hmid ⊢
  rw [hp] at h hmid hpeq hkept hfield hmarks hlink ⊢
  clear hp
  have htmid := enterTask_midway hmid h
  have hteq := enterTask_eq hmid h
  have htbase : p.tr.base = d.base := by rw [hpeq]
  have htmem := enterTask_kept hmid h
  have hphys : ∀ a, (withImage p (decide (kind = .nest))).physAddr a = s.physAddr a :=
    State.physAddr_congr (show p.platform = s.platform by rw [hpeq])
  simp only [hphys] at htmem
  have hcpl := htmid.cpl
  have hsels := htmid.sels
  refine ⟨?_, ?_, ?_, ?_, ?_, ?_, ?_, ?_, ?_, ?_, ?_, ?_⟩
  · rw [hteq]
    show p.tr = _
    rw [hpeq]
    rfl
  · rw [hteq]
    show p.msw = _
    rw [hpeq]
  · rw [hcpl, show t.cs.sel = _ from hsels .cs]
    rfl
  · rw [hteq]
    show p.gdtr = _
    rw [hpeq]
  · rw [hteq]
    show p.idtr = _
    rw [hpeq]
  · intro new
    have hword : ∀ k, new k = p.wordAt (p.tr.base.toNat + k) := fun k => by
      rw [htbase]
      rfl
    have hip : t.ip = p.wordAt (p.tr.base.toNat + 14) := by
      rw [hteq]
      rfl
    have hflags : t.flags = (withImage p (decide (kind = .nest))).flags := by rw [hteq]
    have hregs : t.regs = (withImage p (decide (kind = .nest))).regs := by rw [hteq]
    refine ⟨hip.trans (hword 14).symm, ?_, ?_, (hsels .es).trans (hword 34).symm, (hsels .cs).trans (hword 36).symm,
      (hsels .ss).trans (hword 38).symm, (hsels .ds).trans (hword 40).symm,
      (enterTask_ldtr hmid h).trans (hword 42).symm, hlink⟩
    · rw [hflags, hword]
      rfl
    · simp only [hregs, hword]
      rfl
  · intro old hd hold hnew hlinks
    have hfields := hfield hd hold (hnewAr ▸ hnew) hlinks
    have hat : ∀ i k v, (savedFields s ret (savedImage s kind))[i]? = some (k, v) → old k = v := fun i k v hi =>
      hfields (k, v) (List.mem_of_getElem? hi)
    exact ⟨hat 0 _ _ rfl, hat 1 _ _ rfl, hat 2 _ _ rfl, hat 3 _ _ rfl, hat 4 _ _ rfl, hat 5 _ _ rfl, hat 6 _ _ rfl,
      hat 7 _ _ rfl, hat 8 _ _ rfl, hat 9 _ _ rfl, hat 10 _ _ rfl, hat 11 _ _ rfl, hat 12 _ _ rfl, hat 13 _ _ rfl⟩
  · rw [← hdesc, hnewAr]
    exact hmarks
  · rw [hnewAr]
    exact hkept
  · exact htmem
  · exact enterTask_bytes hmid h
  · exact enterTask_marked hmid h

/-! ### The checks made in the old task (44 R413, R414, R440 step 1) -/

section
variable {s : State} (kind : SwitchKind) {sel : Word} {d : Desc} (ret : Word) (ext : Bool)

theorem switchTasks_small (u : State) (h : d.word0.toNat < 0x2B) :
    Fails u (s.switchTasks kind sel d ret ext) (Exc.ts (errorCode sel ext)) :=
  fails_ensure u (decide_eq_false (Nat.not_le.mpr h)) _ _

theorem switchTasks_oldSmall (u : State) (h : 0x2B ≤ d.word0.toNat) (hold : s.tr.limit.toNat < 41) :
    Fails u (s.switchTasks kind sel d ret ext) (Exc.ts (errorCode s.tr.sel ext)) := by
  rw [State.switchTasks, ensure_bind (decide_eq_true h)]
  exact fails_ensure u (decide_eq_false (Nat.not_le.mpr hold)) _ _

theorem switchTasks_eq (h : 0x2B ≤ d.word0.toNat) (hold : 41 ≤ s.tr.limit.toNat) :
    s.switchTasks kind sel d ret ext = (s.commitSwitch kind sel d ret).enterTask ext := by
  rw [State.switchTasks, ensure_bind (decide_eq_true h), ensure_bind (decide_eq_true hold)]

end

/-- The switch to the available task state segment a selector names. -/
def switchVia (s : State) (kind : SwitchKind) (tss ret : Word) (ext : Bool) : Exe State :=
  orExc (s.testSel tss (tssTest false tss)) (Exc.gp (selCode tss ext)) (Exc.np (selCode tss ext)) >>= fun d =>
    s.switchTasks kind tss d ret ext

section
variable {s : State} {tss : Word} {ext : Bool}

theorem switchVia_fails {e : Exc} (h : s.TssFault tss ext e) (kind : SwitchKind) (ret : Word) :
    Fails s (switchVia s kind tss ret ext) e := by
  rw [switchVia, errorCode_eq]
  rcases h with ⟨hbad, rfl⟩ | ⟨d, hd, hlocal, h⟩
  · refine (orExc_bad s ?_ _ _).bind _
    by_cases hnamed : tss.toNat < 4 ∨ s.fetchDesc tss = none
    · exact testSel_unnamed hnamed _
    · obtain ⟨hsel, hsome⟩ := not_or.mp hnamed
      obtain ⟨d, hd⟩ := Option.ne_none_iff_exists'.mp hsome
      have hlocal : tss.getLsbD 2 = true := (hbad.resolve_left hsel).resolve_right hsome
      exact testSel_wrong ⟨Nat.not_lt.mp hsel, hd⟩ fun htest =>
        Bool.eq_false_iff.mp ((tssTest_available_iff tss d).mp htest).1 hlocal
  · have htest := tssTest_available_iff tss d
    have hfound : d.System 1 → s.testSel tss (tssTest false tss) = .ok d := fun ⟨hp, hs, ht⟩ =>
      testSel_found hd (htest.mpr ⟨hlocal, hs, ht⟩) hp
    rcases h with ⟨hnot, rfl⟩ | ⟨hyes, hp, rfl⟩ | ⟨hsys, hlimit, rfl⟩ | ⟨hsys, hlimit, hold, rfl⟩
    · exact (orExc_bad s (testSel_wrong hd fun h => hnot (htest.mp h).2) _ _).bind _
    · exact (orExc_absent s (testSel_absent hd (htest.mpr ⟨hlocal, hyes⟩) hp) _ _).bind _
    · rw [orExc_ok (hfound hsys)]
      exact switchTasks_small kind ret ext s hlimit
    · rw [orExc_ok (hfound hsys)]
      exact switchTasks_oldSmall kind ret ext s hlimit hold

theorem switchVia_eq {d : Desc} (hd : s.Named tss d) (hsys : d.System 1) (hlocal : tss.getLsbD 2 = false)
    (h : 0x2B ≤ d.word0.toNat) (hold : 41 ≤ s.tr.limit.toNat) (kind : SwitchKind) (ret : Word) :
    switchVia s kind tss ret ext = (s.commitSwitch kind tss d ret).enterTask ext := by
  obtain ⟨hp, hs, ht⟩ := hsys
  rw [switchVia, orExc_ok (testSel_found hd ((tssTest_available_iff tss d).mpr ⟨hlocal, hs, ht⟩) hp), exe_bind_ok,
    switchTasks_eq kind ret ext h hold]

theorem tssFault_vector {e : Exc} (h : s.TssFault tss ext e) : e.vector ≠ 16 := by
  rcases h with ⟨-, rfl⟩ | ⟨d, -, -, ⟨-, rfl⟩ | ⟨-, -, rfl⟩ | ⟨-, -, rfl⟩ | ⟨-, -, -, rfl⟩⟩
  · exact gp_vector _
  · exact gp_vector _
  · exact np_vector _
  · exact ts_vector _
  · exact ts_vector _

end

/-! ### The ways to a switch (44 R413, R414; 45 R458; 60 R563) -/

/-- The kind of a far transfer's switch. -/
def farSwitch (calls : Bool) : SwitchKind := if calls then .nest else .jump

section
variable {s : State} {d : Desc} {sel : Word} (kind : SwitchKind)

theorem viaTss_denied (h : ¬ (s.cpl ≤ rightsDpl d.ar ∧ sel.toNat % 4 ≤ rightsDpl d.ar)) :
    Fails s (s.viaTss d sel kind) (Exc.gp (sel &&& 0xFFFC#16)) := by
  rw [State.viaTss, selCode_false]
  refine fails_ensure s (Bool.eq_false_iff.mpr fun htest => h ?_) _ _
  rw [Bool.and_eq_true, Bool.and_eq_true, decide_eq_true_iff, decide_eq_true_iff] at htest
  exact htest.1

theorem viaTss_usable (hd : s.Named sel d) (h : s.cpl ≤ rightsDpl d.ar ∧ sel.toNat % 4 ≤ rightsDpl d.ar) :
    s.viaTss d sel kind = switchVia s kind sel s.ip false >>= fun t => t.taskIpCheck false := by
  have hlevel : (decide (s.cpl ≤ rightsDpl d.ar) && decide (selRpl sel ≤ rightsDpl d.ar)) = true := by
    rw [Bool.and_eq_true, decide_eq_true_iff, decide_eq_true_iff]
    exact h
  rw [State.viaTss, hlevel, Bool.true_and, switchVia, bind_assoc, s.testSel_named sel d _ hd, rightsPresent]
  cases tssTest false sel d
  · rfl
  · cases d.ar.getLsbD 7 <;> rfl

theorem viaTaskGate_eq (hquiet : s.Quiet) (h : s.cpl ≤ rightsDpl d.ar ∧ sel.toNat % 4 ≤ rightsDpl d.ar)
    (hp : d.ar.getLsbD 7 = true) : complete s (s.viaTaskGate d sel kind) =
      complete s (switchVia s kind d.word1 s.ip false >>= fun t => t.taskIpCheck false) := by
  rw [State.viaTaskGate, gateUsable_ok h hp, exe_bind_ok, complete_afterBus hquiet, switchVia, bind_assoc]

end

section
variable {s : State} {i : Instr} {calls : Bool} {off sel : Word} {d : Desc} (hform : s.FarForm i calls off sel)
  (hprot : s.prot = true) (hquiet : s.Quiet) (hd : s.Named sel d) (hs : d.ar.getLsbD 4 = false)
include hform hprot hquiet hd hs

theorem exec_farTss (ht : d.ar.extractLsb' 0 4 = 1#4 ∨ d.ar.extractLsb' 0 4 = 3#4) :
    exec i s = complete s (s.viaTss d sel (farSwitch calls)) := by
  rw [exec_farNamed hform hprot hquiet hd, farVia, farKind_tss hs ht]
  rfl

theorem exec_farTaskGate (ht : d.ar.extractLsb' 0 4 = 5#4) :
    exec i s = complete s (s.viaTaskGate d sel (farSwitch calls)) := by
  rw [exec_farNamed hform hprot hquiet hd, farVia, farKind_taskGate hs ht]
  rfl

/-- Far JMP and CALL to a task state segment or through a task gate, where a check in the old task fails. -/
theorem farSwitch_faults :
    let usable := s.cpl ≤ rightsDpl d.ar ∧ sel.toNat % 4 ≤ rightsDpl d.ar
    let type := d.ar.extractLsb' 0 4
    ((type = 1#4 ∨ type = 3#4 ∨ type = 5#4) → ¬ usable → exec i s = s.trap 13 (some (sel &&& 0xFFFC#16))) ∧
    ((type = 1#4 ∨ type = 3#4) → usable → ∀ e, s.TssFault sel false e → exec i s = s.trap e.vector e.code) ∧
    (type = 5#4 → usable →
      (d.ar.getLsbD 7 = false → exec i s = s.trap 11 (some (sel &&& 0xFFFC#16))) ∧
      (d.ar.getLsbD 7 = true → ∀ e, s.TssFault d.word1 false e → exec i s = s.trap e.vector e.code)) := by
  intro usable type
  refine ⟨fun htype hnot => ?_, fun htype husable e he => ?_, fun htype husable => ⟨fun hp => ?_, fun hp e he => ?_⟩⟩
  · have hgate : type = 5#4 → exec i s = s.trap 13 (some (sel &&& 0xFFFC#16)) := fun h => by
      rw [exec_farTaskGate hform hprot hquiet hd hs h, State.viaTaskGate]
      exact ((gateUsable_denied hnot).bind _).complete (gp_vector _)
    have htss : type = 1#4 ∨ type = 3#4 → exec i s = s.trap 13 (some (sel &&& 0xFFFC#16)) := fun h => by
      rw [exec_farTss hform hprot hquiet hd hs h]
      exact (viaTss_denied _ hnot).complete (gp_vector _)
    rcases htype with h | h | h
    · exact htss (.inl h)
    · exact htss (.inr h)
    · exact hgate h
  · rw [exec_farTss hform hprot hquiet hd hs htype, viaTss_usable _ hd husable]
    exact ((switchVia_fails he _ _).bind _).complete (tssFault_vector he)
  · rw [exec_farTaskGate hform hprot hquiet hd hs htype, State.viaTaskGate]
    exact ((gateUsable_absent husable hp).bind _).complete (np_vector _)
  · rw [exec_farTaskGate hform hprot hquiet hd hs htype, viaTaskGate_eq _ hquiet husable hp]
    exact ((switchVia_fails he _ _).bind _).complete (tssFault_vector he)

end

/-! ### IRET with NT = 1 (45 R458) -/

theorem busyTss_ok {s : State} {link : Word} {d : Desc} (hd : s.Named link d) (hsys : d.System 3)
    (hlocal : link.getLsbD 2 = false) : s.testSel link (tssTest true link) = .ok d := by
  obtain ⟨hp, hs, ht⟩ := hsys
  exact testSel_found hd ((tssTest_iff true link d).mpr ⟨hlocal, hs, ht⟩) hp

theorem iretSwitch_faults {s : State} (hprot : s.prot = true) (hquiet : s.Quiet) (hnt : s.flags.nt = true) :
    let wrongTss := s.trap 10 (some (s.tr.sel &&& 0xFFFC#16))
    (s.tr.limit.toNat < 1 → exec .iret s = wrongTss) ∧
    (1 ≤ s.tr.limit.toNat →
      let link := s.wordAt s.tr.base.toNat
      ∀ d, s.Named link d → d.System 3 → link.getLsbD 2 = false →
        (d.word0.toNat < 0x2B → exec .iret s = s.trap 10 (some (link &&& 0xFFFC#16))) ∧
        (0x2B ≤ d.word0.toNat → s.tr.limit.toNat < 41 → exec .iret s = wrongTss)) := by
  intro wrongTss
  refine ⟨fun h => ?_, fun hlimit => ?_⟩
  · rw [exec_iret hprot, State.iretProt, if_pos hnt, State.iretTask, selCode_false]
    exact (fails_ensure s (decide_eq_false (Nat.not_le.mpr h)) _ _).complete (ts_vector _)
  · intro link d hd hsys hlocal
    have hexec : exec .iret s = complete s (s.endNmi.switchTasks .iret link d s.ip false >>= fun t =>
        t.taskIpCheck false) := by
      rw [exec_iretTask hprot hquiet hnt hlimit, orExc_ok (busyTss_ok hd hsys hlocal), exe_bind_ok]
    have hcode : ∀ x : Word, Exc.ts (errorCode x false) = Exc.ts (x &&& 0xFFFC#16) := fun x => by
      rw [← errorCode_eq, selCode_false]
    refine ⟨fun h => ?_, fun h hold => ?_⟩
    · rw [hexec]
      have hfails := switchTasks_small (s := s.endNmi) .iret (sel := link) s.ip false s h
      rw [hcode] at hfails
      exact (hfails.bind _).complete (ts_vector _)
    · rw [hexec]
      have hfails := switchTasks_oldSmall (s := s.endNmi) .iret (sel := link) s.ip false s h hold
      rw [hcode] at hfails
      exact (hfails.bind _).complete (ts_vector _)

/-! ### A switch by an instruction -/

theorem deliver_task {s : State} (hprot : s.prot = true) (ev : Event) (ra : Word)
    (hlimit : 8 * ev.vector.toNat + 7 ≤ s.idtr.limit.toNat) :
    let gate := s.descAt (s.idtr.base.toNat + 8 * ev.vector.toNat)
    gate.System 5 → (ev.soft = true → s.cpl ≤ rightsDpl gate.ar) →
    s.deliver ev ra = s.afterBus fun s => switchVia s .nest gate.word1 ra ev.ext >>= fun t =>
      t.pushTaskCode ev >>= fun t => t.taskIpCheck ev.ext := by
  intro gate hsys hmay
  obtain ⟨hp, hs, ht⟩ := hsys
  have htype : (rightsType gate.ar == 5) = true := beq_iff_eq.mpr ((type_eq_iff gate.ar 5 (by norm_num)).mpr ht)
  rw [deliver_usable ra hprot ⟨rfl, hlimit, ⟨hs, .inl ht⟩, hmay⟩, ensure_bind (c := rightsPresent gate.ar) hp,
    if_pos htype, State.deliverTask]
  refine congrArg s.afterBus (funext fun u => ?_)
  rw [switchVia, bind_assoc]

/-- The state a switch by an instruction starts from: IRET ends the masking an NMI began. -/
def beforeSwitch (s : State) (kind : SwitchKind) : State := if kind = .iret then { s with nmiInService := false } else s

theorem exec_switch {s : State} {i : Instr} {kind : SwitchKind} {tss : Word} {d : Desc}
    (hform : s.SwitchForm i kind tss d) (hprot : s.prot = true) (hquiet : s.Quiet) (hd : s.Named tss d)
    (hsys : d.System (if kind = .iret then 3 else 1)) (hlocal : tss.getLsbD 2 = false)
    (h : 0x2B ≤ d.word0.toNat) (hold : 41 ≤ s.tr.limit.toNat) :
    exec i s = complete s (((beforeSwitch s kind).commitSwitch kind tss d s.ip).enterTask false >>= fun t =>
      t.taskIpCheck false) := by
  have hfar : ∀ calls, kind = farSwitch calls → kind ≠ .iret := fun calls hk hiret => by
    rw [hiret] at hk
    cases calls <;> cases hk
  have hvia : kind ≠ .iret → ∀ ra, switchVia s kind tss ra false =
      ((beforeSwitch s kind).commitSwitch kind tss d ra).enterTask false := fun hne ra => by
    rw [if_neg hne] at hsys
    rw [beforeSwitch, if_neg hne, switchVia_eq hd hsys hlocal h hold]
  rcases hform with ⟨calls, off, hfarForm, hkind, husable⟩ | ⟨calls, off, sel, gate, hfarForm, hkind, hgate, hgateSys,
    hcpl, hrpl, rfl⟩ | ⟨v, hsoft, rfl, hlimit, hgateSys, hmay, rfl⟩ | ⟨rfl, rfl, hnt, hlimit, rfl⟩
  · have hne := hfar calls hkind
    have hsys' := hsys
    rw [if_neg hne] at hsys'
    obtain ⟨hp, hs, ht⟩ := hsys'
    rw [exec_farTss hfarForm hprot hquiet hd hs (.inl ht), viaTss_usable _ hd husable,
      show farSwitch calls = kind from hkind.symm, hvia hne]
  · obtain ⟨hp, hs, ht⟩ := hgateSys
    rw [exec_farTaskGate hfarForm hprot hquiet hgate hs ht, viaTaskGate_eq _ hquiet ⟨hcpl, hrpl⟩ hp,
      show farSwitch calls = kind from hkind.symm, hvia (hfar calls hkind)]
  · rw [exec_softInt hsoft, deliver_task hprot (Event.software v) s.ip hlimit hgateSys fun _ => hmay,
      complete_afterBus hquiet]
    exact congrArg (fun m : Exe State => complete s (m >>= fun t => t.taskIpCheck false)) (hvia (by decide) s.ip)
  · rw [if_pos rfl] at hsys
    rw [exec_iretTask hprot hquiet hnt hlimit, orExc_ok (busyTss_ok hd hsys hlocal), exe_bind_ok,
      switchTasks_eq (s := s.endNmi) .iret s.ip false h hold]
    rfl

theorem newSelFault_vector {c : State} {ext : Bool} {sel : Word} {fits : Desc → Prop} {absent : Word → Exc} {e : Exc}
    (h : c.NewSelFault ext sel fits absent e) (habsent : ∀ w, (absent w).vector ≠ 16) : e.vector ≠ 16 := by
  rcases h with ⟨-, rfl⟩ | ⟨d, -, ⟨-, rfl⟩ | ⟨-, -, rfl⟩⟩
  · exact ts_vector _
  · exact ts_vector _
  · exact habsent _

theorem newTaskFault_vector {c u : State} {ext : Bool} {e : Exc} (h : c.NewTaskFault ext e u) : e.vector ≠ 16 := by
  rcases h with ⟨-, h, -⟩ | ⟨_, -, ⟨h, -⟩ | ⟨_, -, ⟨h, -⟩ | ⟨_, -, ⟨-, h, -⟩ | ⟨_, -, -, h, -⟩⟩⟩⟩
  · exact newSelFault_vector h ts_vector
  · exact newSelFault_vector h np_vector
  · exact newSelFault_vector h ss_vector
  · exact newSelFault_vector h np_vector
  · exact newSelFault_vector h np_vector

theorem taskIpCheck_ok {t : State} (h : t.ip.toNat ≤ t.cs.limit.toNat) (ext : Bool) :
    t.taskIpCheck ext = .ok (t.at t.ip) := if_pos h

theorem taskIpCheck_fault {t : State} (h : t.cs.limit.toNat < t.ip.toNat) (ext : Bool) :
    t.taskIpCheck ext = .error (.excAt (Exc.gp (errorCode 0 ext)) t) := by
  rw [← errorCode_null]
  exact if_neg (Nat.not_le.mpr h)

theorem beforeSwitch_switched {s c t : State} {kind : SwitchKind} {tss : Word} {d : Desc} {ret : Word}
    (h : (beforeSwitch s kind).Switched c t kind tss d ret) : s.Switched c t kind tss d ret := by
  cases kind <;> exact h

/-- A switch by an instruction whose checks in the old task pass. -/
theorem instruction_switches {s : State} {i : Instr} {kind : SwitchKind} {tss : Word} {d : Desc}
    (hform : s.SwitchForm i kind tss d) (hprot : s.prot = true) (hquiet : s.Quiet) (hd : s.Named tss d)
    (hsys : d.System (if kind = .iret then 3 else 1)) (hlocal : tss.getLsbD 2 = false) (hlimit : 0x2B ≤ d.word0.toNat)
    (hold : 41 ≤ s.tr.limit.toNat) :
    let c := (beforeSwitch s kind).commitSwitch kind tss d s.ip
    c.inst.ipInst = c.ip ∧
    (∀ e u, c.NewTaskFault false e u → u.inst.ipInst = c.ip ∧ exec i s = u.trap e.vector e.code) ∧
    ∀ t, c.enterTask false = .ok t →
      (t.cs.limit.toNat < t.ip.toNat → t.inst.ipInst = c.ip ∧ exec i s = t.trap 13 (some 0)) ∧
      (t.ip.toNat ≤ t.cs.limit.toNat → exec i s = .next (t.at t.ip) ∧ s.Switched c t kind tss d s.ip) := by
  intro c
  have hquiet' : (beforeSwitch s kind).Quiet := by cases kind <;> exact hquiet
  have hprot' : (beforeSwitch s kind).prot = true := by cases kind <;> exact hprot
  have hd' : (beforeSwitch s kind).Named tss d := by cases kind <;> exact hd
  have hip : c.inst.ipInst = c.ip := commit_ipInst hquiet' kind tss d s.ip
  have hmid : Midway c c := commit_midway hquiet' hprot' kind tss d s.ip
  have hexec := exec_switch hform hprot hquiet hd hsys hlocal hlimit hold
  refine ⟨hip, fun e u he => ?_, fun t ht => ?_⟩
  · obtain ⟨hfault, hinst⟩ := enterTask_fault hmid he
    refine ⟨hinst ▸ hip, ?_⟩
    rw [hexec, hfault]
    exact complete_faultAt s u (newTaskFault_vector he)
  · have hexec : exec i s = complete s (t.taskIpCheck false) := by
      rw [hexec, ht]
      rfl
    have hinst : t.inst = c.inst := (enterTask_midway hmid ht).inst
    refine ⟨fun hoff => ⟨hinst ▸ hip, ?_⟩, fun hoff => ⟨?_, ?_⟩⟩
    · rw [hexec, taskIpCheck_fault hoff]
      exact complete_faultAt s t (gp_vector _)
    · rw [hexec, taskIpCheck_ok hoff]
      rfl
    · exact beforeSwitch_switched (switched_spec hquiet' hprot' kind hd' hlocal s.ip ht)

/-! ### A switch by an event (60 R563) -/

section
variable {t : State} (ev : Event)

theorem pushTaskCode_full (h : ¬ (ev.code = none ∨ t.writeFault .ss (t.regs.sp - 2) 2 = none)) :
    t.pushTaskCode ev = .error (.doubleAt (Exc.ss (errorCode 0 ev.ext)) t) := by
  obtain ⟨hcode, hroom⟩ := not_or.mp h
  obtain ⟨c, hc⟩ := Option.ne_none_iff_exists'.mp hcode
  obtain ⟨e, he⟩ := Option.ne_none_iff_exists'.mp hroom
  rw [State.pushTaskCode, hc, ← errorCode_null]
  dsimp only
  rw [he]

theorem pushTaskCode_ok (hquiet : t.Quiet) (h : ev.code = none ∨ t.writeFault .ss (t.regs.sp - 2) 2 = none) :
    t.pushTaskCode ev = .ok (t.pushList ev.codeWords) := by
  rw [State.pushTaskCode, Event.codeWords]
  cases hc : ev.code with
  | none => rfl
  | some c =>
    have hroom := h.resolve_left (by rw [hc]; exact Option.some_ne_none c)
    dsimp only
    rw [hroom, State.yieldBus_quiet hquiet]

end

/-- The words an error code takes, pushed on the new task's stack. -/
theorem pushedCode_eq {t : State} (hquiet : t.Quiet) (ev : Event) :
    let u := t.pushList ev.codeWords
    u = { t with
      regs := t.regs.set .sp (t.regs.sp - BitVec.ofNat 16 (2 * codeCount ev.code)), mem := u.mem, writes := u.writes
      fetch := u.fetch } := by
  intro u
  rw [← codeWords_length]
  exact pushList_eq hquiet ev.codeWords

theorem pushedCode_memory {t : State} (hquiet : t.Quiet) (ev : Event) :
    (t.LowDecoded → ∀ x, ev.code = some x → (t.pushList ev.codeWords).load .word t.ss (t.regs.sp - 2) = x) ∧
    t.MemoryKept (t.pushList ev.codeWords) (t.stackCells (t.regs.sp - 2) (codeCount ev.code)) := by
  rw [Event.codeWords]
  cases ev.code with
  | none => exact ⟨fun _ x hx => (Option.some_ne_none x hx.symm).elim, fun _ _ => rfl⟩
  | some c =>
    refine ⟨fun hd x hx => ?_, State.pushList_kept [c] t hquiet⟩
    cases hx
    have h := State.pushList_words hquiet hd [c] (by norm_num) 0 c rfl
    simpa using h

section
variable {s : State} (hquiet : s.Quiet) (hprot : s.prot = true) (ev : Event) (ra : Word)
  (hlimit : 8 * ev.vector.toNat + 7 ≤ s.idtr.limit.toNat)
  (hsys : (s.descAt (s.idtr.base.toNat + 8 * ev.vector.toNat)).System 5)
  (hmay : ev.soft = true → s.cpl ≤ rightsDpl (s.descAt (s.idtr.base.toNat + 8 * ev.vector.toNat)).ar)
include hquiet hprot hlimit hsys hmay

theorem deliver_taskFails {e : Exc}
    (h : s.TssFault (s.descAt (s.idtr.base.toNat + 8 * ev.vector.toNat)).word1 ev.ext e) :
    Fails s (s.deliver ev ra) e := by
  rw [deliver_task hprot ev ra hlimit hsys hmay]
  exact fails_afterBus hquiet ((switchVia_fails h _ _).bind _)

variable {d : Desc} (hd : s.Named (s.descAt (s.idtr.base.toNat + 8 * ev.vector.toNat)).word1 d) (hd1 : d.System 1)
  (hlocal : (s.descAt (s.idtr.base.toNat + 8 * ev.vector.toNat)).word1.getLsbD 2 = false)
  (hsize : 0x2B ≤ d.word0.toNat) (hold : 41 ≤ s.tr.limit.toNat)
include hd hd1 hlocal hsize hold

/-- The delivery from the new task's checks on. -/
theorem deliver_switched : s.deliver ev ra = keepBus s
    ((s.commitSwitch .nest (s.descAt (s.idtr.base.toNat + 8 * ev.vector.toNat)).word1 d ra).enterTask ev.ext >>= fun t =>
      t.pushTaskCode ev >>= fun t => t.taskIpCheck ev.ext) := by
  rw [deliver_task hprot ev ra hlimit hsys hmay, State.afterBus, State.afterReads_quiet hquiet,
    switchVia_eq hd hd1 hlocal hsize hold]

theorem deliver_newTaskFault {e : Exc} {u : State}
    (h : (s.commitSwitch .nest (s.descAt (s.idtr.base.toNat + 8 * ev.vector.toNat)).word1 d ra).NewTaskFault
      ev.ext e u) : s.deliver ev ra = .error (.excAt e u) := by
  rw [deliver_switched hquiet hprot ev ra hlimit hsys hmay hd hd1 hlocal hsize hold,
    (enterTask_fault (commit_midway hquiet hprot _ _ d ra) h).1]
  rfl

variable {t : State}
  (ht : (s.commitSwitch .nest (s.descAt (s.idtr.base.toNat + 8 * ev.vector.toNat)).word1 d ra).enterTask false = .ok t)
include ht

theorem deliver_entered : s.deliver ev ra = keepBus s (t.pushTaskCode ev >>= fun t => t.taskIpCheck ev.ext) := by
  rw [deliver_switched hquiet hprot ev ra hlimit hsys hmay hd hd1 hlocal hsize hold,
    enterTask_ext (commit_midway hquiet hprot _ _ d ra) ht ev.ext, exe_bind_ok]

theorem deliver_pushed (hroom : ev.code = none ∨ t.writeFault .ss (t.regs.sp - 2) 2 = none) :
    s.deliver ev ra = keepBus s ((t.pushList ev.codeWords).taskIpCheck ev.ext) := by
  have htquiet : t.Quiet := (enterTask_midway (commit_midway hquiet hprot _ _ d ra) ht).quiet
  rw [deliver_entered hquiet hprot ev ra hlimit hsys hmay hd hd1 hlocal hsize hold ht, pushTaskCode_ok ev htquiet hroom,
    exe_bind_ok]

/-- The state an event leaves in the new task. -/
theorem deliver_taskOk (hroom : ev.code = none ∨ t.writeFault .ss (t.regs.sp - 2) 2 = none)
    (hip : t.ip.toNat ≤ t.cs.limit.toNat) : s.deliver ev ra = .ok ((t.pushList ev.codeWords).at t.ip) := by
  have htquiet : t.Quiet := (enterTask_midway (commit_midway hquiet hprot _ _ d ra) ht).quiet
  have hu := pushedCode_eq htquiet ev
  have huip : (t.pushList ev.codeWords).ip = t.ip := by rw [hu]
  have hucs : (t.pushList ev.codeWords).cs = t.cs := by rw [hu]
  rw [deliver_pushed hquiet hprot ev ra hlimit hsys hmay hd hd1 hlocal hsize hold ht hroom,
    taskIpCheck_ok (by rw [huip, hucs]; exact hip), huip]
  rfl

end

/-- Settles O43: the ways to a switch, its checks in the old task, those in the new one, and what it leaves. -/
theorem taskSwitchResult : Obligations.TaskSwitchResult := by
  unfold Obligations.TaskSwitchResult
  refine ⟨fun i calls off sel d s hform hprot hquiet hd hs => farSwitch_faults hform hprot hquiet hd hs,
    fun s hprot hquiet hnt => iretSwitch_faults hprot hquiet hnt,
    fun i kind tss d s hform hprot hquiet hd hsys hlocal hlimit hold =>
      instruction_switches hform hprot hquiet hd hsys hlocal hlimit hold,
    fun ev ra s hprot hquiet hlimit => ?_, fun a v code ra soft nmi d s t he hprot hquiet hlimit => ?_⟩
  · intro gate tss hsys hmay
    refine ⟨fun e he => deliveryFails_of (fun ra => deliver_taskFails hquiet hprot ev ra hlimit hsys hmay he)
      (tssFault_vector he), fun d hd hd1 hlocal hsize hold => ?_⟩
    intro c
    refine ⟨fun e u he => deliver_newTaskFault hquiet hprot ev ra hlimit hsys hmay hd hd1 hlocal hsize hold he,
      fun t ht => ?_⟩
    have htquiet : t.Quiet := (enterTask_midway (commit_midway hquiet hprot _ _ d ra) ht).quiet
    refine ⟨fun hnoRoom => ?_, fun hroom hip => ?_⟩
    · rw [deliver_entered hquiet hprot ev ra hlimit hsys hmay hd hd1 hlocal hsize hold ht, pushTaskCode_full ev hnoRoom]
      rfl
    · have hu := pushedCode_eq htquiet ev
      refine ⟨_, ?_, hu⟩
      have huip : (t.pushList ev.codeWords).ip = t.ip := by rw [hu]
      have hucs : (t.pushList ev.codeWords).cs = t.cs := by rw [hu]
      rw [deliver_pushed hquiet hprot ev ra hlimit hsys hmay hd hd1 hlocal hsize hold ht hroom,
        taskIpCheck_fault (by rw [huip, hucs]; exact hip)]
      rfl
  · intro gate tss hsys hmay hd hd1 hlocal hsize hold c sp ht hroom hip
    have hmid := commit_midway hquiet hprot .nest tss d ra
    have htquiet : t.Quiet := (enterTask_midway hmid ht).quiet
    let ev (ext : Bool) : Event := { vector := v, code := code, ext := ext, soft := soft, nmi := nmi }
    have hdeliver : ∀ ext, s.deliver (ev ext) ra = .ok ((t.pushList (ev false).codeWords).at t.ip) := fun ext =>
      deliver_taskOk hquiet hprot (ev ext) ra hlimit hsys hmay hd hd1 hlocal hsize hold ht hroom hip
    have hu := pushedCode_eq htquiet (ev false)
    obtain ⟨hload, hkept⟩ := pushedCode_memory htquiet (ev false)
    have hplat : t.platform = s.platform :=
      (enterTask_platform hmid ht).trans (commit_platform hquiet .nest tss d ra)
    refine ⟨switched_spec hquiet hprot .nest hd hlocal ra ht, _, entry_next he hquiet hdeliver, ?_,
      fun hdec => ?_, hkept⟩
    · exact (congrArg (fun w : State => arrive soft (w.at t.ip)) hu :)
    · exact hload (by rw [State.LowDecoded, hplat]; exact hdec)

end Sys2Proof.Proofs.Other
end
